-- ==== Sys2Proof/Word.lean ====
section
/-! DEFINITION. The words of the machine, the operand fields of a chain (R41, R44, R46) and the operands of the
agents' and the host's steps. Plain data, no meaning. -/

namespace Sys2Proof

/-- R11: the four integer widths, and the two register images of R17 and R19. -/
abbrev Byte := BitVec 8
abbrev Half := BitVec 16
abbrev Word32 := BitVec 32
abbrev Word := BitVec 64
abbrev VReg := BitVec 4096
abbrev PReg := BitVec 1024

/-- R44: the fields of a PR word. -/
structure PrF where
  e  : BitVec 5
  dh : Bool
  ah : Bool
  w  : Bool
  deriving DecidableEq, Repr

/-- R44, R49: the fields of a PP word. -/
structure PpF where
  pred : BitVec 3
  inv  : Bool
  zero : Bool
  deriving DecidableEq, Repr

/-- The prefix words of a chain in the order of R45: the sub field of PO (its page is the instruction's own),
PR, PP, and the imm10 fields of the PX words, most significant first. -/
structure Pre where
  po : Option (BitVec 4)
  pr : Option PrF
  pp : Option PpF
  px : List (BitVec 10)
  deriving DecidableEq, Repr

/-- R41: the operand fields of the four base formats, with the chain's prefix words. -/
structure F2 where
  pre : Pre
  d   : BitVec 4
  a   : BitVec 4
  deriving DecidableEq, Repr

structure FI where
  pre : Pre
  d   : BitVec 4
  imm : BitVec 7
  deriving DecidableEq, Repr

structure FB where
  pre : Pre
  a   : BitVec 4
  off : BitVec 7
  deriving DecidableEq, Repr

structure FJ where
  pre : Pre
  off : BitVec 11
  deriving DecidableEq, Repr

/-- The chain without prefix words. -/
def Pre.none : Pre := { po := .none, pr := .none, pp := .none, px := [] }

/-! Operands of the agents' and the host's steps. -/

/-- What the ECC engine finds in the words of one request (R276). -/
inductive Ecc where
  | clean
  | corrected (words : Nat)
  | uncorrectable
  deriving DecidableEq, Repr

/-- Header of an SQP message after its tag has been checked (R329). -/
structure Sqp where
  mgmt   : Bool
  queue  : Nat
  seq    : Nat
  tenant : Nat
  deriving DecidableEq, Repr

/-- One network of a submission (R330, types 0x01 and 0x02). -/
structure SubmitNet where
  image  : Nat
  index  : Nat
  args   : Word
  replay : Option Nat
  graph  : Nat
  phase  : Nat
  deriving DecidableEq, Repr

/-- R254: the kinds of a dependence edge. -/
inductive EdgeKind where
  | completion | anyCompletion | watermark
  deriving DecidableEq, Repr

/-- An edge of a graph submission between two of its networks, by position; a watermark edge carries the
counter address and the base address of the producer's buffer (R257). -/
structure Edge where
  src  : Nat
  dst  : Nat
  kind : EdgeKind
  ctr  : Word
  base : Word
  deriving DecidableEq, Repr

/-- A placement entry of R217. -/
structure Hint where
  proc : Nat
  x    : Nat
  y    : Nat
  deriving DecidableEq, Repr

/-- What a job start assigns (R338, R30): `rows` are pieces of 2 MiB of the spread view, `ranges` the range table that
the job begins with, by index and image (R218). -/
structure JobDecl where
  tenant : Nat
  tiles  : List Nat
  stackNos : List Nat
  queues : List Nat
  arr    : Option Nat
  bank   : List (Nat × Nat)
  rows   : List Nat
  ranges : List (Nat × Nat)
  deriving DecidableEq, Repr

/-- R310: a flit of a span link. -/
structure Flit where
  seq     : Nat
  type    : Nat
  cls     : Nat
  ack     : Nat
  payload : List Byte
  crc     : Word
  deriving DecidableEq, Repr

/-- Outcomes of the steps of a start that the device measures (R336, R337): `badRecords` are the units whose stored parameters have a
wrong CRC and `celsius` the present temperature of each unit (stacks 0 to 23, span links 24 to 35, the host link 36; 25 °C where it
gives none), `spot` the die or stack at which a step failed. -/
structure StartFinds where
  firmwareOk : Bool
  selfTestOk : Bool
  stacksOk   : Bool
  linksUp    : List Nat
  hostLinkOk : Bool
  clearOk    : Bool
  clocks     : List Nat
  badRecords : List Nat := []
  celsius    : List Int := []
  spot       : Nat := 0xFF
  deriving DecidableEq, Repr

/-- The resources of R339 that are cleared by rows. -/
inductive Cleared where
  | blocks (tenant : Nat)
  | spill (nid : Nat)
  | save (slot : Nat)
  deriving DecidableEq, Repr

/-- Where an uncorrectable error of R267 lies. -/
inductive SramSpot where
  | submission (slot : Nat)
  | dependence (tenant nid : Nat)
  | tagLost (queue : Nat)
  deriving DecidableEq, Repr

end Sys2Proof
end

