-- ==== Sys2Proof/Syntax.lean ====
section
/-! DEFINITION. `Instr`: one constructor for every row of the opcode table, in the table's order. A chain row carries
the fields of its words (R41, R44); `fig` carries the base word's op and f as well, since they are parameters (R57); a
row that is a step of an agent, of the hub or of the host carries that step's operands. -/

namespace Sys2Proof

inductive Instr where
  /-- NOP, R88: Does nothing and retires. -/
  | nop (x : F2)
  /-- EXIT, R89: Waits for the context's outstanding copies, requests and fills, releases, marks its input channels' reader exited, discarding their tokens, frees its tiles and bindings, and marks the process exited. -/
  | exit (x : F2)
  /-- SVC, R90: Raises the service-call trap with tval n and tpc at the next chain. -/
  | svc (x : F2)
  /-- BRK, R90: Raises the breakpoint trap with tval n and tpc at the next chain. -/
  | brk (x : F2)
  /-- IFSYNC, R88: Discards the context's fetch buffer when it retires. -/
  | ifsync (x : F2)
  /-- FENCE, R91: Retires only after every earlier load, store and atomic of the process is performed within the scope that PO.sub selects, and delivers a held write error. -/
  | fence (x : F2)
  /-- MFS, R92: Copies special register A into g(d). -/
  | mfs (x : F2)
  /-- MTS, R92: Writes g(d) into special register A, subject to the access and privilege checks of R21, taking effect for later chains. -/
  | mts (x : F2)
  /-- ADD, R93: Writes x + y modulo 2^64 to g(d). -/
  | add (x : F2)
  /-- SUB, R93: Writes x − y modulo 2^64 to g(d). -/
  | sub (x : F2)
  /-- AND, R93: Writes x AND y to g(d). -/
  | and (x : F2)
  /-- OR, R93: Writes x OR y to g(d). -/
  | or (x : F2)
  /-- XOR, R93: Writes x XOR y to g(d). -/
  | xor (x : F2)
  /-- SLL, R93: Shifts x left by y[5:0] into g(d). -/
  | sll (x : F2)
  /-- SRL, R93: Shifts x right logically by y[5:0] into g(d). -/
  | srl (x : F2)
  /-- SRA, R93: Shifts x right arithmetically by y[5:0] into g(d). -/
  | sra (x : F2)
  /-- MUL, R93: Writes the low 64 bits of x × y to g(d). -/
  | mul (x : F2)
  /-- MULH, R93: Writes the high 64 bits of the signed product to g(d). -/
  | mulh (x : F2)
  /-- MULHU, R93: Writes the high 64 bits of the unsigned product to g(d). -/
  | mulhu (x : F2)
  /-- MULHSU, R93: Writes the high 64 bits of signed x times unsigned y to g(d). -/
  | mulhsu (x : F2)
  /-- DIV, R94: Writes the signed quotient rounded toward zero, with the fixed results for division by zero and overflow. -/
  | div (x : F2)
  /-- DIVU, R94: Writes the unsigned quotient, all ones for division by zero. -/
  | divu (x : F2)
  /-- REM, R94: Writes the signed remainder that keeps q × y + r = x. -/
  | rem (x : F2)
  /-- REMU, R94: Writes the unsigned remainder that keeps q × y + r = x. -/
  | remu (x : F2)
  /-- ADDI, R96: Adds the sign-extended FI immediate to g(d). -/
  | addi (x : FI)
  /-- MOVI, R96: Writes the sign-extended FI immediate to g(d). -/
  | movi (x : FI)
  /-- SLLI, R95: Shifts g(d) left by the a-immediate n. -/
  | slli (x : F2)
  /-- SRLI, R95: Shifts g(d) right logically by the a-immediate n. -/
  | srli (x : F2)
  /-- SRAI, R95: Shifts g(d) right arithmetically by the a-immediate n. -/
  | srai (x : F2)
  /-- CLZ, R95: Writes the count of leading zero bits of g(a). -/
  | clz (x : F2)
  /-- CTZ, R95: Writes the count of trailing zero bits of g(a). -/
  | ctz (x : F2)
  /-- POPC, R95: Writes the count of one bits of g(a). -/
  | popc (x : F2)
  /-- SEXTW, R95: Writes g(a)[31:0] sign-extended. -/
  | sextw (x : F2)
  /-- ZEXTW, R95: Writes g(a)[31:0] zero-extended. -/
  | zextw (x : F2)
  /-- SEQ, R93: Writes 1 if x = y, else 0. -/
  | seq (x : F2)
  /-- SNE, R93: Writes 1 if x ≠ y, else 0. -/
  | sne (x : F2)
  /-- SLT, R93: Writes 1 if signed x < y, else 0. -/
  | slt (x : F2)
  /-- SLTU, R93: Writes 1 if unsigned x < y, else 0. -/
  | sltu (x : F2)
  /-- SGE, R93: Writes 1 if signed x ≥ y, else 0. -/
  | sge (x : F2)
  /-- SGEU, R93: Writes 1 if unsigned x ≥ y, else 0. -/
  | sgeu (x : F2)
  /-- MIN, R93: Writes the signed minimum of x and y. -/
  | min (x : F2)
  /-- MAX, R93: Writes the signed maximum of x and y. -/
  | max (x : F2)
  /-- ANDI, R96: ANDs g(d) with the sign-extended FI immediate. -/
  | andi (x : FI)
  /-- LB, R100: Loads a byte at EA, sign-extended, after the checks of R99. -/
  | lb (x : F2)
  /-- LBU, R100: Loads a byte at EA, zero-extended. -/
  | lbu (x : F2)
  /-- LH, R100: Loads a halfword at EA, sign-extended. -/
  | lh (x : F2)
  /-- LHU, R100: Loads a halfword at EA, zero-extended. -/
  | lhu (x : F2)
  /-- LW, R100: Loads a word at EA, sign-extended. -/
  | lw (x : F2)
  /-- LWU, R100: Loads a word at EA, zero-extended. -/
  | lwu (x : F2)
  /-- LD, R100: Loads a doubleword at EA. -/
  | ld (x : F2)
  /-- LEA, R98: Writes EA = g(a) + S to g(d) without access or check. -/
  | lea (x : F2)
  /-- SB, R100: Stores the low byte of g(d) at EA. -/
  | sb (x : F2)
  /-- SH, R100: Stores the low halfword of g(d) at EA. -/
  | sh (x : F2)
  /-- SW, R100: Stores the low word of g(d) at EA. -/
  | sw (x : F2)
  /-- SD, R100: Stores g(d) at EA. -/
  | sd (x : F2)
  /-- AMOADD, R101: Atomically adds the operand to the doubleword at EA in a tile space and returns the old value. -/
  | amoadd (x : F2)
  /-- AMOSWAP, R101: Atomically swaps the operand with the doubleword at EA and returns the old value. -/
  | amoswap (x : F2)
  /-- AMOMAX, R101: Atomically writes the signed maximum of old and operand and returns the old value. -/
  | amomax (x : F2)
  /-- AMOCAS, R101: Atomically writes g(e) where old equals g(d) and returns the old value. -/
  | amocas (x : F2)
  /-- BEQZ, R102: Branches to B + 2 × off when g(a) is zero. -/
  | beqz (x : FB)
  /-- BNEZ, R102: Branches to B + 2 × off when g(a) is non-zero. -/
  | bnez (x : FB)
  /-- J, R102: Branches unconditionally to B + 2 × off. -/
  | j (x : FJ)
  /-- CALL, R102: Writes B + 2 to g1 and branches to B + 2 × off. -/
  | call (x : FJ)
  /-- JR, R103: Branches to the local offset in g(a), checking its form. -/
  | jr (x : F2)
  /-- CALLR, R103: Writes B + 2 to g1 and branches to the offset in g(a). -/
  | callr (x : F2)
  /-- RET, R103: Branches to the local offset in g1. -/
  | ret (x : F2)
  /-- BPT, R104: Branches when some bit below vl of p(a) is set, waiting for the vector queue. -/
  | bpt (x : F2)
  /-- BPF, R104: Branches when no bit below vl of p(a) is set. -/
  | bpf (x : F2)
  /-- QPOP, R108: Waits for a token on a read-bound queue, pops it into g(d) with an acquire, or traps on end of stream; on a pool binding acts as poolget. -/
  | qpop (x : F2)
  /-- QPOPB, R108: Pops a token into g(d), or branches leaving the end-of-stream token in place. -/
  | qpopb (x : F2)
  /-- QPUSH, R109: Releases and pushes g(a) as a token when a slot is free, or traps or drops when the reader has exited; on a pool binding acts as poolput. -/
  | qpush (x : F2)
  /-- QCLOSE, R109: Pushes the end-of-stream token and marks the writer as having closed the channel. -/
  | qclose (x : F2)
  /-- QBIND, R107: Binds q(d) to the channel, pool or engine port that the descriptor in g(a) names, or raises stream fault. -/
  | qbind (x : F2)
  /-- QUNBIND, R107: Makes q(d) unbound without moving or closing anything. -/
  | qunbind (x : F2)
  /-- SETVL, R119: Takes a pending pre-emption, else sets vtype and vlmax, grants vl = min(g(a), vlmax) into g(d), and zeroes vector registers outside the keep mask. -/
  | setvl (x : F2)
  /-- SETVLI, R119: As setvl with the requested count taken from ah:a. -/
  | setvli (x : F2)
  /-- STRIP, R121: Reduces the remaining count, advances the stripset pointers, optionally waits on the watermark, grants the next vl, kills dead registers and branches while work remains. -/
  | strip (x : F2)
  /-- STRIPCFG, R123: Writes stripset from the PX value U. -/
  | stripcfg (x : F2)
  /-- PAND, R124: Writes the AND of two predicates for bits below vl. -/
  | pand (x : F2)
  /-- POR, R124: Writes the OR of two predicates. -/
  | por (x : F2)
  /-- PXOR, R124: Writes the XOR of two predicates. -/
  | pxor (x : F2)
  /-- PNOT, R124: Writes the complement of p(a) below vl. -/
  | pnot (x : F2)
  /-- PBRKB, R124: Sets the bits below the first set bit of p(a). -/
  | pbrkb (x : F2)
  /-- PBRKI, R124: Sets the bits up to and including the first set bit of p(a). -/
  | pbrki (x : F2)
  /-- PFIRST, R124: Writes the index of the first set bit of p(a) below vl, or −1, to g(d). -/
  | pfirst (x : F2)
  /-- PCOUNT, R124: Writes the number of set bits of p(a) below vl to g(d). -/
  | pcount (x : F2)
  /-- WAITGE, R200: Waits until the counter at g(d) reaches g(a), then acquires, or raises a recorded copy fault. -/
  | waitge (x : F2)
  /-- CADD, R199: Releases, then adds g(a) to the counter with saturation at its owner, retiring on acceptance. -/
  | cadd (x : F2)
  /-- VWAIT, R201: Waits until every active counter of a vector group meets its target, or its time-out expires, then acquires and writes the unmet mask to pd. -/
  | vwait (x : F2)
  /-- BAR, R202: Arrives at barrier n and waits for its generation to complete, then acquires. -/
  | bar (x : F2)
  /-- BARARR, R202: Arrives at barrier n without waiting. -/
  | bararr (x : F2)
  /-- BARWAIT, R202: Waits for the pending arrival's generation at barrier n to complete, then acquires. -/
  | barwait (x : F2)
  /-- SSTEP, R203: Acts as bar, with completion also waiting for delivery of every earlier token and store of the participants. -/
  | sstep (x : F2)
  /-- VADD, R125: Adds active elements, wrapping or rounding under vtype. -/
  | vadd (x : F2)
  /-- VSUB, R125: Subtracts active elements. -/
  | vsub (x : F2)
  /-- VMUL, R125: Multiplies active elements. -/
  | vmul (x : F2)
  /-- VMIN, R126: Writes the smaller of active elements. -/
  | vmin (x : F2)
  /-- VMAX, R126: Writes the larger of active elements. -/
  | vmax (x : F2)
  /-- VABD, R125: Writes the absolute difference of active elements. -/
  | vabd (x : F2)
  /-- VMAC, R125: Writes vd + x × y, fused. -/
  | vmac (x : F2)
  /-- VNMAC, R125: Writes vd − x × y, fused. -/
  | vnmac (x : F2)
  /-- VAND, R127: ANDs active elements bitwise. -/
  | vand (x : F2)
  /-- VOR, R127: ORs active elements bitwise. -/
  | vor (x : F2)
  /-- VXOR, R127: XORs active elements bitwise. -/
  | vxor (x : F2)
  /-- VANDN, R127: Writes x AND NOT y. -/
  | vandn (x : F2)
  /-- VSLL, R127: Shifts integer elements left by y mod w. -/
  | vsll (x : F2)
  /-- VSRL, R127: Shifts integer elements right with zero fill. -/
  | vsrl (x : F2)
  /-- VSRA, R127: Shifts integer elements right with sign fill. -/
  | vsra (x : F2)
  /-- VNOT, R127: Complements active elements. -/
  | vnot (x : F2)
  /-- VCEQ, R128: Sets pd where x = y. -/
  | vceq (x : F2)
  /-- VCNE, R128: Sets pd where x ≠ y. -/
  | vcne (x : F2)
  /-- VCLT, R128: Sets pd where x < y. -/
  | vclt (x : F2)
  /-- VCLE, R128: Sets pd where x ≤ y. -/
  | vcle (x : F2)
  /-- VCGT, R128: Sets pd where x > y. -/
  | vcgt (x : F2)
  /-- VCGE, R128: Sets pd where x ≥ y. -/
  | vcge (x : F2)
  /-- VCLTU, R128: Sets pd where unsigned x < y. -/
  | vcltu (x : F2)
  /-- VCUN, R128: Sets pd where x or y is a NaN. -/
  | vcun (x : F2)
  /-- VMOV, R129: Copies active elements of va to vd. -/
  | vmov (x : F2)
  /-- VSPLAT, R129: Writes g(a) into every active element. -/
  | vsplat (x : F2)
  /-- VEXT, R129: Writes element n of va, extended, to g(d). -/
  | vext (x : F2)
  /-- VINS, R129: Writes g(a) into element n of vd. -/
  | vins (x : F2)
  /-- VMERGE, R129: Selects each element below vl from va or the second source by the predicate. -/
  | vmerge (x : F2)
  /-- VID, R129: Writes each active element's index. -/
  | vid (x : F2)
  /-- VIOTA, R129: Writes the count of set predicate bits below each active index. -/
  | viota (x : F2)
  /-- VCOMPRESS, R129: Packs active elements of va to the low elements of vd. -/
  | vcompress (x : F2)
  /-- VLD, R142: Loads unit-stride elements from a tile space after the element checks of R144. -/
  | vld (x : F2)
  /-- VLDS, R142: Loads strided elements. -/
  | vlds (x : F2)
  /-- VLDX, R142: Loads indexed elements. -/
  | vldx (x : F2)
  /-- VLDFF, R145: Loads unit-stride elements, trimming vl at the first failing element unless element 0 fails. -/
  | vldff (x : F2)
  /-- VLDBC, R142: Loads one element and broadcasts it to every active element. -/
  | vldbc (x : F2)
  /-- VST, R146: Stores unit-stride active elements in ascending order. -/
  | vst (x : F2)
  /-- VSTS, R146: Stores strided active elements. -/
  | vsts (x : F2)
  /-- VSTX, R146: Stores indexed active elements. -/
  | vstx (x : F2)
  /-- VREDSUM, R132: Sums active elements in a pairwise tree with init into vd[0]. -/
  | vredsum (x : F2)
  /-- VREDOSUM, R132: Sums active elements in ascending order with init into vd[0]. -/
  | vredosum (x : F2)
  /-- VREDMAX, R131: Writes the largest participant or init to vd[0]. -/
  | vredmax (x : F2)
  /-- VREDMIN, R131: Writes the smallest participant or init to vd[0]. -/
  | vredmin (x : F2)
  /-- VREDAND, R131: ANDs participants and init into vd[0]. -/
  | vredand (x : F2)
  /-- VREDOR, R131: ORs participants and init into vd[0]. -/
  | vredor (x : F2)
  /-- VREDXOR, R131: XORs participants and init into vd[0]. -/
  | vredxor (x : F2)
  /-- VCVT, R133: Converts active elements to the target format that PO.sub names. -/
  | vcvt (x : F2)
  /-- VWIDEN, R134: Widens elements exactly to the next format. -/
  | vwiden (x : F2)
  /-- VNARROW, R134: Narrows elements by truncation or rounding. -/
  | vnarrow (x : F2)
  /-- VRINT, R134: Rounds floating elements to integral values. -/
  | vrint (x : F2)
  /-- VSLUP, R130: Slides elements up by n. -/
  | vslup (x : F2)
  /-- VSLDN, R130: Slides elements down by n. -/
  | vsldn (x : F2)
  /-- VRGAT, R130: Gathers va elements by the indices in ve. -/
  | vrgat (x : F2)
  /-- VZIP, R130: Interleaves two sources. -/
  | vzip (x : F2)
  /-- VUNZIP, R130: Takes the even or odd elements of two concatenated sources. -/
  | vunzip (x : F2)
  /-- VREV, R130: Reverses the elements below vl. -/
  | vrev (x : F2)
  /-- VSL1UP, R130: Slides up by one, inserting g(e) at element 0. -/
  | vsl1up (x : F2)
  /-- VSL1DN, R130: Slides down by one, inserting g(e) at element vl − 1. -/
  | vsl1dn (x : F2)
  /-- VDIV, R135: Divides floating elements, correctly rounded. -/
  | vdiv (x : F2)
  /-- VSQRT, R135: Takes the square root of floating elements. -/
  | vsqrt (x : F2)
  /-- VRCP, R135: Takes the reciprocal of floating elements. -/
  | vrcp (x : F2)
  /-- VRSQRT, R135: Takes the reciprocal square root of floating elements. -/
  | vrsqrt (x : F2)
  /-- VEXP2, R136: Computes 2^x of floating elements. -/
  | vexp2 (x : F2)
  /-- VLOG2, R136: Computes log2 x of floating elements. -/
  | vlog2 (x : F2)
  /-- VCLASS, R135: Writes the class mask of each floating element. -/
  | vclass (x : F2)
  /-- VABS, R135: Writes the magnitude of each element. -/
  | vabs (x : F2)
  /-- VSADD, R137: Adds with signed saturation. -/
  | vsadd (x : F2)
  /-- VSSUB, R137: Subtracts with signed saturation. -/
  | vssub (x : F2)
  /-- VSADDU, R137: Adds with unsigned saturation. -/
  | vsaddu (x : F2)
  /-- VSSUBU, R137: Subtracts with unsigned saturation. -/
  | vssubu (x : F2)
  /-- VAVG, R137: Writes the rounded-up average. -/
  | vavg (x : F2)
  /-- VMULH, R137: Writes the high w bits of the signed product. -/
  | vmulh (x : F2)
  /-- VMULHU, R137: Writes the high w bits of the unsigned product. -/
  | vmulhu (x : F2)
  /-- VSRR, R137: Shifts right with rounding. -/
  | vsrr (x : F2)
  /-- VNCLIP, R138: Narrows signed elements with rounding shift and saturation. -/
  | vnclip (x : F2)
  /-- VNCLIPU, R138: Narrows unsigned elements with rounding shift and saturation. -/
  | vnclipu (x : F2)
  /-- VMACW, R139: Multiply-accumulates into elements of the wider format. -/
  | vmacw (x : F2)
  /-- VDOTW, R139: Adds four-element dot products into wider elements. -/
  | vdotw (x : F2)
  /-- VBMAX, R140: Writes each block's E3M5 scale code. -/
  | vbmax (x : F2)
  /-- VBSCALE, R140: Quantises elements to FP4 codes with the given block scales. -/
  | vbscale (x : F2)
  /-- VBDEQ, R140: Dequantises FP4 codes with block scales. -/
  | vbdeq (x : F2)
  /-- VSPARSE, R141: Applies 2:4 pruning to each group of four. -/
  | vsparse (x : F2)
  /-- MXON, R149: Claims or releases accumulator tiles to hold n and turns matrix state on. -/
  | mxon (x : F2)
  /-- MXOFF, R149: Releases all accumulator tiles and turns matrix state off. -/
  | mxoff (x : F2)
  /-- MZERO, R150: Writes +0 to both words of every pair of z(d). -/
  | mzero (x : F2)
  /-- MOP, R153: Accumulates the outer products of va and vb into enabled pairs of z(d) with compensated steps. -/
  | mop (x : F2)
  /-- MOPN, R153: Accumulates the negated outer products into z(d). -/
  | mopn (x : F2)
  /-- MFOLD, R150: Folds every pair of z(d) into s with err = +0. -/
  | mfold (x : F2)
  /-- MROWV, R154: Copies a row part of an accumulator tile into vd. -/
  | mrowv (x : F2)
  /-- MCOLV, R154: Copies a column part of an accumulator tile into vd. -/
  | mcolv (x : F2)
  /-- MVROW, R154: Writes va into a row part of z(d). -/
  | mvrow (x : F2)
  /-- MVCOL, R154: Writes va into a column part of z(d). -/
  | mvcol (x : F2)
  /-- MACST, R155: Stores the enabled elements of a tile to a tile space in the format of PO.sub. -/
  | macst (x : F2)
  /-- MACLD, R155: Loads the enabled elements of a tile from a tile space. -/
  | macld (x : F2)
  /-- RSALLOC, R160: Allocates an array or bank residency and writes its handle or an error code to g(d). -/
  | rsalloc (x : F2)
  /-- RSLOAD, R161: Probes the source and starts an asynchronous fill of a residency, which enters loading. -/
  | rsload (x : F2)
  /-- RSPIN, R169: Marks a live residency pinned. -/
  | rspin (x : F2)
  /-- RSUNPIN, R169: Clears the pinned mark of a live residency. -/
  | rsunpin (x : F2)
  /-- RSREV, R171: Waits for uses past their check point, abandons a fill, zeroes and frees the residency and makes its handle non-live. -/
  | rsrev (x : F2)
  /-- RSQ, R172: Writes the residency's size, flags and state to g(d). -/
  | rsq (x : F2)
  /-- MRES, R165: Passes the residency check and accumulates va against block b of an array residency into z(d). -/
  | mres (x : F2)
  /-- MRESV, R166: Sends the activation in va to a bank residency panel and arranges its reply tokens on the near-bank stream vd. -/
  | mresv (x : F2)
  /-- SSET, R176: Puts a register of v24–v31 into stream mode on a vector channel, pattern or near-bank reply. -/
  | sset (x : F2)
  /-- SSTOP, R178: Returns a stream register to ordinary mode, discarding fetched pattern tokens or awaited replies. -/
  | sstop (x : F2)
  /-- SSTOP_CLOSE, R178: Pushes end of stream on a vector channel sink as qclose does, then stops the stream. -/
  | sstopClose (x : F2)
  /-- VSLR, R180: Slides the window by S columns or fills it whole, fetching in-image elements and padding the rest. -/
  | vslr (x : F2)
  /-- VSLRCFG, R179: Copies a 64-byte slide configuration into the context's slide state. -/
  | vslrcfg (x : F2)
  /-- CPY, R183: Checks a copy descriptor and hands the copy to the copy unit, waiting for a copy slot. -/
  | cpy (x : F2)
  /-- CPYX, R186: Issues an indexed copy whose dimension-0 source offsets come from an index list. -/
  | cpyx (x : F2)
  /-- CPYDIST, R187: Issues a block-cyclic distribution of rows over up to eight parts. -/
  | cpydist (x : F2)
  /-- CPYZ, R184: Issues a copy that writes zero bytes to the destination. -/
  | cpyz (x : F2)
  /-- MRD, R192: Issues a tagged read packet to a memory server, reserving a reply slot. -/
  | mrd (x : F2)
  /-- MWR, R192: Issues a tagged write packet to a memory server. -/
  | mwr (x : F2)
  /-- MWRM, R193: Issues a tagged masked write packet. -/
  | mwrm (x : F2)
  /-- MATOM, R193: Issues a tagged atomic packet to a memory server. -/
  | matom (x : F2)
  /-- MRSP, R194: Waits for the reply of tag g(a), frees it, raises any fault, writes the result and acquires. -/
  | mrsp (x : F2)
  /-- VLDG, R196: Translates and probes every active element, loads them from global memory on mq1 and writes vd. -/
  | vldg (x : F2)
  /-- VSTG, R196: Stores active elements to global memory on mq1, retiring when the requests leave. -/
  | vstg (x : F2)
  /-- VLDGFF, R196: Loads from global memory, trimming vl at the lowest failing element. -/
  | vldgff (x : F2)
  /-- POOLPUT, R205: Places a token in the pool's put list for the current lap. -/
  | poolput (x : F2)
  /-- POOLGET, R205: Places a request in the pool's list for the current lap and waits to be served. -/
  | poolget (x : F2)
  /-- LAUNCH, R206: Releases, sends a launch of a pre-placed image to the hub and writes the hub's answer. -/
  | launch (x : F2)
  /-- CANCEL, R207: Sends a cancel of a level-table entry to the hub and retires on acceptance. -/
  | cancel (x : F2)
  /-- CCGET, R208: Waits until the entry is final, acquires and writes its status and discarded count. -/
  | ccget (x : F2)
  /-- CUT, R209: Starts a slalom cut of another network, injecting gates at its sources. -/
  | cut (x : F2)
  /-- TRET, R212: Returns from a local handler to tpc and clears tstatus.act. -/
  | tret (x : F2)
  /-- CTXSAVE, R214: Writes a parked process's save record, releases and returns its length. -/
  | ctxsave (x : F2)
  /-- CTXREST, R215: Validates a save record and replaces a parked process's context with it. -/
  | ctxrest (x : F2)
  /-- RTSET, R218: Writes an entry of the tenant's staged range table. -/
  | rtset (x : F2)
  /-- RTCOMMIT, R220: Checks the staged table, releases, switches every die to it and waits for the old generation to drain. -/
  | rtcommit (x : F2)
  /-- RTINV, R219: Makes the staged table equal to the active table. -/
  | rtinv (x : F2)
  /-- FGLOAD, R231: Verifies and copies a figure into the tile's figure store and marks its start. -/
  | fgload (x : F2)
  /-- FGBIND, R232: Binds a figure number to a start-marked word of the selected partition. -/
  | fgbind (x : F2)
  /-- FGCLR, R233: Zeroes a figure-store partition and clears its start marks. -/
  | fgclr (x : F2)
  /-- FGSEL, R232: Selects a figure-store partition in fgmap.part. -/
  | fgsel (x : F2)
  /-- CHGOWN, R222: Raises the privileged-instruction trap in every tile context. -/
  | chgown (x : F2)
  /-- RESUME, R216: Releases and unparks a parked process, which continues at its recorded pc. -/
  | resume (x : F2)
  /-- RESUME_SNAP, R217: Asks the hub to resume a cut snapshot as a new network and writes its answer. -/
  | resumeSnap (x : F2)
  /-- RSEED, R224: Obtains a fresh or logged 128-bit seed, logs it, keys the generator and resets its counter. -/
  | rseed (x : F2)
  /-- RSTREAM, R225: Selects a substream and sets the generator counter. -/
  | rstream (x : F2)
  /-- VRAND, R226: Writes random integer elements from consecutive generator outputs. -/
  | vrand (x : F2)
  /-- VRANDF, R226: Writes uniform floating elements in [0, 1) from generator draws. -/
  | vrandf (x : F2)
  /-- DGON, R228: Sets dgstate.on of the context. -/
  | dgon (x : F2)
  /-- DGOFF, R228: Clears dgstate.on and sets dgstate.done. -/
  | dgoff (x : F2)
  /-- DGGET, R229: Waits until a network is final and writes its signed digest record or −1. -/
  | dgget (x : F2)
  /-- RDCTR, R230: Reads one diagnostic counter of a context, tile or memory server. -/
  | rdctr (x : F2)
  /-- FIG, R237: Runs a bound figure's micro-operations to completion as one indivisible step, committing registers and buffered stores or faulting with no effect. -/
  | fig (x : F2) (op : BitVec 5) (f : BitVec 3)
  /-- FAULT_RECORD_DELIVERY, R318: The hub delivers a fault record as eight scalar tokens to the supervisor's q15 from its fault queue. -/
  | faultRecordDelivery (net : Nat)
  /-- TOKEN_ARRIVAL, R292: A pushed token is written whole into its reader's buffer or spill space and becomes poppable. -/
  | tokenArrival (net ch : Nat)
  /-- SLOT_RETURN, R292: A slot return reaches the writer endpoint and adds 1 to F. -/
  | slotReturn (net ch : Nat)
  /-- CHANNEL_REBIND, R295: Stops the writer, delivers tokens on the old route, moves held tokens in order to the new location and restarts on the new route. -/
  | channelRebind (net ch : Nat)
  /-- COPY_ELEMENT, R184: The copy unit reads and writes the next element of a copy in ascending order. -/
  | copyElement (k : Nat)
  /-- RESIDENCY_FILL_COMPLETE, R161: A fill finishes writing every byte; the residency becomes ready or stale and its counter receives 1. -/
  | residencyFillComplete (r : Nat)
  /-- RESIDENCY_FILL_FAULT, R161: A fill meets a fault; the residency becomes empty and a copy fault is recorded. -/
  | residencyFillFault (r : Nat)
  /-- RESIDENCY_RELOAD_COMPLETE, R164: A reload of an evicted or stale residency ends, leaving it ready or empty, and releases the waiting use. -/
  | residencyReloadComplete (r : Nat)
  /-- RESIDENCY_STALE_MARK, R168: The holder advances a residency's load generation and marks it stale for a store overlapping its watched source. -/
  | residencyStaleMark (r k : Nat)
  /-- GATEWAY_FORWARD, R271: A gateway forwards a request to its server, freeing the request slot when the server accepts it. -/
  | gatewayForward (k : Nat)
  /-- SERVER_ACCEPT, R274: A memory server takes a request into its queue; a write counts as performed. -/
  | serverAccept (k : Nat)
  /-- SERVER_PERFORM, R275: The server scheduler performs a queued request on DRAM in first-ready, first-come order. -/
  | serverPerform (k : Nat) (ecc : Ecc)
  /-- RMW_MERGE_COMPLETE, R343: The read-modify-write unit finishes merging and recoding a word and sends the write's acknowledgement. -/
  | rmwMergeComplete (k : Nat)
  /-- PACKET_REPLY_ARRIVAL, R192: A reply or acknowledgement arrives on the response channel and fills its reserved slot and buffer. -/
  | packetReplyArrival (k : Nat)
  /-- REMOTE_TILE_ACCESS, R270: A checked request from another tile is performed at its target tile and answered. -/
  | remoteTileAccess (k : Nat)
  /-- NEAR_BANK_REQUEST, R167: The residency gate checks and serves a mresv request, reloading if needed, or sends a faulted first token. -/
  | nearBankRequest (k : Nat)
  /-- NEAR_BANK_REPLY, R166: A reply token of fp32 row results arrives on the near-bank stream. -/
  | nearBankReply (k : Nat)
  /-- PATTERN_TOKEN_FETCH, R177: The copy unit fetches the next pattern-stream token ahead of the pops, possibly as a faulted token. -/
  | patternTokenFetch (proc j : Nat)
  /-- BARRIER_ARRIVAL, R202: The barrier root counts an arrival and completes the generation when the count reaches K. -/
  | barrierArrival (net n : Nat)
  /-- SSTEP_GENERATION_COMPLETE, R203: An sstep generation completes once every earlier token and store of its participants is delivered. -/
  | sstepGenerationComplete (net n : Nat)
  /-- LAP_CLOSE, R205: Appends the lap's puts in order-key order and serves waiting requests by lap and order key. -/
  | lapClose (net pool : Nat)
  /-- SWEEP_FIRST_PASS, R298: Starts when every die reports the network blocked for 1 µs, or every 10 µs after, reading and clearing activity bits and counts. -/
  | sweepFirstPass (net : Nat)
  /-- SWEEP_SECOND_PASS, R298: Rereads the bits and counts and, if quiescent, grows a channel, raises spill exhausted or declares deadlock. -/
  | sweepSecondPass (net : Nat)
  /-- PREEMPTION_REQUEST, R260: The hub requests pre-emption of a process blocked 20 µs or running 2 ms while another of its tenant waits unplaced. -/
  | preemptionRequest (proc : Nat)
  /-- PREEMPTION_DEADLINE, R320: 50 µs after the request, the pre-emption is taken at the next chain boundary. -/
  | preemptionDeadline (proc : Nat)
  /-- SAVE_SEQUENCE, R321: After the context drains, writes the save record, evicts unpinned array residencies and releases the context. -/
  | saveSequence (proc : Nat)
  /-- PLACE_PROCESS, R252: The placer assigns a ready unplaced process a context under the placement constraints. -/
  | placeProcess (proc : Nat)
  /-- HUB_RESTORE, R322: Validates a save record and restores the process into its new context, or parks it with save-header-invalid. -/
  | hubRestore (proc : Nat)
  /-- UNPLACED_WAKE, R260: An unplaced blocked process becomes ready when its wait is met. -/
  | unplacedWake (proc : Nat)
  /-- NETWORK_DISPATCH, R255: The graph engine dispatches the ready placeable network with the highest remaining path. -/
  | networkDispatch (tenant : Nat)
  /-- LAUNCH_START, R256: The start message reaches the target contexts, which take start values and issue their first chain. -/
  | launchStart (net : Nat)
  /-- ENTRY_FINAL, R239: A level-table entry's completion counter reaches zero or it is ended, fixing its completion record. -/
  | entryFinal (tenant level index : Nat)
  /-- CANCEL_PROPAGATE, R243: The hub marks the entry and all beneath it cancelling, stops dispatch and signals their processes. -/
  | cancelPropagate (tenant level index : Nat)
  /-- CANCELLED_TRAP, R243: A placed process of a cancelled target traps with cancelled at its next chain boundary and is discarded. -/
  | cancelledTrap (proc : Nat)
  /-- TAKE_GATE, R304: A process stops, drains, is recorded, pushes gates into its output channels and becomes cut-held. -/
  | takeGate (proc : Nat)
  /-- CUT_COMPLETE, R306: Once all processes are held and all channels gated, the hub writes the snapshot and makes the network final as cut. -/
  | cutComplete (net : Nat)
  /-- SNAPSHOT_REBUILD, R309: Places the processes, writes window images, restores contexts, channels, pools, barriers and residencies, and starts them. -/
  | snapshotRebuild (k : Nat)
  /-- VWAIT_TIMEOUT, R201: The vwait time-out expires, raising time-out in deterministic mode or retiring with the unmet mask. -/
  | vwaitTimeout (proc : Nat)
  /-- RANGE_TABLE_SWITCH, R281: At the switch moment every die takes the new table, drops cached entries and marks affected residencies stale. -/
  | rangeTableSwitch (tenant : Nat)
  /-- QUEUE_SRAM_POISON, R267: An uncorrectable error in a queue-SRAM or level-table entry poisons the submission or network. -/
  | queueSramPoison (spot : SramSpot)
  /-- LANE_GROUP_BIND, R262: Each cycle the arbiter binds ready vector heads to free lane groups by deficit round robin. -/
  | laneGroupBind (tile : Nat)
  /-- ARRAY_GRANT, R264: The free matrix array goes to the next context with a ready matrix head in round robin. -/
  | arrayGrant (tile : Nat)
  /-- SUBMIT_NETWORK, R330: SQP type 0x01 writes a network submission into queue SRAM and answers. -/
  | submitNetwork (h : Sqp) (m : SubmitNet)
  /-- SUBMIT_GRAPH, R254: SQP type 0x02 submits a graph of networks with its edges. -/
  | submitGraph (h : Sqp) (graph phase : Nat) (nets : List SubmitNet) (edges : List Edge)
  /-- OPEN_PHASE, R330: SQP type 0x03 with byte 0 = 0 opens a phase. -/
  | openPhase (h : Sqp) (phase : Nat)
  /-- CLOSE_PHASE, R330: SQP type 0x03 with byte 0 = 1 declares that no further graph joins a phase. -/
  | closePhase (h : Sqp) (phase : Nat)
  /-- SQP_CANCEL, R243: SQP type 0x04 cancels a level-table entry. -/
  | sqpCancel (h : Sqp) (level index : Nat)
  /-- TEARDOWN_QUEUE, R266: SQP type 0x05 stops a queue, cancels its networks and submissions and then acknowledges. -/
  | teardownQueue (h : Sqp)
  /-- RESET_QUEUE, R330: SQP type 0x06 tears down a queue and reopens it at seq 0 under the next key epoch. -/
  | resetQueue (h : Sqp)
  /-- REGISTER_IMAGE, R249: SQP type 0x07 checks an image in global memory and answers with a handle or a refusal. -/
  | registerImage (h : Sqp) (addr : Word) (len : Nat)
  /-- PRE_PLACE_IMAGE, R256: SQP type 0x08 with byte 0 = 0 loads an image's segments and reserves its contexts. -/
  | prePlaceImage (h : Sqp) (handle : Nat)
  /-- RELEASE_IMAGE, R330: SQP type 0x08 with byte 0 = 1 releases a pre-placed image. -/
  | releaseImage (h : Sqp) (handle : Nat)
  /-- SQP_CUT, R209: SQP type 0x09 with byte 0 = 0 starts a slalom cut. -/
  | sqpCut (h : Sqp) (index : Nat) (addr : Word)
  /-- RESUME_SNAPSHOT, R217: SQP type 0x09 with byte 0 = 1 resumes a snapshot as a new network. -/
  | resumeSnapshot (h : Sqp) (snap : Word) (index : Nat) (place : List Hint)
  /-- OPEN_QUEUE, R329: SQP type 0x10 with byte 0 = 0 opens a queue and derives its key by ECDH and HKDF. -/
  | openQueue (h : Sqp) (mgmt : Bool) (queue : Nat) (pub : Nat)
  /-- CLOSE_QUEUE, R330: SQP type 0x10 with byte 0 = 1 closes a queue and clears its entries. -/
  | closeQueue (h : Sqp) (mgmt : Bool) (queue : Nat)
  /-- JOB_START, R338: Assigns tiles, stacks, queues and quotas to a tenant's job. -/
  | jobStart (h : Sqp) (j : JobDecl)
  /-- JOB_END, R339: Returns a job's resources, which are zeroed before joining the free pool. -/
  | jobEnd (h : Sqp) (tenant : Nat)
  /-- RANGE_REGION, R333: Registers an RDMA memory region over a tenant's global range. -/
  | rangeRegion (h : Sqp) (tenant : Nat) (base : Word) (len : Nat) (rd w : Bool)
  /-- HOST_WINDOW, R338: Sets the host window used by host-shared ranges. -/
  | hostWindow (h : Sqp) (tenant : Nat) (base len : Nat)
  /-- SET_AGE_CAP, R277: Sets a memory server's age cap. -/
  | setAgeCap (h : Sqp) (server cap : Nat)
  /-- SET_HOST_PATH_TIMEOUT, R282: Sets the host-path time-out. -/
  | setHostPathTimeout (h : Sqp) (ns : Nat)
  /-- READ_ERROR_LOG, R337: Returns the hub's error log. -/
  | readErrorLog (h : Sqp)
  /-- CLEAR_ERROR_LOG, R337: Clears the hub's error log. -/
  | clearErrorLog (h : Sqp)
  /-- READ_COUNTERS, R338: Returns tile, server and per-die counters of the tenant's resources. -/
  | readCounters (h : Sqp) (domain spot num : Nat)
  /-- RELEASE_SEED_LOG, R338: Frees and zeroes a network's seed-log entries. -/
  | releaseSeedLog (h : Sqp) (nid : Nat)
  /-- READ_CERTIFICATE_CHAIN, R334: Management queue 0 returns the device certificate chain. -/
  | readCertificateChain (h : Sqp)
  /-- ATTEST, R335: SQP type 0x30 returns a signed attestation report over a host nonce. -/
  | attest (h : Sqp) (nonce : BitVec 512)
  /-- FIRMWARE_CHUNK, R334: SQP type 0x40 stages a firmware chunk, checking and writing the whole image when complete. -/
  | firmwareChunk (h : Sqp) (bytes : List Byte)
  /-- SQP_ACKNOWLEDGEMENT, R331: A host acknowledgement frees the hub's retained messages up to its seq. -/
  | sqpAcknowledgement (mgmt : Bool) (queue seq : Nat)
  /-- SQP_RETRANSMIT, R331: On time-out the hub retransmits unacknowledged messages with doubling interval. -/
  | sqpRetransmit (mgmt : Bool) (queue : Nat)
  /-- RDMA_WRITE, R333: Performs a host RDMA WRITE into a registered region and acknowledges once performed. -/
  | rdmaWrite (qp rkey : Nat) (addr : Word) (bytes : List Byte)
  /-- RDMA_READ, R333: Serves a host RDMA READ from a registered region, NAKing on poison. -/
  | rdmaRead (qp rkey : Nat) (addr : Word) (len : Nat)
  /-- RDMA_REFUSED_VERB, R333: Refuses SEND and atomic verbs with a NAK of invalid request. -/
  | rdmaRefusedVerb (qp : Nat)
  /-- HOST_BRIDGE_COMPLETION, R282: The host acknowledges a host-shared access performed by RDMA at the bridge. -/
  | hostBridgeCompletion (k : Nat)
  /-- HOST_PATH_TIMEOUT, R282: A host-shared request not completed in time fails with host path error. -/
  | hostPathTimeout (k : Nat)
  /-- SPAN_FLIT_RECEIVE, R311: The receiver accepts an in-order flit with good CRC or discards it and sends a negative acknowledgement. -/
  | spanFlitReceive (link : Nat) (f : Flit) (lane : Option Nat)
  /-- SPAN_NEGATIVE_ACKNOWLEDGEMENT, R311: The sender resends in order from the named seq. -/
  | spanNegativeAcknowledgement (link seq : Nat)
  /-- SPAN_ACKNOWLEDGEMENT, R311: The sender frees replay-buffer flits up to the acknowledged seq. -/
  | spanAcknowledgement (link seq : Nat)
  /-- REPAIR_REQUEST, R312: The sender notes boundary T and answers with a repair grant, holding flits from T. -/
  | repairRequest (link lane : Nat)
  /-- REPAIR_GRANT, R312: The receiver learns the boundary T of the lane repair. -/
  | repairGrant (link bound : Nat)
  /-- LANE_MAP_SWITCH, R312: When every flit below T is acknowledged both ends switch to the spare lane map. -/
  | laneMapSwitch (link : Nat)
  /-- LINK_RETRAIN, R312: A drained link finishes retraining on the new map and resends from the oldest unacknowledged flit. -/
  | linkRetrain (link : Nat) (ok : Bool)
  /-- LINK_DOWN, R313: A link failing retraining three times goes down, cancelling networks routed over it. -/
  | linkDown (link : Nat)
  /-- COLD_START, R336: Runs the cold start steps from ROM boot to ownership return and SQP open. -/
  | coldStart (f : StartFinds)
  /-- WARM_START, R336: Runs the warm start steps, retraining only invalid parameters and zeroing tenant-owned resources. -/
  | warmStart (f : StartFinds)
  /-- HOST_LINK_RETRY, R337: Retries host link training every second while the start holds at step 5. -/
  | hostLinkRetry (ok : Bool)
  /-- AGEING_REPLAN, R340: Every 72 hours re-plans a die's guard band, raising voltage or stepping the clock down. -/
  | ageingReplan (die : Nat) (met : Bool)
  /-- CLOCK_RELOCK, R340: The die's clock relocks after a step and its tiles resume. -/
  | clockRelock (die : Nat)
  /-- POWER_SAMPLE, R340: Every millisecond measures package power, stepping clocks down over the rating or up after a second below 3,700 W. -/
  | powerSample (watts : Nat)
  /-- TILE_ZEROING_COMPLETE, R339: A returned tile's SRAM clear finishes and the tile joins the free pool. -/
  | tileZeroingComplete (tile : Nat)
  /-- ROW_CLEAR_COMPLETE, R339: A server's bulk row clear of returned ranges, spill or save records finishes. -/
  | rowClearComplete (what : Cleared)
  /-- LANE_LOSS_OF_LOCK, R312: A span-link lane loses lock or fails, calling for repair onto the spare, or, when the spare is already in use, making the link retrain on the four lanes of its sound half (R313). -/
  | laneLossOfLock (link lane : Nat)
  /-- ICMPV6_NEIGHBOUR_DISCOVERY_AND_ECHO, R328: The hub answers an ICMPv6 neighbour-discovery or echo frame arriving on the host port. -/
  | icmpv6NeighbourDiscoveryAndEcho (echo : Bool) (frame : List Byte)
  /-- DROPPED_FRAME, R329: A host-port frame of another protocol, or an SQP message whose tag fails, whose header is malformed or whose type code is undefined, is dropped and counted without an answer. -/
  | droppedFrame (frame : List Byte)
  /-- SET_SQP_UDP_PORT, R328: Management queue 0 sets the UDP destination port on which SQP is received, 24,712 by default. -/
  | setSqpUdpPort (h : Sqp) (port : Nat)
  deriving DecidableEq, Repr

end Sys2Proof
end

