-- ==== Sys2Proof/Decode.lean ====
section
/-! DEFINITION. Decoding a chain (R50) and the encoder written from the same tables: how the operand fields are read (R41 to
R46), what each entry of the opcode map accepts, the checks of R50 with the reasons of R51, the decoder, total on any
halfwords, and the words of an instruction. -/

namespace Sys2Proof

/-! Readings of the operand fields. -/

/-- Number of prefix words. -/
def Pre.count (p : Pre) : Nat :=
  p.po.toList.length + p.pr.toList.length + p.pp.toList.length + p.px.length

/-- R46: X, the concatenation of the imm10 fields, as an unsigned number. -/
def Pre.x (p : Pre) : Nat := p.px.foldl (fun acc w => acc * 1024 + w.toNat) 0

/-- R46: a field of n bits read as signed. -/
def signed (n x : Nat) : Int := if 2 ^ n ≤ 2 * x then (x : Int) - (2 ^ n : Nat) else x

/-- R46: the F2 signed value S. -/
def Pre.s (p : Pre) : Int := signed (10 * p.px.length) p.x

def Pre.sub (p : Pre) : Nat := (p.po.getD 0).toNat
def Pre.dh (p : Pre) : Nat := (p.pr.map fun r => r.dh.toNat).getD 0
def Pre.ah (p : Pre) : Nat := (p.pr.map fun r => r.ah.toNat).getD 0
def Pre.w (p : Pre) : Bool := (p.pr.map (·.w)).getD false
def Pre.e (p : Pre) : Nat := (p.pr.map fun r => r.e.toNat).getD 0

/-- R42: the full register numbers. -/
def F2.dN (x : F2) : Nat := x.pre.dh * 16 + x.d.toNat
def F2.aN (x : F2) : Nat := x.pre.ah * 16 + x.a.toNat
def F2.eN (x : F2) : Nat := x.pre.e
def F2.w (x : F2) : Bool := x.pre.w
def FI.dN (x : FI) : Nat := x.pre.dh * 16 + x.d.toNat
def FB.aN (x : FB) : Nat := x.pre.ah * 16 + x.a.toNat

/-- R46: the a-immediate A, the unsigned value U, and the signed offset S of an F2 chain. -/
def F2.aImm (x : F2) : Nat := x.pre.x * 32 + x.pre.ah * 16 + x.a.toNat
def F2.u (x : F2) : Nat := x.pre.x
def F2.s (x : F2) : Int := x.pre.s

/-- R46: the FI immediate, the FB offset and the FJ offset. -/
def FI.immV (x : FI) : Int := signed (10 * x.pre.px.length + 7) (x.pre.x * 128 + x.imm.toNat)
def FB.offV (x : FB) : Int := signed (10 * x.pre.px.length + 7) (x.pre.x * 128 + x.off.toNat)
def FJ.offV (x : FJ) : Int := signed (10 * x.pre.px.length + 11) (x.pre.x * 2048 + x.off.toNat)

/-- Chain length in words (R29: tinfo.len). -/
def F2.len (x : F2) : Nat := x.pre.count + 1
def FI.len (x : FI) : Nat := x.pre.count + 1
def FB.len (x : FB) : Nat := x.pre.count + 1
def FJ.len (x : FJ) : Nat := x.pre.count + 1

/-! The opcode map with what its entries accept, and the checks. -/

/-- What an entry's operand field names: nothing (the field must be zero), a number, or a register of a kind with
its top number (R42); `vs` is v24 to v31 (R174). -/
inductive Opnd where
  | none | num | g | v | p | q | z | vs
  deriving DecidableEq, Repr

/-- R42: the highest and the lowest number of a kind. -/
def Opnd.top : Opnd → Nat
  | .p => 7
  | .q => 15
  | _ => 31

def Opnd.bot : Opnd → Nat
  | .vs => 24
  | _ => 0

def Opnd.isReg : Opnd → Bool
  | .none => false
  | .num => false
  | _ => true

/-- How an entry reads its PX words, as far as decoding checks them (R46): not at all, freely, as U with a highest
bit (`keep`: in the .k form the first PX word is the keep mask, R119). -/
inductive PxUse where
  | no
  | free
  | limit (bits : Nat) (keep : Bool)
  deriving DecidableEq, Repr

/-- R49, R50: whether an entry takes a predicate, and whether its zeroing bit must be zero. -/
inductive PpUse where
  | no | free | merging
  deriving DecidableEq, Repr

/-- What an instruction entry accepts: PR and its fields (R47), PX (R46), PP (R49), sub values (R48), and what its
operand fields name (R42, R43). `raw` is `fig`, whose fields are parameters (R57). -/
structure Acc where
  pr   : Bool := true
  dh   : Bool := true
  ah   : Bool := true
  w    : Bool := false
  px   : PxUse := .no
  pp   : PpUse := .no
  subs : List Nat := [0]
  d    : Opnd := .g
  a    : Opnd := .g
  e    : Opnd := .g
  raw  : Bool := false
  deriving DecidableEq, Repr

/-! R86 to R237: the acceptance columns of the instruction entries. -/
def Acc.none : Acc := { pr := false, dh := false, ah := false, d := .none, a := .none }
def Acc.fence : Acc := { Acc.none with subs := [0, 1, 2, 3] }
def Acc.num : Acc := { dh := false, px := .free, d := .none, a := .num }
def Acc.spr : Acc := { px := .free, a := .num }
def Acc.g23 : Acc := { w := true }
def Acc.g2 : Acc := {}
def Acc.g2s1 : Acc := { subs := [1] }
def Acc.fi : Acc := { ah := false, px := .free }
def Acc.fb : Acc := { dh := false, px := .free }
def Acc.fj : Acc := { pr := false, px := .free }
def Acc.gmem : Acc := { px := .free }
def Acc.gamo : Acc := { w := true, px := .free }
def Acc.onlyA : Acc := { dh := false, d := .none }
def Acc.onlyAE : Acc := { dh := false, w := true, d := .none }
def Acc.onlyD : Acc := { ah := false, a := .none }
def Acc.pbr : Acc := { pr := false, px := .free, d := .none, a := .p }
def Acc.gq : Acc := { a := .q }
def Acc.gqOff : Acc := { a := .q, px := .free }
def Acc.qg : Acc := { d := .q }
def Acc.qOnly : Acc := { d := .q, ah := false, a := .none }
def Acc.setvl : Acc := { px := .limit 16 true, subs := [0, 1] }
def Acc.setvli : Acc := { px := .limit 16 true, subs := [0, 1], a := .num }
def Acc.strip : Acc := { ah := false, a := .none, px := .limit 40 true, subs := [0, 1] }
def Acc.stripcfg : Acc := { pr := false, px := .limit 37 false, d := .none, a := .none }
/-- R124: the forms of `pand` to `pxor` list w and e alone, so that dh or ah, a number above 7, is a field that must be
zero and gives 0x09 before 0x0B (R50). DEDUCED: log entry 102. -/
def Acc.p3 : Acc := { dh := false, ah := false, w := true, d := .p, a := .p, e := .p }
def Acc.p2 : Acc := { pr := false, d := .p, a := .p }
def Acc.gp : Acc := { ah := false, a := .p }
def Acc.vwait : Acc := { dh := false, w := true, pp := .free, d := .p, a := .v }
def Acc.v3 : Acc := { w := true, pp := .free, d := .v, a := .v, e := .v }
def Acc.v3m : Acc := { Acc.v3 with pp := .merging }
def Acc.v3g : Acc := { Acc.v3 with e := .g }
def Acc.vunzip : Acc := { Acc.v3 with subs := [0, 1] }
def Acc.v2 : Acc := { pp := .free, d := .v, a := .v }
def Acc.v2n : Acc := { Acc.v2 with px := .free }
def Acc.vcvt : Acc := { Acc.v2 with subs := List.range 14 }
/-- R42, R128: reason 0x0B covers d[3] and dh of the predicate that a compare names, so dh passes the check of 0x09.
DEDUCED: log entry 103. -/
def Acc.vcmp : Acc := { w := true, pp := .free, d := .p, a := .v, e := .v }
def Acc.vg : Acc := { pp := .free, d := .v }
def Acc.vext : Acc := { px := .free, a := .v }
def Acc.vins : Acc := { px := .free, d := .v }
def Acc.vd : Acc := { ah := false, pp := .free, d := .v, a := .none }
/-- R129: `viota` accepts dh and no ah. -/
def Acc.vp : Acc := { ah := false, pp := .free, d := .v, a := .p }
def Acc.vld : Acc := { px := .free, pp := .free, d := .v }
def Acc.vlds : Acc := { Acc.vld with w := true }
def Acc.vldx : Acc := { Acc.vld with w := true, e := .v }
def Acc.vst : Acc := { Acc.vld with pp := .merging }
def Acc.vsts : Acc := { Acc.vlds with pp := .merging }
def Acc.vstx : Acc := { Acc.vldx with pp := .merging }
def Acc.zOnly : Acc := { ah := false, d := .z, a := .none }
def Acc.mop : Acc := { w := true, px := .free, pp := .merging, d := .z, a := .v, e := .v }
def Acc.vz : Acc := { px := .free, subs := [0, 1, 2, 3], d := .v, a := .z }
def Acc.zv : Acc := { Acc.vz with d := .z, a := .v }
def Acc.mtile : Acc := { w := true, px := .free, pp := .merging, subs := List.range 7, d := .z }
def Acc.mres : Acc := { w := true, px := .free, pp := .free, d := .z, a := .v }
def Acc.mresv : Acc := { w := true, px := .free, pp := .free, d := .v, a := .v }
def Acc.sset : Acc := { d := .vs }
def Acc.sstop : Acc := { ah := false, d := .vs, a := .none }
def Acc.sstopClose : Acc := { Acc.sstop with subs := [1] }
def Acc.vslr : Acc := { w := true, subs := [0, 1], d := .v }
def Acc.packet : Acc := { w := true, subs := [0, 1, 2, 3, 4, 5, 8, 9, 10, 11, 12, 13] }
def Acc.matom : Acc := { w := true, subs := [0, 1, 2, 3, 4, 5, 6, 8, 9, 10, 11, 12, 13, 14] }
def Acc.mrsp : Acc := { subs := [0, 8] }
def Acc.poolput : Acc := { dh := false, d := .q }
def Acc.poolget : Acc := { ah := false, a := .q }
def Acc.fig : Acc := { w := true, px := .free, d := .num, a := .num, e := .num, subs := [0, 1], raw := true }

/-- The operand fields of a base word in its format (R41). -/
inductive Body where
  | f2 (x : F2)
  | fi (x : FI)
  | fb (x : FB)
  | fj (x : FJ)
  deriving DecidableEq, Repr

def Body.pre : Body → Pre
  | .f2 x => x.pre
  | .fi x => x.pre
  | .fb x => x.pre
  | .fj x => x.pre

/-- A chain: its page, major opcode and f (R55 to R57), its operand fields and what its entry accepts. -/
structure Chain where
  page : Nat
  op   : Nat
  f    : Nat
  body : Body
  acc  : Acc
  deriving DecidableEq, Repr

/-- R55 to R57: where each instruction stands in the opcode map and what its entry accepts; none for the steps of the
other agents, which have no encoding. -/
def Instr.chain : Instr → Option Chain
  | .nop x => some ⟨0, 0, 0, .f2 x, Acc.none⟩
  | .exit x => some ⟨0, 0, 1, .f2 x, Acc.none⟩
  | .svc x => some ⟨0, 0, 2, .f2 x, Acc.num⟩
  | .brk x => some ⟨0, 0, 3, .f2 x, Acc.num⟩
  | .ifsync x => some ⟨0, 0, 4, .f2 x, Acc.none⟩
  | .fence x => some ⟨0, 0, 5, .f2 x, Acc.fence⟩
  | .mfs x => some ⟨0, 0, 6, .f2 x, Acc.spr⟩
  | .mts x => some ⟨0, 0, 7, .f2 x, Acc.spr⟩
  | .add x => some ⟨0, 1, 0, .f2 x, Acc.g23⟩
  | .sub x => some ⟨0, 1, 1, .f2 x, Acc.g23⟩
  | .and x => some ⟨0, 1, 2, .f2 x, Acc.g23⟩
  | .or x => some ⟨0, 1, 3, .f2 x, Acc.g23⟩
  | .xor x => some ⟨0, 1, 4, .f2 x, Acc.g23⟩
  | .sll x => some ⟨0, 1, 5, .f2 x, Acc.g23⟩
  | .srl x => some ⟨0, 1, 6, .f2 x, Acc.g23⟩
  | .sra x => some ⟨0, 1, 7, .f2 x, Acc.g23⟩
  | .mul x => some ⟨0, 2, 0, .f2 x, Acc.g23⟩
  | .mulh x => some ⟨0, 2, 1, .f2 x, Acc.g23⟩
  | .mulhu x => some ⟨0, 2, 2, .f2 x, Acc.g23⟩
  | .mulhsu x => some ⟨0, 2, 3, .f2 x, Acc.g23⟩
  | .div x => some ⟨0, 2, 4, .f2 x, Acc.g23⟩
  | .divu x => some ⟨0, 2, 5, .f2 x, Acc.g23⟩
  | .rem x => some ⟨0, 2, 6, .f2 x, Acc.g23⟩
  | .remu x => some ⟨0, 2, 7, .f2 x, Acc.g23⟩
  | .addi x => some ⟨0, 3, 0, .fi x, Acc.fi⟩
  | .movi x => some ⟨0, 4, 0, .fi x, Acc.fi⟩
  | .slli x => some ⟨0, 5, 0, .f2 x, Acc.spr⟩
  | .srli x => some ⟨0, 5, 1, .f2 x, Acc.spr⟩
  | .srai x => some ⟨0, 5, 2, .f2 x, Acc.spr⟩
  | .clz x => some ⟨0, 5, 3, .f2 x, Acc.g2⟩
  | .ctz x => some ⟨0, 5, 4, .f2 x, Acc.g2⟩
  | .popc x => some ⟨0, 5, 5, .f2 x, Acc.g2⟩
  | .sextw x => some ⟨0, 5, 6, .f2 x, Acc.g2⟩
  | .zextw x => some ⟨0, 5, 7, .f2 x, Acc.g2⟩
  | .seq x => some ⟨0, 6, 0, .f2 x, Acc.g23⟩
  | .sne x => some ⟨0, 6, 1, .f2 x, Acc.g23⟩
  | .slt x => some ⟨0, 6, 2, .f2 x, Acc.g23⟩
  | .sltu x => some ⟨0, 6, 3, .f2 x, Acc.g23⟩
  | .sge x => some ⟨0, 6, 4, .f2 x, Acc.g23⟩
  | .sgeu x => some ⟨0, 6, 5, .f2 x, Acc.g23⟩
  | .min x => some ⟨0, 6, 6, .f2 x, Acc.g23⟩
  | .max x => some ⟨0, 6, 7, .f2 x, Acc.g23⟩
  | .andi x => some ⟨0, 7, 0, .fi x, Acc.fi⟩
  | .lb x => some ⟨0, 8, 0, .f2 x, Acc.gmem⟩
  | .lbu x => some ⟨0, 8, 1, .f2 x, Acc.gmem⟩
  | .lh x => some ⟨0, 8, 2, .f2 x, Acc.gmem⟩
  | .lhu x => some ⟨0, 8, 3, .f2 x, Acc.gmem⟩
  | .lw x => some ⟨0, 8, 4, .f2 x, Acc.gmem⟩
  | .lwu x => some ⟨0, 8, 5, .f2 x, Acc.gmem⟩
  | .ld x => some ⟨0, 8, 6, .f2 x, Acc.gmem⟩
  | .lea x => some ⟨0, 8, 7, .f2 x, Acc.gmem⟩
  | .sb x => some ⟨0, 9, 0, .f2 x, Acc.gmem⟩
  | .sh x => some ⟨0, 9, 1, .f2 x, Acc.gmem⟩
  | .sw x => some ⟨0, 9, 2, .f2 x, Acc.gmem⟩
  | .sd x => some ⟨0, 9, 3, .f2 x, Acc.gmem⟩
  | .amoadd x => some ⟨0, 9, 4, .f2 x, Acc.gamo⟩
  | .amoswap x => some ⟨0, 9, 5, .f2 x, Acc.gamo⟩
  | .amomax x => some ⟨0, 9, 6, .f2 x, Acc.gamo⟩
  | .amocas x => some ⟨0, 9, 7, .f2 x, Acc.gamo⟩
  | .beqz x => some ⟨0, 10, 0, .fb x, Acc.fb⟩
  | .bnez x => some ⟨0, 11, 0, .fb x, Acc.fb⟩
  | .j x => some ⟨0, 12, 0, .fj x, Acc.fj⟩
  | .call x => some ⟨0, 13, 0, .fj x, Acc.fj⟩
  | .jr x => some ⟨0, 14, 0, .f2 x, Acc.onlyA⟩
  | .callr x => some ⟨0, 14, 1, .f2 x, Acc.onlyA⟩
  | .ret x => some ⟨0, 14, 2, .f2 x, Acc.none⟩
  | .bpt x => some ⟨0, 14, 3, .f2 x, Acc.pbr⟩
  | .bpf x => some ⟨0, 14, 4, .f2 x, Acc.pbr⟩
  | .qpop x => some ⟨0, 15, 0, .f2 x, Acc.gq⟩
  | .qpopb x => some ⟨0, 15, 1, .f2 x, Acc.gqOff⟩
  | .qpush x => some ⟨0, 15, 2, .f2 x, Acc.qg⟩
  | .qclose x => some ⟨0, 15, 3, .f2 x, Acc.qOnly⟩
  | .qbind x => some ⟨0, 15, 4, .f2 x, Acc.qg⟩
  | .qunbind x => some ⟨0, 15, 5, .f2 x, Acc.qOnly⟩
  | .setvl x => some ⟨0, 16, 0, .f2 x, Acc.setvl⟩
  | .setvli x => some ⟨0, 16, 1, .f2 x, Acc.setvli⟩
  | .strip x => some ⟨0, 16, 2, .f2 x, Acc.strip⟩
  | .stripcfg x => some ⟨0, 16, 3, .f2 x, Acc.stripcfg⟩
  | .pand x => some ⟨0, 17, 0, .f2 x, Acc.p3⟩
  | .por x => some ⟨0, 17, 1, .f2 x, Acc.p3⟩
  | .pxor x => some ⟨0, 17, 2, .f2 x, Acc.p3⟩
  | .pnot x => some ⟨0, 17, 3, .f2 x, Acc.p2⟩
  | .pbrkb x => some ⟨0, 17, 4, .f2 x, Acc.p2⟩
  | .pbrki x => some ⟨0, 17, 5, .f2 x, Acc.p2⟩
  | .pfirst x => some ⟨0, 17, 6, .f2 x, Acc.gp⟩
  | .pcount x => some ⟨0, 17, 7, .f2 x, Acc.gp⟩
  | .waitge x => some ⟨0, 18, 0, .f2 x, Acc.g2⟩
  | .cadd x => some ⟨0, 18, 1, .f2 x, Acc.g2⟩
  | .vwait x => some ⟨0, 18, 2, .f2 x, Acc.vwait⟩
  | .bar x => some ⟨0, 18, 3, .f2 x, Acc.num⟩
  | .bararr x => some ⟨0, 18, 4, .f2 x, Acc.num⟩
  | .barwait x => some ⟨0, 18, 5, .f2 x, Acc.num⟩
  | .sstep x => some ⟨0, 18, 6, .f2 x, Acc.num⟩
  | .vadd x => some ⟨0, 19, 0, .f2 x, Acc.v3⟩
  | .vsub x => some ⟨0, 19, 1, .f2 x, Acc.v3⟩
  | .vmul x => some ⟨0, 19, 2, .f2 x, Acc.v3⟩
  | .vmin x => some ⟨0, 19, 3, .f2 x, Acc.v3⟩
  | .vmax x => some ⟨0, 19, 4, .f2 x, Acc.v3⟩
  | .vabd x => some ⟨0, 19, 5, .f2 x, Acc.v3⟩
  | .vmac x => some ⟨0, 19, 6, .f2 x, Acc.v3⟩
  | .vnmac x => some ⟨0, 19, 7, .f2 x, Acc.v3⟩
  | .vand x => some ⟨0, 20, 0, .f2 x, Acc.v3⟩
  | .vor x => some ⟨0, 20, 1, .f2 x, Acc.v3⟩
  | .vxor x => some ⟨0, 20, 2, .f2 x, Acc.v3⟩
  | .vandn x => some ⟨0, 20, 3, .f2 x, Acc.v3⟩
  | .vsll x => some ⟨0, 20, 4, .f2 x, Acc.v3⟩
  | .vsrl x => some ⟨0, 20, 5, .f2 x, Acc.v3⟩
  | .vsra x => some ⟨0, 20, 6, .f2 x, Acc.v3⟩
  | .vnot x => some ⟨0, 20, 7, .f2 x, Acc.v2⟩
  | .vceq x => some ⟨0, 21, 0, .f2 x, Acc.vcmp⟩
  | .vcne x => some ⟨0, 21, 1, .f2 x, Acc.vcmp⟩
  | .vclt x => some ⟨0, 21, 2, .f2 x, Acc.vcmp⟩
  | .vcle x => some ⟨0, 21, 3, .f2 x, Acc.vcmp⟩
  | .vcgt x => some ⟨0, 21, 4, .f2 x, Acc.vcmp⟩
  | .vcge x => some ⟨0, 21, 5, .f2 x, Acc.vcmp⟩
  | .vcltu x => some ⟨0, 21, 6, .f2 x, Acc.vcmp⟩
  | .vcun x => some ⟨0, 21, 7, .f2 x, Acc.vcmp⟩
  | .vmov x => some ⟨0, 22, 0, .f2 x, Acc.v2⟩
  | .vsplat x => some ⟨0, 22, 1, .f2 x, Acc.vg⟩
  | .vext x => some ⟨0, 22, 2, .f2 x, Acc.vext⟩
  | .vins x => some ⟨0, 22, 3, .f2 x, Acc.vins⟩
  | .vmerge x => some ⟨0, 22, 4, .f2 x, Acc.v3m⟩
  | .vid x => some ⟨0, 22, 5, .f2 x, Acc.vd⟩
  | .viota x => some ⟨0, 22, 6, .f2 x, Acc.vp⟩
  | .vcompress x => some ⟨0, 22, 7, .f2 x, Acc.v2⟩
  | .vld x => some ⟨0, 23, 0, .f2 x, Acc.vld⟩
  | .vlds x => some ⟨0, 23, 1, .f2 x, Acc.vlds⟩
  | .vldx x => some ⟨0, 23, 2, .f2 x, Acc.vldx⟩
  | .vldff x => some ⟨0, 23, 3, .f2 x, Acc.vld⟩
  | .vldbc x => some ⟨0, 23, 4, .f2 x, Acc.vld⟩
  | .vst x => some ⟨0, 24, 0, .f2 x, Acc.vst⟩
  | .vsts x => some ⟨0, 24, 1, .f2 x, Acc.vsts⟩
  | .vstx x => some ⟨0, 24, 2, .f2 x, Acc.vstx⟩
  | .vredsum x => some ⟨0, 25, 0, .f2 x, Acc.v3m⟩
  | .vredosum x => some ⟨0, 25, 1, .f2 x, Acc.v3m⟩
  | .vredmax x => some ⟨0, 25, 2, .f2 x, Acc.v3m⟩
  | .vredmin x => some ⟨0, 25, 3, .f2 x, Acc.v3m⟩
  | .vredand x => some ⟨0, 25, 4, .f2 x, Acc.v3m⟩
  | .vredor x => some ⟨0, 25, 5, .f2 x, Acc.v3m⟩
  | .vredxor x => some ⟨0, 25, 6, .f2 x, Acc.v3m⟩
  | .vcvt x => some ⟨0, 26, 0, .f2 x, Acc.vcvt⟩
  | .vwiden x => some ⟨0, 26, 1, .f2 x, Acc.v2⟩
  | .vnarrow x => some ⟨0, 26, 2, .f2 x, Acc.v2⟩
  | .vrint x => some ⟨0, 26, 3, .f2 x, Acc.v2⟩
  | .vslup x => some ⟨0, 27, 0, .f2 x, Acc.v2n⟩
  | .vsldn x => some ⟨0, 27, 1, .f2 x, Acc.v2n⟩
  | .vrgat x => some ⟨0, 27, 2, .f2 x, Acc.v3⟩
  | .vzip x => some ⟨0, 27, 3, .f2 x, Acc.v3⟩
  | .vunzip x => some ⟨0, 27, 4, .f2 x, Acc.vunzip⟩
  | .vrev x => some ⟨0, 27, 5, .f2 x, Acc.v2⟩
  | .vsl1up x => some ⟨0, 27, 6, .f2 x, Acc.v3g⟩
  | .vsl1dn x => some ⟨0, 27, 7, .f2 x, Acc.v3g⟩
  | .vdiv x => some ⟨0, 28, 0, .f2 x, Acc.v3⟩
  | .vsqrt x => some ⟨0, 28, 1, .f2 x, Acc.v2⟩
  | .vrcp x => some ⟨0, 28, 2, .f2 x, Acc.v2⟩
  | .vrsqrt x => some ⟨0, 28, 3, .f2 x, Acc.v2⟩
  | .vexp2 x => some ⟨0, 28, 4, .f2 x, Acc.v2⟩
  | .vlog2 x => some ⟨0, 28, 5, .f2 x, Acc.v2⟩
  | .vclass x => some ⟨0, 28, 6, .f2 x, Acc.v2⟩
  | .vabs x => some ⟨0, 28, 7, .f2 x, Acc.v2⟩
  | .vsadd x => some ⟨1, 0, 0, .f2 x, Acc.v3⟩
  | .vssub x => some ⟨1, 0, 1, .f2 x, Acc.v3⟩
  | .vsaddu x => some ⟨1, 0, 2, .f2 x, Acc.v3⟩
  | .vssubu x => some ⟨1, 0, 3, .f2 x, Acc.v3⟩
  | .vavg x => some ⟨1, 0, 4, .f2 x, Acc.v3⟩
  | .vmulh x => some ⟨1, 0, 5, .f2 x, Acc.v3⟩
  | .vmulhu x => some ⟨1, 0, 6, .f2 x, Acc.v3⟩
  | .vsrr x => some ⟨1, 0, 7, .f2 x, Acc.v3⟩
  | .vnclip x => some ⟨1, 1, 0, .f2 x, Acc.v2n⟩
  | .vnclipu x => some ⟨1, 1, 1, .f2 x, Acc.v2n⟩
  | .vmacw x => some ⟨1, 1, 2, .f2 x, Acc.v3⟩
  | .vdotw x => some ⟨1, 1, 3, .f2 x, Acc.v3⟩
  | .vbmax x => some ⟨1, 1, 4, .f2 x, Acc.v2⟩
  | .vbscale x => some ⟨1, 1, 5, .f2 x, Acc.v3⟩
  | .vbdeq x => some ⟨1, 1, 6, .f2 x, Acc.v3⟩
  | .vsparse x => some ⟨1, 1, 7, .f2 x, Acc.v2⟩
  | .mxon x => some ⟨2, 0, 0, .f2 x, Acc.num⟩
  | .mxoff x => some ⟨2, 0, 1, .f2 x, Acc.none⟩
  | .mzero x => some ⟨2, 0, 2, .f2 x, Acc.zOnly⟩
  | .mop x => some ⟨2, 0, 3, .f2 x, Acc.mop⟩
  | .mopn x => some ⟨2, 0, 4, .f2 x, Acc.mop⟩
  | .mfold x => some ⟨2, 0, 5, .f2 x, Acc.zOnly⟩
  | .mrowv x => some ⟨2, 1, 0, .f2 x, Acc.vz⟩
  | .mcolv x => some ⟨2, 1, 1, .f2 x, Acc.vz⟩
  | .mvrow x => some ⟨2, 1, 2, .f2 x, Acc.zv⟩
  | .mvcol x => some ⟨2, 1, 3, .f2 x, Acc.zv⟩
  | .macst x => some ⟨2, 1, 4, .f2 x, Acc.mtile⟩
  | .macld x => some ⟨2, 1, 5, .f2 x, Acc.mtile⟩
  | .rsalloc x => some ⟨2, 2, 0, .f2 x, Acc.g2⟩
  | .rsload x => some ⟨2, 2, 1, .f2 x, Acc.g23⟩
  | .rspin x => some ⟨2, 2, 2, .f2 x, Acc.onlyA⟩
  | .rsunpin x => some ⟨2, 2, 3, .f2 x, Acc.onlyA⟩
  | .rsrev x => some ⟨2, 2, 4, .f2 x, Acc.onlyA⟩
  | .rsq x => some ⟨2, 2, 5, .f2 x, Acc.g2⟩
  | .mres x => some ⟨2, 2, 6, .f2 x, Acc.mres⟩
  | .mresv x => some ⟨2, 2, 7, .f2 x, Acc.mresv⟩
  | .sset x => some ⟨3, 0, 0, .f2 x, Acc.sset⟩
  | .sstop x => some ⟨3, 0, 1, .f2 x, Acc.sstop⟩
  | .sstopClose x => some ⟨3, 0, 1, .f2 x, Acc.sstopClose⟩
  | .vslr x => some ⟨3, 0, 2, .f2 x, Acc.vslr⟩
  | .vslrcfg x => some ⟨3, 0, 3, .f2 x, Acc.onlyA⟩
  | .cpy x => some ⟨3, 1, 0, .f2 x, Acc.g2⟩
  | .cpyx x => some ⟨3, 1, 1, .f2 x, Acc.g2⟩
  | .cpydist x => some ⟨3, 1, 2, .f2 x, Acc.g2⟩
  | .cpyz x => some ⟨3, 1, 3, .f2 x, Acc.g2⟩
  | .mrd x => some ⟨3, 2, 0, .f2 x, Acc.packet⟩
  | .mwr x => some ⟨3, 2, 1, .f2 x, Acc.packet⟩
  | .mwrm x => some ⟨3, 2, 2, .f2 x, Acc.packet⟩
  | .matom x => some ⟨3, 2, 3, .f2 x, Acc.matom⟩
  | .mrsp x => some ⟨3, 2, 4, .f2 x, Acc.mrsp⟩
  | .vldg x => some ⟨3, 2, 5, .f2 x, Acc.vld⟩
  | .vstg x => some ⟨3, 2, 6, .f2 x, Acc.vst⟩
  | .vldgff x => some ⟨3, 2, 7, .f2 x, Acc.vld⟩
  | .poolput x => some ⟨4, 0, 0, .f2 x, Acc.poolput⟩
  | .poolget x => some ⟨4, 0, 1, .f2 x, Acc.poolget⟩
  | .launch x => some ⟨4, 0, 2, .f2 x, Acc.g2⟩
  | .cancel x => some ⟨4, 0, 3, .f2 x, Acc.onlyA⟩
  | .ccget x => some ⟨4, 0, 4, .f2 x, Acc.g2⟩
  | .cut x => some ⟨4, 0, 5, .f2 x, Acc.onlyAE⟩
  | .tret x => some ⟨5, 0, 0, .f2 x, Acc.none⟩
  | .ctxsave x => some ⟨5, 0, 1, .f2 x, Acc.g23⟩
  | .ctxrest x => some ⟨5, 0, 2, .f2 x, Acc.g23⟩
  | .rtset x => some ⟨5, 0, 3, .f2 x, Acc.onlyAE⟩
  | .rtcommit x => some ⟨5, 0, 4, .f2 x, Acc.onlyD⟩
  | .rtinv x => some ⟨5, 0, 5, .f2 x, Acc.none⟩
  | .fgload x => some ⟨5, 0, 6, .f2 x, Acc.onlyAE⟩
  | .fgbind x => some ⟨5, 0, 7, .f2 x, Acc.onlyAE⟩
  | .fgclr x => some ⟨5, 1, 0, .f2 x, Acc.num⟩
  | .fgsel x => some ⟨5, 1, 1, .f2 x, Acc.num⟩
  | .chgown x => some ⟨5, 1, 2, .f2 x, Acc.none⟩
  | .resume x => some ⟨5, 1, 3, .f2 x, Acc.g2⟩
  | .resumeSnap x => some ⟨5, 1, 3, .f2 x, Acc.g2s1⟩
  | .rseed x => some ⟨6, 0, 0, .f2 x, Acc.onlyD⟩
  | .rstream x => some ⟨6, 0, 1, .f2 x, Acc.onlyAE⟩
  | .vrand x => some ⟨6, 0, 2, .f2 x, Acc.vd⟩
  | .vrandf x => some ⟨6, 0, 3, .f2 x, Acc.vd⟩
  | .dgon x => some ⟨6, 0, 4, .f2 x, Acc.none⟩
  | .dgoff x => some ⟨6, 0, 5, .f2 x, Acc.none⟩
  | .dgget x => some ⟨6, 0, 6, .f2 x, Acc.g23⟩
  | .rdctr x => some ⟨6, 0, 7, .f2 x, Acc.g2⟩
  | .fig x op f => some ⟨15, op.toNat, f.toNat, .f2 x, Acc.fig⟩
  | .faultRecordDelivery _ => none
  | .tokenArrival _ _ => none
  | .slotReturn _ _ => none
  | .channelRebind _ _ => none
  | .copyElement _ => none
  | .residencyFillComplete _ => none
  | .residencyFillFault _ => none
  | .residencyReloadComplete _ => none
  | .residencyStaleMark _ _ => none
  | .gatewayForward _ => none
  | .serverAccept _ => none
  | .serverPerform _ _ => none
  | .rmwMergeComplete _ => none
  | .packetReplyArrival _ => none
  | .remoteTileAccess _ => none
  | .nearBankRequest _ => none
  | .nearBankReply _ => none
  | .patternTokenFetch _ _ => none
  | .barrierArrival _ _ => none
  | .sstepGenerationComplete _ _ => none
  | .lapClose _ _ => none
  | .sweepFirstPass _ => none
  | .sweepSecondPass _ => none
  | .preemptionRequest _ => none
  | .preemptionDeadline _ => none
  | .saveSequence _ => none
  | .placeProcess _ => none
  | .hubRestore _ => none
  | .unplacedWake _ => none
  | .networkDispatch _ => none
  | .launchStart _ => none
  | .entryFinal _ _ _ => none
  | .cancelPropagate _ _ _ => none
  | .cancelledTrap _ => none
  | .takeGate _ => none
  | .cutComplete _ => none
  | .snapshotRebuild _ => none
  | .vwaitTimeout _ => none
  | .rangeTableSwitch _ => none
  | .queueSramPoison _ => none
  | .laneGroupBind _ => none
  | .arrayGrant _ => none
  | .submitNetwork _ _ => none
  | .submitGraph _ _ _ _ _ => none
  | .openPhase _ _ => none
  | .closePhase _ _ => none
  | .sqpCancel _ _ _ => none
  | .teardownQueue _ => none
  | .resetQueue _ => none
  | .registerImage _ _ _ => none
  | .prePlaceImage _ _ => none
  | .releaseImage _ _ => none
  | .sqpCut _ _ _ => none
  | .resumeSnapshot _ _ _ _ => none
  | .openQueue _ _ _ _ => none
  | .closeQueue _ _ _ => none
  | .jobStart _ _ => none
  | .jobEnd _ _ => none
  | .rangeRegion _ _ _ _ _ _ => none
  | .hostWindow _ _ _ _ => none
  | .setAgeCap _ _ _ => none
  | .setHostPathTimeout _ _ => none
  | .readErrorLog _ => none
  | .clearErrorLog _ => none
  | .readCounters _ _ _ _ => none
  | .releaseSeedLog _ _ => none
  | .readCertificateChain _ => none
  | .attest _ _ => none
  | .firmwareChunk _ _ => none
  | .sqpAcknowledgement _ _ _ => none
  | .sqpRetransmit _ _ => none
  | .rdmaWrite _ _ _ _ => none
  | .rdmaRead _ _ _ _ => none
  | .rdmaRefusedVerb _ => none
  | .hostBridgeCompletion _ => none
  | .hostPathTimeout _ => none
  | .spanFlitReceive _ _ _ => none
  | .spanNegativeAcknowledgement _ _ => none
  | .spanAcknowledgement _ _ => none
  | .repairRequest _ _ => none
  | .repairGrant _ _ => none
  | .laneMapSwitch _ => none
  | .linkRetrain _ _ => none
  | .linkDown _ => none
  | .coldStart _ => none
  | .warmStart _ => none
  | .hostLinkRetry _ => none
  | .ageingReplan _ _ => none
  | .clockRelock _ => none
  | .powerSample _ => none
  | .tileZeroingComplete _ => none
  | .rowClearComplete _ => none
  | .laneLossOfLock _ _ => none
  | .icmpv6NeighbourDiscoveryAndEcho _ _ => none
  | .droppedFrame _ => none
  | .setSqpUdpPort _ _ => none

/-! The words of a chain (R41, R44). -/

def PrF.word (r : PrF) : Half :=
  BitVec.ofNat 16 (0xFC00 + r.e.toNat * 8 + r.dh.toNat * 4 + r.ah.toNat * 2 + r.w.toNat)

def PpF.word (r : PpF) : Half :=
  BitVec.ofNat 16 (0xFE00 + r.pred.toNat * 32 + r.inv.toNat * 16 + r.zero.toNat * 8)

def poWord (page : Nat) (sub : BitVec 4) : Half := BitVec.ofNat 16 (0xFD00 + page % 16 * 16 + sub.toNat)

def pxWord (w : BitVec 10) : Half := BitVec.ofNat 16 (0xF800 + w.toNat)

def Chain.baseWord (c : Chain) : Half :=
  match c.body with
  | .f2 x => BitVec.ofNat 16 (c.op % 32 * 2048 + x.d.toNat * 128 + x.a.toNat * 8 + c.f % 8)
  | .fi x => BitVec.ofNat 16 (c.op % 32 * 2048 + x.d.toNat * 128 + x.imm.toNat)
  | .fb x => BitVec.ofNat 16 (c.op % 32 * 2048 + x.a.toNat * 128 + x.off.toNat)
  | .fj x => BitVec.ofNat 16 (c.op % 32 * 2048 + x.off.toNat)

/-- The halfwords of the chain in address order (R45). -/
def Chain.words (c : Chain) : List Half :=
  let p := c.body.pre
  (p.po.map (poWord c.page)).toList ++ (p.pr.map PrF.word).toList ++ (p.pp.map PpF.word).toList
    ++ p.px.map pxWord ++ [c.baseWord]

/-- A decoding check that fails (R50, R51): the reason, the value for tval and the code for tinfo.opnd. -/
structure Bad where
  reason : Nat
  value  : Nat
  opnd   : Nat
  deriving DecidableEq, Repr

/-- The first of two checks that fails. -/
def orElseBad (a : Option Bad) (b : Option Bad) : Option Bad := match a with
  | some x => some x
  | none => b

def badIf (c : Bool) (reason value : Nat) (opnd : Nat := 0) : Option Bad :=
  if c then some ⟨reason, value, opnd⟩ else none

def firstBad : List (Option Bad) → Option Bad
  | [] => none
  | x :: xs => orElseBad x (firstBad xs)

/-- The first PX word that gives U a bit at or above `bits`; the words are given most significant first. -/
def pxAbove (bits : Nat) : List (BitVec 10) → Option (BitVec 10)
  | [] => none
  | w :: ws => if 2 ^ bits ≤ w.toNat * 1024 ^ ws.length then some w else pxAbove bits ws

/-- R46, R47, R49: a kind of word that the entry does not accept (reason 0x08). -/
def Chain.badKind (c : Chain) : Option Bad :=
  let p := c.body.pre
  firstBad [
    badIf (p.pr.isSome && !c.acc.pr) 0x08 ((p.pr.map fun r => r.word.toNat).getD 0),
    badIf (p.pp.isSome && c.acc.pp == .no) 0x08 ((p.pp.map fun r => r.word.toNat).getD 0),
    badIf (!p.px.isEmpty && c.acc.px == .no) 0x08 ((p.px.head?.map fun w => (pxWord w).toNat).getD 0)]

/-- R43, R47: a PR field that the entry does not accept, or e without w. -/
def Acc.badPr (k : Acc) (r : PrF) : Bool :=
  !k.raw && ((r.dh && !k.dh) || (r.ah && !k.ah) || (r.w && !k.w) || (!r.w && r.e != 0))

/-- R119, R123: a PX word with a bit that the entry requires to be zero. -/
def Chain.badPx (c : Chain) : Option (BitVec 10) :=
  let p := c.body.pre
  match c.acc.px with
  | .limit bits keep =>
    if keep && p.sub == 1 then
      match p.px with
      | [] => none
      | m :: ws => if 256 ≤ m.toNat then some m else pxAbove bits ws
    else pxAbove bits p.px
  | _ => none

/-- An operand field that the entry leaves unused is not zero (R43). -/
def Chain.badField (c : Chain) : Bool :=
  match c.body with
  | .f2 x => (c.acc.d == .none && x.d != 0) || (c.acc.a == .none && x.a != 0)
  | _ => false

/-- R43, R44, R47, R50: a field that must be zero (reason 0x09), in chain order; `low` is PP [2:0]. -/
def Chain.badZero (c : Chain) (low : Nat) : Option Bad :=
  let p := c.body.pre
  firstBad [
    badIf (c.acc.raw && 2 ≤ p.sub) 0x09 ((p.po.map fun s => (poWord c.page s).toNat).getD 0),
    badIf (((p.pr.map c.acc.badPr).getD false)) 0x09 ((p.pr.map fun r => r.word.toNat).getD 0),
    badIf (p.pp.isSome && (low != 0 || (((p.pp.map (·.zero)).getD false) && c.acc.pp == .merging))) 0x09
      ((p.pp.map fun r => r.word.toNat + low).getD 0),
    (c.badPx.map fun w => ⟨0x09, (pxWord w).toNat, 0⟩),
    badIf c.badField 0x09 c.baseWord.toNat]

/-- R48: a sub value that the entry does not define (reason 0x0A); sub = 0 stands for a chain without PO. -/
def Chain.badSub (c : Chain) : Option Bad :=
  let p := c.body.pre
  badIf (!c.acc.subs.contains p.sub) 0x0A ((p.po.map fun s => (poWord c.page s).toNat).getD c.baseWord.toNat)

def badReg (k : Opnd) (n opnd : Nat) : Option Bad :=
  badIf (k.isReg && (k.top < n || n < k.bot)) 0x0B n opnd

/-- R42: a register number out of range (reason 0x0B), in the order d, a, e; tinfo.opnd names the operand, with the
code 6 for a queue and 7 for a predicate position left to its position code 1, 2 or 3. -/
def Chain.badNumber (c : Chain) : Option Bad :=
  let code (k : Opnd) (pos : Nat) : Nat := if k == .q then 6 else pos
  match c.body with
  | .f2 x =>
    firstBad [badReg c.acc.d x.dN (code c.acc.d 1), badReg c.acc.a x.aN (code c.acc.a 2),
      if x.w then badReg c.acc.e x.eN (code c.acc.e 3) else none]
  | _ => none

/-- The checks of R50 from reason 0x08 on, in their order. -/
def Chain.bad (c : Chain) (low : Nat) : Option Bad :=
  firstBad [c.badKind, c.badZero low, c.badSub, c.badNumber]

/-- R48, R57: a page-0 instruction may stand without PO, every other page needs it. -/
def Chain.poOk (c : Chain) : Bool := c.page == 0 || c.body.pre.po.isSome

/-! The decoder. -/

/-- R41: the bits of a halfword from `lo`, `n` of them. -/
def Half.field (w : Half) (lo n : Nat) : Nat := w.toNat / 2 ^ lo % 2 ^ n

def Half.op (w : Half) : Nat := Half.field w 11 5

/-- R44: a halfword whose bits [15:11] are all ones is a prefix word. -/
def Half.isPre (w : Half) : Bool := Half.op w == 31

/-- R44: the kinds of a prefix word, with their rank in the order of R45; `none` is the reserved kind. -/
def Half.rank (w : Half) : Option Nat :=
  if Half.field w 10 1 == 0 then some 4
  else match Half.field w 8 2 with
    | 0 => some 2
    | 1 => some 1
    | 2 => some 3
    | _ => none

def prOf (w : Half) : PrF :=
  { e := BitVec.ofNat 5 (Half.field w 3 5), dh := Half.field w 2 1 == 1,
    ah := Half.field w 1 1 == 1, w := Half.field w 0 1 == 1 }

def ppOf (w : Half) : PpF :=
  { pred := BitVec.ofNat 3 (Half.field w 5 3), inv := Half.field w 4 1 == 1, zero := Half.field w 3 1 == 1 }

/-- R41: the operand fields of a base word. -/
def f2Of (b : Half) (pre : Pre) : F2 :=
  { pre, d := BitVec.ofNat 4 (Half.field b 7 4), a := BitVec.ofNat 4 (Half.field b 3 4) }
def fiOf (b : Half) (pre : Pre) : FI :=
  { pre, d := BitVec.ofNat 4 (Half.field b 7 4), imm := BitVec.ofNat 7 (Half.field b 0 7) }
def fbOf (b : Half) (pre : Pre) : FB :=
  { pre, a := BitVec.ofNat 4 (Half.field b 7 4), off := BitVec.ofNat 7 (Half.field b 0 7) }
def fjOf (b : Half) (pre : Pre) : FJ :=
  { pre, off := BitVec.ofNat 11 (Half.field b 0 11) }

/-- What decoding a chain's words gives: an instruction, or the failing check with the number of words gathered. -/
inductive Decoded where
  | ok (i : Instr) (len : Nat)
  | bad (b : Bad) (len : Nat)
  deriving DecidableEq, Repr

/-- R50: the words from the entry address up to the base word, at most five. -/
def gather : Nat → List Half → List Half
  | 0, _ => []
  | _, [] => []
  | n + 1, w :: ws => if Half.isPre w then w :: gather n ws else [w]

/-- The prefix words read so far, and the raw PO and PP words (for tval). -/
structure PreScan where
  pre  : Pre
  page : Nat
  low  : Nat
  rank : Nat
  deriving DecidableEq, Repr

/-- R50: one prefix word; reserved kind 0x01, order 0x02, duplicate 0x03. -/
def PreScan.step (s : PreScan) (w : Half) : Except Bad PreScan :=
  match Half.rank w with
  | none => .error ⟨0x01, w.toNat, 0⟩
  | some r =>
    if r < s.rank then .error ⟨0x02, w.toNat, 0⟩
    else if r == s.rank && r != 4 then .error ⟨0x03, w.toNat, 0⟩
    else match r with
      | 1 => .ok { s with rank := 1, page := Half.field w 4 4, pre := { s.pre with po := some (BitVec.ofNat 4 (Half.field w 0 4)) } }
      | 2 => .ok { s with rank := 2, pre := { s.pre with pr := some (prOf w) } }
      | 3 => .ok { s with rank := 3, low := Half.field w 0 3, pre := { s.pre with pp := some (ppOf w) } }
      | _ => .ok { s with rank := 4, pre := { s.pre with px := s.pre.px ++ [BitVec.ofNat 10 (Half.field w 0 10)] } }

def PreScan.run (s : PreScan) : List Half → Except Bad PreScan
  | [] => .ok s
  | w :: ws => match s.step w with
    | .error b => .error b
    | .ok s' => s'.run ws

def PreScan.start : PreScan := { pre := Pre.none, page := 0, low := 0, rank := 0 }

/-! R55 to R57: the opcode map, page by page; none is a reserved major or a reserved f. -/

def Decode.page0 (op f : Nat) (b : Half) (pre : Pre) : Option Instr := match op with
  | 0 => match f with
    | 0 => some (.nop (f2Of b pre))
    | 1 => some (.exit (f2Of b pre))
    | 2 => some (.svc (f2Of b pre))
    | 3 => some (.brk (f2Of b pre))
    | 4 => some (.ifsync (f2Of b pre))
    | 5 => some (.fence (f2Of b pre))
    | 6 => some (.mfs (f2Of b pre))
    | 7 => some (.mts (f2Of b pre))
    | _ => none
  | 1 => match f with
    | 0 => some (.add (f2Of b pre))
    | 1 => some (.sub (f2Of b pre))
    | 2 => some (.and (f2Of b pre))
    | 3 => some (.or (f2Of b pre))
    | 4 => some (.xor (f2Of b pre))
    | 5 => some (.sll (f2Of b pre))
    | 6 => some (.srl (f2Of b pre))
    | 7 => some (.sra (f2Of b pre))
    | _ => none
  | 2 => match f with
    | 0 => some (.mul (f2Of b pre))
    | 1 => some (.mulh (f2Of b pre))
    | 2 => some (.mulhu (f2Of b pre))
    | 3 => some (.mulhsu (f2Of b pre))
    | 4 => some (.div (f2Of b pre))
    | 5 => some (.divu (f2Of b pre))
    | 6 => some (.rem (f2Of b pre))
    | 7 => some (.remu (f2Of b pre))
    | _ => none
  | 3 => some (.addi (fiOf b pre))
  | 4 => some (.movi (fiOf b pre))
  | 5 => match f with
    | 0 => some (.slli (f2Of b pre))
    | 1 => some (.srli (f2Of b pre))
    | 2 => some (.srai (f2Of b pre))
    | 3 => some (.clz (f2Of b pre))
    | 4 => some (.ctz (f2Of b pre))
    | 5 => some (.popc (f2Of b pre))
    | 6 => some (.sextw (f2Of b pre))
    | 7 => some (.zextw (f2Of b pre))
    | _ => none
  | 6 => match f with
    | 0 => some (.seq (f2Of b pre))
    | 1 => some (.sne (f2Of b pre))
    | 2 => some (.slt (f2Of b pre))
    | 3 => some (.sltu (f2Of b pre))
    | 4 => some (.sge (f2Of b pre))
    | 5 => some (.sgeu (f2Of b pre))
    | 6 => some (.min (f2Of b pre))
    | 7 => some (.max (f2Of b pre))
    | _ => none
  | 7 => some (.andi (fiOf b pre))
  | 8 => match f with
    | 0 => some (.lb (f2Of b pre))
    | 1 => some (.lbu (f2Of b pre))
    | 2 => some (.lh (f2Of b pre))
    | 3 => some (.lhu (f2Of b pre))
    | 4 => some (.lw (f2Of b pre))
    | 5 => some (.lwu (f2Of b pre))
    | 6 => some (.ld (f2Of b pre))
    | 7 => some (.lea (f2Of b pre))
    | _ => none
  | 9 => match f with
    | 0 => some (.sb (f2Of b pre))
    | 1 => some (.sh (f2Of b pre))
    | 2 => some (.sw (f2Of b pre))
    | 3 => some (.sd (f2Of b pre))
    | 4 => some (.amoadd (f2Of b pre))
    | 5 => some (.amoswap (f2Of b pre))
    | 6 => some (.amomax (f2Of b pre))
    | 7 => some (.amocas (f2Of b pre))
    | _ => none
  | 10 => some (.beqz (fbOf b pre))
  | 11 => some (.bnez (fbOf b pre))
  | 12 => some (.j (fjOf b pre))
  | 13 => some (.call (fjOf b pre))
  | 14 => match f with
    | 0 => some (.jr (f2Of b pre))
    | 1 => some (.callr (f2Of b pre))
    | 2 => some (.ret (f2Of b pre))
    | 3 => some (.bpt (f2Of b pre))
    | 4 => some (.bpf (f2Of b pre))
    | _ => none
  | 15 => match f with
    | 0 => some (.qpop (f2Of b pre))
    | 1 => some (.qpopb (f2Of b pre))
    | 2 => some (.qpush (f2Of b pre))
    | 3 => some (.qclose (f2Of b pre))
    | 4 => some (.qbind (f2Of b pre))
    | 5 => some (.qunbind (f2Of b pre))
    | _ => none
  | 16 => match f with
    | 0 => some (.setvl (f2Of b pre))
    | 1 => some (.setvli (f2Of b pre))
    | 2 => some (.strip (f2Of b pre))
    | 3 => some (.stripcfg (f2Of b pre))
    | _ => none
  | 17 => match f with
    | 0 => some (.pand (f2Of b pre))
    | 1 => some (.por (f2Of b pre))
    | 2 => some (.pxor (f2Of b pre))
    | 3 => some (.pnot (f2Of b pre))
    | 4 => some (.pbrkb (f2Of b pre))
    | 5 => some (.pbrki (f2Of b pre))
    | 6 => some (.pfirst (f2Of b pre))
    | 7 => some (.pcount (f2Of b pre))
    | _ => none
  | 18 => match f with
    | 0 => some (.waitge (f2Of b pre))
    | 1 => some (.cadd (f2Of b pre))
    | 2 => some (.vwait (f2Of b pre))
    | 3 => some (.bar (f2Of b pre))
    | 4 => some (.bararr (f2Of b pre))
    | 5 => some (.barwait (f2Of b pre))
    | 6 => some (.sstep (f2Of b pre))
    | _ => none
  | 19 => match f with
    | 0 => some (.vadd (f2Of b pre))
    | 1 => some (.vsub (f2Of b pre))
    | 2 => some (.vmul (f2Of b pre))
    | 3 => some (.vmin (f2Of b pre))
    | 4 => some (.vmax (f2Of b pre))
    | 5 => some (.vabd (f2Of b pre))
    | 6 => some (.vmac (f2Of b pre))
    | 7 => some (.vnmac (f2Of b pre))
    | _ => none
  | 20 => match f with
    | 0 => some (.vand (f2Of b pre))
    | 1 => some (.vor (f2Of b pre))
    | 2 => some (.vxor (f2Of b pre))
    | 3 => some (.vandn (f2Of b pre))
    | 4 => some (.vsll (f2Of b pre))
    | 5 => some (.vsrl (f2Of b pre))
    | 6 => some (.vsra (f2Of b pre))
    | 7 => some (.vnot (f2Of b pre))
    | _ => none
  | 21 => match f with
    | 0 => some (.vceq (f2Of b pre))
    | 1 => some (.vcne (f2Of b pre))
    | 2 => some (.vclt (f2Of b pre))
    | 3 => some (.vcle (f2Of b pre))
    | 4 => some (.vcgt (f2Of b pre))
    | 5 => some (.vcge (f2Of b pre))
    | 6 => some (.vcltu (f2Of b pre))
    | 7 => some (.vcun (f2Of b pre))
    | _ => none
  | 22 => match f with
    | 0 => some (.vmov (f2Of b pre))
    | 1 => some (.vsplat (f2Of b pre))
    | 2 => some (.vext (f2Of b pre))
    | 3 => some (.vins (f2Of b pre))
    | 4 => some (.vmerge (f2Of b pre))
    | 5 => some (.vid (f2Of b pre))
    | 6 => some (.viota (f2Of b pre))
    | 7 => some (.vcompress (f2Of b pre))
    | _ => none
  | 23 => match f with
    | 0 => some (.vld (f2Of b pre))
    | 1 => some (.vlds (f2Of b pre))
    | 2 => some (.vldx (f2Of b pre))
    | 3 => some (.vldff (f2Of b pre))
    | 4 => some (.vldbc (f2Of b pre))
    | _ => none
  | 24 => match f with
    | 0 => some (.vst (f2Of b pre))
    | 1 => some (.vsts (f2Of b pre))
    | 2 => some (.vstx (f2Of b pre))
    | _ => none
  | 25 => match f with
    | 0 => some (.vredsum (f2Of b pre))
    | 1 => some (.vredosum (f2Of b pre))
    | 2 => some (.vredmax (f2Of b pre))
    | 3 => some (.vredmin (f2Of b pre))
    | 4 => some (.vredand (f2Of b pre))
    | 5 => some (.vredor (f2Of b pre))
    | 6 => some (.vredxor (f2Of b pre))
    | _ => none
  | 26 => match f with
    | 0 => some (.vcvt (f2Of b pre))
    | 1 => some (.vwiden (f2Of b pre))
    | 2 => some (.vnarrow (f2Of b pre))
    | 3 => some (.vrint (f2Of b pre))
    | _ => none
  | 27 => match f with
    | 0 => some (.vslup (f2Of b pre))
    | 1 => some (.vsldn (f2Of b pre))
    | 2 => some (.vrgat (f2Of b pre))
    | 3 => some (.vzip (f2Of b pre))
    | 4 => some (.vunzip (f2Of b pre))
    | 5 => some (.vrev (f2Of b pre))
    | 6 => some (.vsl1up (f2Of b pre))
    | 7 => some (.vsl1dn (f2Of b pre))
    | _ => none
  | 28 => match f with
    | 0 => some (.vdiv (f2Of b pre))
    | 1 => some (.vsqrt (f2Of b pre))
    | 2 => some (.vrcp (f2Of b pre))
    | 3 => some (.vrsqrt (f2Of b pre))
    | 4 => some (.vexp2 (f2Of b pre))
    | 5 => some (.vlog2 (f2Of b pre))
    | 6 => some (.vclass (f2Of b pre))
    | 7 => some (.vabs (f2Of b pre))
    | _ => none
  | _ => none

def Decode.page1 (op f : Nat) (b : Half) (pre : Pre) : Option Instr := match op with
  | 0 => match f with
    | 0 => some (.vsadd (f2Of b pre))
    | 1 => some (.vssub (f2Of b pre))
    | 2 => some (.vsaddu (f2Of b pre))
    | 3 => some (.vssubu (f2Of b pre))
    | 4 => some (.vavg (f2Of b pre))
    | 5 => some (.vmulh (f2Of b pre))
    | 6 => some (.vmulhu (f2Of b pre))
    | 7 => some (.vsrr (f2Of b pre))
    | _ => none
  | 1 => match f with
    | 0 => some (.vnclip (f2Of b pre))
    | 1 => some (.vnclipu (f2Of b pre))
    | 2 => some (.vmacw (f2Of b pre))
    | 3 => some (.vdotw (f2Of b pre))
    | 4 => some (.vbmax (f2Of b pre))
    | 5 => some (.vbscale (f2Of b pre))
    | 6 => some (.vbdeq (f2Of b pre))
    | 7 => some (.vsparse (f2Of b pre))
    | _ => none
  | _ => none

def Decode.page2 (op f : Nat) (b : Half) (pre : Pre) : Option Instr := match op with
  | 0 => match f with
    | 0 => some (.mxon (f2Of b pre))
    | 1 => some (.mxoff (f2Of b pre))
    | 2 => some (.mzero (f2Of b pre))
    | 3 => some (.mop (f2Of b pre))
    | 4 => some (.mopn (f2Of b pre))
    | 5 => some (.mfold (f2Of b pre))
    | _ => none
  | 1 => match f with
    | 0 => some (.mrowv (f2Of b pre))
    | 1 => some (.mcolv (f2Of b pre))
    | 2 => some (.mvrow (f2Of b pre))
    | 3 => some (.mvcol (f2Of b pre))
    | 4 => some (.macst (f2Of b pre))
    | 5 => some (.macld (f2Of b pre))
    | _ => none
  | 2 => match f with
    | 0 => some (.rsalloc (f2Of b pre))
    | 1 => some (.rsload (f2Of b pre))
    | 2 => some (.rspin (f2Of b pre))
    | 3 => some (.rsunpin (f2Of b pre))
    | 4 => some (.rsrev (f2Of b pre))
    | 5 => some (.rsq (f2Of b pre))
    | 6 => some (.mres (f2Of b pre))
    | 7 => some (.mresv (f2Of b pre))
    | _ => none
  | _ => none

def Decode.page3 (op f : Nat) (b : Half) (pre : Pre) : Option Instr := match op with
  | 0 => match f with
    | 0 => some (.sset (f2Of b pre))
    | 1 => some (if pre.sub == 1 then .sstopClose (f2Of b pre) else .sstop (f2Of b pre))
    | 2 => some (.vslr (f2Of b pre))
    | 3 => some (.vslrcfg (f2Of b pre))
    | _ => none
  | 1 => match f with
    | 0 => some (.cpy (f2Of b pre))
    | 1 => some (.cpyx (f2Of b pre))
    | 2 => some (.cpydist (f2Of b pre))
    | 3 => some (.cpyz (f2Of b pre))
    | _ => none
  | 2 => match f with
    | 0 => some (.mrd (f2Of b pre))
    | 1 => some (.mwr (f2Of b pre))
    | 2 => some (.mwrm (f2Of b pre))
    | 3 => some (.matom (f2Of b pre))
    | 4 => some (.mrsp (f2Of b pre))
    | 5 => some (.vldg (f2Of b pre))
    | 6 => some (.vstg (f2Of b pre))
    | 7 => some (.vldgff (f2Of b pre))
    | _ => none
  | _ => none

def Decode.page4 (op f : Nat) (b : Half) (pre : Pre) : Option Instr := match op with
  | 0 => match f with
    | 0 => some (.poolput (f2Of b pre))
    | 1 => some (.poolget (f2Of b pre))
    | 2 => some (.launch (f2Of b pre))
    | 3 => some (.cancel (f2Of b pre))
    | 4 => some (.ccget (f2Of b pre))
    | 5 => some (.cut (f2Of b pre))
    | _ => none
  | _ => none

def Decode.page5 (op f : Nat) (b : Half) (pre : Pre) : Option Instr := match op with
  | 0 => match f with
    | 0 => some (.tret (f2Of b pre))
    | 1 => some (.ctxsave (f2Of b pre))
    | 2 => some (.ctxrest (f2Of b pre))
    | 3 => some (.rtset (f2Of b pre))
    | 4 => some (.rtcommit (f2Of b pre))
    | 5 => some (.rtinv (f2Of b pre))
    | 6 => some (.fgload (f2Of b pre))
    | 7 => some (.fgbind (f2Of b pre))
    | _ => none
  | 1 => match f with
    | 0 => some (.fgclr (f2Of b pre))
    | 1 => some (.fgsel (f2Of b pre))
    | 2 => some (.chgown (f2Of b pre))
    | 3 => some (if pre.sub == 1 then .resumeSnap (f2Of b pre) else .resume (f2Of b pre))
    | _ => none
  | _ => none

def Decode.page6 (op f : Nat) (b : Half) (pre : Pre) : Option Instr := match op with
  | 0 => match f with
    | 0 => some (.rseed (f2Of b pre))
    | 1 => some (.rstream (f2Of b pre))
    | 2 => some (.vrand (f2Of b pre))
    | 3 => some (.vrandf (f2Of b pre))
    | 4 => some (.dgon (f2Of b pre))
    | 5 => some (.dgoff (f2Of b pre))
    | 6 => some (.dgget (f2Of b pre))
    | 7 => some (.rdctr (f2Of b pre))
    | _ => none
  | _ => none

/-- R57: page 15 is `fig` for every F2 base word. -/
def Decode.instr (page op f : Nat) (b : Half) (pre : Pre) : Option Instr := match page with
  | 0 => Decode.page0 op f b pre
  | 1 => Decode.page1 op f b pre
  | 2 => Decode.page2 op f b pre
  | 3 => Decode.page3 op f b pre
  | 4 => Decode.page4 op f b pre
  | 5 => Decode.page5 op f b pre
  | 6 => Decode.page6 op f b pre
  | 15 => some (.fig (f2Of b pre) (BitVec.ofNat 5 op) (BitVec.ofNat 3 f))
  | _ => none

/-- R55, R56: the majors that the map defines on a page. -/
def Decode.majors (page : Nat) : List Nat := match page with
  | 0 => [0, 1, 2, 3, 4, 5, 6, 7, 8, 9, 10, 11, 12, 13, 14, 15, 16, 17, 18, 19, 20, 21, 22, 23, 24, 25, 26, 27, 28]
  | 1 => [0, 1]
  | 2 => [0, 1, 2]
  | 3 => [0, 1, 2]
  | 4 => [0]
  | 5 => [0, 1]
  | 6 => [0]
  | 15 => List.range 31
  | _ => []

/-- R50: the checks from the page on, for the scanned prefix words and the base word. -/
def decodeBase (s : PreScan) (po : Half) (b : Half) (len : Nat) : Decoded :=
  let op := Half.op b
  if 7 ≤ s.page && s.page ≤ 14 then .bad ⟨0x05, po.toNat, 0⟩ len
  else if !(Decode.majors s.page).contains op then .bad ⟨0x06, b.toNat, 0⟩ len
  else match Decode.instr s.page op (Half.field b 0 3) b s.pre with
    | none => .bad ⟨0x07, b.toNat, 0⟩ len
    | some i => match i.chain with
      | none => .bad ⟨0x07, b.toNat, 0⟩ len
      | some c => match c.bad s.low with
        | some x => .bad x len
        | none => .ok i len

/-- R50: DecodeChain over the words that lie from the entry address on. DEDUCED: log entries 13, 95. -/
def decodeWords (ws : List Half) : Decoded :=
  let g := gather 5 ws
  let len := g.length
  match g.getLast? with
  | none => .bad ⟨0x04, 0, 0⟩ 0
  | some b =>
    if Half.isPre b then .bad ⟨0x04, b.toNat, 0⟩ len
    else match PreScan.start.run g.dropLast with
      | .error x => .bad x len
      | .ok s => decodeBase s (g.headD 0) b len

/-- The words of a chain instruction; none for a step of another agent. -/
def encode (i : Instr) : Option (List Half) := i.chain.map Chain.words

/-- R11: a halfword from two bytes in memory order, and back. -/
def halfOfBytes (lo hi : Byte) : Half := BitVec.ofNat 16 (hi.toNat * 256 + lo.toNat)
def bytesOfHalf (h : Half) : List Byte := [BitVec.ofNat 8 h.toNat, BitVec.ofNat 8 (h.toNat / 256)]

def halvesOfBytes : List Byte → List Half
  | lo :: hi :: rest => halfOfBytes lo hi :: halvesOfBytes rest
  | _ => []

/-- The bytes as they lie in memory (R11). -/
def encodeBytes (i : Instr) : Option (List Byte) := (encode i).map fun ws => ws.flatMap bytesOfHalf

/-- The five halfwords of an instruction whose bits are `w`, the first word lowest, zero above `nbits`. -/
def tableWords (nbits w : Nat) : List Half :=
  (List.range 5).map fun k => BitVec.ofNat 16 (w % 2 ^ nbits / 2 ^ (16 * k))

/-- The decoder asked by the opcode table's numbering: the bytes of the words, as they lie in memory, decoded. -/
def decodeTableWord (nbits w : Nat) : Option Instr :=
  match decodeWords (halvesOfBytes ((tableWords nbits w).flatMap bytesOfHalf)) with
  | .ok i _ => some i
  | .bad _ _ => none

end Sys2Proof
end

