-- ==== Sys2Proof/Config.lean ====
section
/-! DEFINITION. What an implementation or the outside world fixes and the manual leaves open: constants without a body
(free values), applied to their operands, to a process and its retired chains or to the tick of the state, so that nothing can be proved about their value;
and the fixed numbers of the package (R2, R6, R10). -/

namespace Sys2Proof

/-- R22, R1: tile cycles that the chain ending at this tick took; the manual fixes no cycle count. -/
opaque Config.chainCycles : Nat → Nat

/-- R37: what a register of a tile control page reads, by the address as the chain forms it and by the process and its retired chains. -/
opaque Config.controlPage : Nat → Nat → Nat

/-- R230: the reads (0) or writes (1) that one transfer of the save sequencer or of a fill of a bank residency puts to a server, by
transfer, number and server. DESIGN CHOICE: log entry 139. -/
opaque Config.rowRequests : Nat → Nat → Nat → Word
/-- R230: what a diagnostic counter that counts time or traffic reads, by tick, domain and number. -/
opaque Config.diagnostic : Nat → Nat → Nat → Word

/-- R224: the physical entropy source. -/
opaque Config.entropy : Nat → BitVec 128

/-- R228, R335: the ECDSA signature (r then s, 66 bytes each) that the identity key makes over a message: of a network, or of an
attestation by tick. -/
opaque Config.identitySign : Nat → List Byte → BitVec 1056

/-- R334: whether an ECDSA signature over the first 88 header bytes holds under the firmware key in ROM. -/
opaque Config.firmwareSigOk : List Byte → Bool

/-- R329: the x-coordinate of the point that ECDH gives for the two public values. -/
opaque Config.sharedX : Nat → Nat → Nat

/-- R329: the hub's public value of one key exchange, by tick. -/
opaque Config.hubPublic : Nat → Nat

/-- R334, R335: device serial and certificate chain. -/
opaque Config.serial : BitVec 128
opaque Config.certificates : List Byte

/-- R317: the chain length that a record of a fetch window fault shows; the manual states none. -/
opaque Config.fetchLen : Nat → Nat

/-- R189: tinfo.ref and the descriptor offset that the fault of a fill reports; the manual names them for copies. -/
opaque Config.fillRef : Nat → Nat

/-- R50, R51: tinfo.opnd of a trap whose entry names no operand code. -/
opaque Config.unstatedOpnd : Nat → Nat

/-- R29, R39: tval of a trap whose entry names no value (the privileged-instruction trap). -/
opaque Config.unstatedTval : Nat → Word

/-- R319: a field of a hub-made record that no rule gives a value. -/
opaque Config.unstatedRef : Nat → Nat

/-- R316: a reason that the entry of a trap does not state. -/
opaque Config.unstatedReason : Nat → Nat

/-- R321: bytes of the save pool that the hub reserves for a tenant at job start. -/
opaque Config.savePool : Nat → Nat

/-- R254: submissions that the overflow region of a tenant holds beyond queue SRAM. -/
opaque Config.overflow : Nat → Nat

/-- R228, R257: what the hub reads, by network and address, where a byte of a digest range or a watermark counter has no
readable home any more. -/
opaque Config.lostByte : Nat → Nat → Byte

/-- R310: credits of a class on a span link beyond what one token takes. -/
opaque Config.linkCredits : Nat → Nat

/-- R340: the steps by which a re-plan raises a die's voltage, by tick, and the limit of the voltage. -/
opaque Config.voltage : Nat → Nat → Nat
opaque Config.voltageLimit : Nat

/-- R329: the key of management queue 0 that a start gives the device owner, by the number that names the start. -/
opaque Config.ownerKey : Nat → BitVec 256

/-- R335: the bytes of the table of tenant assignments, whose form the manual does not give: tenant, tiles, stacks, queues. -/
opaque Config.assignments : List (Nat × List Nat × List Nat × List Nat) → List Byte

/-- R328: the priorities on which the host port has priority flow control, two of them at most. -/
opaque Config.pausePriorities : List Nat

/-- R328: the ICMPv6 answer to a frame; the protocol's own standard gives it. -/
opaque Config.icmpAnswer : List Byte → List Byte

/-- R2, R3, R6: tiles of the package and of one die; contexts of a tile. -/
def Config.tiles : Nat := 2048
def Config.contexts : Nat := 8

/-- R2, R35: bytes of one tile's local memory. -/
def Config.localBytes : Nat := 0x180000

/-- R2: memory servers, stacks, servers of one die. -/
def Config.servers : Nat := 3072
def Config.stackCount : Nat := 24

/-- R10: the package rating and the mark below which the clocks are raised again (R340), in watts. -/
def Config.rating : Nat := 3900
def Config.ratingLow : Nat := 3700

/-- R340: the highest and the lowest clock of a die, in MHz. -/
def Config.clockTop : Nat := 3600
def Config.clockFloor : Nat := 2800

/-- R219: entries of a range table, and R189, R224, R337: sizes of the tables. -/
def Config.rangeEntries : Nat := 1024
def Config.faultEntries : Nat := 16
def Config.seedEntries : Nat := 65536
def Config.logEntries : Nat := 4096

end Sys2Proof
end

