-- ==== Sys2Proof/Machine/State.lean ====
section
/-! DEFINITION. The state of the machine as plain data (R15 and the chapters on the hub, the servers and the port), the
reasons a step can stop, and the state right after a cold start. -/

namespace Sys2Proof.Machine

/-- Why the machine itself stops. No rule of the manual ends in a fault of the machine; the type has one reason for an
internal table that no reachable state lacks. -/
inductive Fault where
  /-- Raised by no step: a stop is either a trap (a next state) or a refusal. Safe. -/
  | unreachable
  deriving DecidableEq, Repr

/-- Why a step has no meaning. -/
inductive Refusal where
  /-- Raised by an arm of `exec` whose instruction has no meaning yet. Safe: the run ends there. -/
  | notModelled (mnemonic : String)
  deriving DecidableEq, Repr

/-- Sparse memory: bytes by location key, keys strictly rising, no zero byte listed (R336: cleared memory reads zero). -/
abbrev Memory := List Host.Cell

/-- R315, R316, R29: a trap as its rule forms it. `whole`: the pc saved is that of the next chain (`svc`, `brk`); `raw`: the value
of a misaligned trap is a stride and no address (R183). -/
structure Trap where
  cause  : Nat
  reason : Nat := 0
  opnd   : Nat := 0
  value  : Word := 0
  elem   : Nat := 0
  ref    : Nat := 0
  whole  : Bool := false
  raw    : Bool := false
  deriving DecidableEq, Repr

/-- R292, R117: a token of a channel or stream. `fault` is a faulted token (R177, R326), `gate` a gate token (R303). -/
inductive Tok where
  | scalar (w : Word)
  | vector (d : VReg)
  | eos
  | fault (t : Trap)
  | gate
  deriving DecidableEq, Repr

/-- R26: what a queue register is bound to. -/
inductive QKind where
  | chan | pool | port
  deriving DecidableEq, Repr

/-- R20, R106: one queue binding. The supervisor's q15 on the fault channel has `fault` set (R318). -/
structure QBind where
  kind  : QKind
  write : Bool
  id    : Nat
  fault : Bool := false
  deriving DecidableEq, Repr

/-- R26: kinds of stream. -/
inductive SKind where
  | chan | pattern | reply
  deriving DecidableEq, Repr

/-- R175 to R177, R324: the stream state of one of v24 to v31. -/
structure Stream where
  on    : Bool := false
  sink  : Bool := false
  kind  : SKind := .chan
  desc  : Word := 0
  pos   : Nat := 0
  block : BitVec 2048 := 0
  ahead : List Tok := []
  deriving DecidableEq, Repr

/-- R324: what a tag of a request channel holds; `waiting` is a request whose reply has not arrived. -/
inductive TagKind where
  | free | read | atomic | acked | held | waiting
  deriving DecidableEq, Repr

structure Tag where
  kind   : TagKind := .free
  cause  : Nat := 0
  reason : Nat := 0
  value  : Word := 0
  deriving DecidableEq, Repr

/-- R192: a request channel: the sequence count and eight tags. -/
structure Mq where
  seq  : Nat := 0
  tags : Vector Tag 8 := Vector.replicate 8 {}
  deriving DecidableEq, Repr

/-- R189: an entry of the copy-fault table: held by the copy or fill `key` while `live`, then holding its fault. -/
structure CopyFault where
  key    : Nat
  live   : Bool
  ctr    : Option Word
  cause  : Nat := 0
  reason : Nat := 0
  addr   : Word := 0
  desc   : Word := 0
  handle : Option Nat := none
  deriving DecidableEq, Repr

/-- R324: a near-bank reply token with the fault it may carry; a request counts its tokens when it is answered. -/
structure Reply where
  fault : Option Trap
  data  : VReg
  deriving DecidableEq, Repr

/-- R173, R297: kinds of wait. -/
inductive WaitKind where
  | read | write | engine
  deriving DecidableEq, Repr

/-- What the waiting chain waits on, with the fields of a deadlock record (R301) and, for a write-block, the channel
or pool (R299); `goal` is the value that a counter must reach, or the number of reply tokens that stand before the one waited
for; `tile` is where a wait on a counter began, and `ctrs` names the unmet counters whose copy faults it delivers (R189). DEDUCED: log entry 99. -/
structure Wait where
  kind : WaitKind
  code : Nat := 0
  opnd : Nat := 0
  ref  : Nat := 0
  val  : Word := 0
  goal : Word := 0
  pool : Bool := false
  tile : Nat := 0
  ctrs : List Word := []
  deriving DecidableEq, Repr

/-- R240: a completion record. -/
structure Record where
  status    : Nat
  level     : Nat
  index     : Nat
  nid       : Nat
  discarded : Nat
  members   : Nat
  wmark     : Word
  queue     : Nat
  fault     : List Word
  digest    : Option (List Byte) := none
  deriving DecidableEq, Repr

/-- R320: what the waiting chain has already issued and must not issue twice; `sent`: the requests of a `vstg` (R196);
`answer`: the record that the entry of a `ccget` or `dgget` came to (R239). -/
structure Issued where
  arrived : Option Nat := none
  got     : Option Tok := none
  asked   : Bool := false
  pool    : Nat := 0
  host    : Option Nat := none
  hostVal : List Byte := []
  fired   : Bool := false
  commit  : Option Nat := none
  started : Bool := false
  sent    : Bool := false
  answer  : Option Record := none
  deriving DecidableEq, Repr

/-- R28: tile and context that a process is placed in. -/
structure Place where
  x   : Nat
  y   : Nat
  ctx : Nat
  deriving DecidableEq, Repr

/-- R15: the context state, with the parts that hold data without being visible (R112, R177, R192, R324); `far` is a branch
target that lies outside the 24 bits of the pc, until its fetch faults (R54). -/
structure Ctx where
  pc       : BitVec 24 := 0
  far      : Option Word := none
  g        : Vector Word 32 := Vector.replicate 32 0
  v        : Vector VReg 32 := Vector.replicate 32 0
  p        : Vector PReg 8 := Vector.replicate 8 0
  q        : Vector (Option QBind) 16 := Vector.replicate 16 none
  fbuf     : List (Half × Bool) := []
  vl       : Nat := 0
  vtype    : BitVec 16 := 0
  vlmax    : Nat := 512
  keep     : Byte := 0
  stripset : Word := 0
  share    : BitVec 4 := 8
  cycle    : Word := 0
  retired  : Word := 0
  lapLen   : Nat := 0
  lapPos   : Nat := 0
  rngctl   : Word := 0
  rngKey   : BitVec 128 := 0
  rngId    : Word32 := 0
  fpflags  : BitVec 5 := 0
  fptrap   : BitVec 5 := 0
  tcause   : Byte := 0
  tpc      : Word := 0
  tval     : Word := 0
  tinfo    : Word := 0
  tvec     : Word := 0
  act      : Bool := false
  lvl      : BitVec 2 := 0
  tdeleg   : Word := 0x1FFFFFFE
  win      : Vector Word 4 := Vector.replicate 4 0
  part     : BitVec 4 := 0
  figs     : Vector (Option (BitVec 12)) 64 := Vector.replicate 64 none
  quota    : Word := 0
  replay   : Bool := false
  seedSeq  : Word32 := 0
  dgOn     : Bool := false
  dgDone   : Bool := false
  mOn      : Bool := false
  mN       : Nat := 0
  mAllow   : Nat := 0
  z        : Vector (BitVec 65536) 32 := Vector.replicate 32 0
  streams  : Vector Stream 8 := Vector.replicate 8 {}
  slide    : Option (BitVec 512) := none
  faults   : List CopyFault := []
  mq0      : Mq := {}
  mq1      : Mq := {}
  mq1Err   : Option Trap := none
  pending  : List (Nat × Nat) := []
  replies  : List Reply := []
  diag     : Vector Word 6 := Vector.replicate 6 0
  vBad     : Vector (BitVec 64) 32 := Vector.replicate 32 0
  pBad     : Vector (BitVec 16) 8 := Vector.replicate 8 0
  zBad     : Vector (BitVec 1024) 32 := Vector.replicate 32 0
  place    : Option Place := none
  nid      : Word32 := 0
  idx      : Half := 0
  issued   : Issued := {}
  deriving DecidableEq, Repr

/-- R260: where a process stands. `saving` is the stop that the save sequencer works on (R321). -/
inductive PState where
  | unplaced | unplacedBlocked | running | blocked | saving | swapped | parked | exited
  deriving DecidableEq, Repr

/-- R320, R323: the kind of point at which a context was stopped, as the save record codes it, and its keep mask. -/
structure StopPoint where
  kind : Nat
  keep : Byte
  deriving DecidableEq, Repr

/-- R245: what the image says of a process. -/
structure ProcDecl where
  entry  : Nat
  tenant : Bool
  sup    : Bool
  pinned : Bool
  allow  : Nat
  share  : Nat
  win    : List Word
  args   : List Word
  hkind  : Nat
  hint   : Nat
  lx     : Nat
  ly     : Nat
  lc     : Nat
  seg    : Nat
  segLen : List Nat
  deriving DecidableEq, Repr

/-- R248: a declared figure: process, number, micro-operation words. -/
structure FigDecl where
  proc  : Nat
  num   : Nat
  words : List Word
  deriving DecidableEq, Repr

/-- R246: an entry of the channel table. -/
structure ChanDecl where
  wproc   : Nat
  rproc   : Nat
  wend    : Nat
  rend    : Nat
  slots   : Nat
  vector  : Bool
  discard : Bool
  deriving DecidableEq, Repr

/-- R247: a pool, its members (process, q register, 1 read or 2 write). -/
structure PoolDecl where
  vector  : Bool
  slots   : Nat
  members : List (Nat × Nat × Nat)
  deriving DecidableEq, Repr

/-- R247: a declared residency. -/
structure ResDecl where
  bank    : Bool
  refresh : Bool
  pinned  : Bool
  owner   : Nat
  stack   : Nat
  bytes   : Nat
  source  : Word
  deriving DecidableEq, Repr

/-- R244: a network image that the loader has accepted; `tenant` registered it under `handle`. The bytes of the
process segments stand in `segs` (R245); `slots` are the contexts that pre-placing reserves (R256). -/
structure Image where
  handle  : Nat
  tenant  : Nat
  procs   : List ProcDecl
  chans   : List ChanDecl
  pools   : List PoolDecl
  bars    : List (Nat × Nat)
  resids  : List ResDecl
  digests : List (Word × Nat)
  figs    : List FigDecl
  lap     : Nat
  rtblk   : Nat
  spill   : Nat
  cost    : Nat
  segs    : List (List Byte)
  ready   : Bool := false
  slots   : List Place := []
  live    : Bool := true
  deriving DecidableEq, Repr

/-- A process of the package: which network's, its image entry, its state and its context (the selected process's
context is `Mach.ctx`). `req` is a pending pre-emption request (R320), `park` the address of a parked chain (R318); `away`: it
stands on the other package of a network that spans two (R314), `told` is what that package's hub has been told of it last, and
`ask` the trap with which the home hub has it park a process that is away. -/
structure Proc where
  net     : Nat
  index   : Nat
  decl    : ProcDecl
  st      : PState := .unplaced
  wait    : Option Wait := none
  ctx     : Ctx := {}
  started : Bool := false
  park    : Nat := 0
  record  : Option (List Word) := none
  req     : Bool := false
  stop    : Option StopPoint := none
  held    : Bool := false
  gated   : Bool := false
  cancel  : Bool := false
  order   : Nat := 0
  saved   : Option (Nat × Nat) := none
  parts   : Option Nat := none
  away    : Bool := false
  told    : List Byte := []
  ask     : Option Trap := none
  deriving DecidableEq, Repr

/-- R292: a channel: slots, base slots, free slots at the writer, tokens in flight, tokens held, slot returns in flight,
counts of the Snowplough (R298), the check (R227), exit and close marks, gate marks (R304), the span link that it is routed
over, if any (R314), with the tokens in flight that have gone into its flits, `far`: its tokens held have gone to the other package;
how many of the tokens held, from the oldest on, stand in the buffer of the reader's tile, the others in spill (R294); a re-binding under way (R295). -/
structure Chan where
  decl     : ChanDecl
  slots    : Nat
  free     : Nat
  flight   : List Tok := []
  buf      : List Tok := []
  returns  : Nat := 0
  pushes   : Nat := 0
  arrivals : Nat := 0
  check    : Word := 0x6A3D91C527E840BB
  wExited  : Bool := false
  rExited  : Bool := false
  closed   : Bool := false
  gated    : Bool := false
  grown    : Nat := 0
  span     : Option Nat := none
  sent     : Nat := 0
  inTile   : Nat := 0
  rebind   : Bool := false
  far      : Bool := false
  deriving DecidableEq, Repr

/-- R205: a put or a request of a pool, with its lap and its process's order key. -/
structure PoolPut where
  proc : Nat
  key  : Nat
  lap  : Nat
  tok  : Tok
  deriving DecidableEq, Repr

structure PoolGet where
  proc : Nat
  key  : Nat
  lap  : Nat
  deriving DecidableEq, Repr

structure Pool where
  decl   : PoolDecl
  slots  : Nat
  toks   : List Tok := []
  puts   : List PoolPut := []
  gets   : List PoolGet := []
  closed : Nat := 0
  check  : Word := 0x6A3D91C527E840BB
  lent   : List Nat := []
  deriving DecidableEq, Repr

/-- R202, R203: a barrier: count, generation, arrivals, participants of the generation, the `sstep` mark, a generation
complete in arrivals that waits for its condition, and arrivals in flight (process, `sstep`). -/
structure Barrier where
  id     : Nat
  count  : Nat
  gen    : Nat := 0
  here   : List Nat := []
  sstep  : Bool := false
  due    : Bool := false
  flight : List (Nat × Bool) := []
  deriving DecidableEq, Repr

/-- R298: the sweep in progress: what the first pass read of each channel. -/
inductive Sweep where
  | idle
  | first (counts : List (Nat × Nat))
  deriving DecidableEq, Repr

/-- R254, R257: a watermark edge that enters a network. -/
structure Mark where
  producer : Nat
  ctr      : Word
  deriving DecidableEq, Repr

/-- R314: what a hub has told the other of a network that spans both: that it is open, in a cut, at its end; the processes held at a
cut; the arrivals sent to the root, by barrier and process; the arrivals counted, by process, barrier and generation; barriers with
their generations, channels with their slots and with their checks. -/
structure Told where
  opened  : Bool := false
  cut     : Bool := false
  final   : Bool := false
  held    : List Nat := []
  arrived : List (Nat × Nat) := []
  counted : List (Nat × Nat × Nat) := []
  gens    : List (Nat × Nat) := []
  slots   : List (Nat × Nat) := []
  checks  : List (Nat × Word) := []
  deriving DecidableEq, Repr

/-- A network that has been launched (R238 to R256). `grow`: granules of the growth pool (R296); `faultBuf`, `faultQ`: the
fault channel (R318); `faults`: the last record received of each process, `fatal`: one of them ends the network (R241);
`outMark`: the counter of a watermark edge that leaves it; `spill`: the rows of the spill region (R296), by stack. Of one that spans two
packages (R314): `guest`: its home is the other hub; `heard`: how far the sweep's passes have gone there (first asked for, answered,
second asked for, answered, refused: 1 to 5); `told`. -/
structure Net where
  nid      : Nat
  index    : Nat
  tenant   : Nat
  image    : Nat
  queue    : Nat
  graph    : Nat
  live     : Bool := true
  started  : Bool := false
  resumed  : Bool := false
  procs    : List Nat
  chans    : List Chan
  pools    : List Pool
  bars     : List Barrier
  lap      : Nat
  grow     : Nat
  replay   : Option Nat := none
  discard  : Nat := 0
  active   : Bool := true
  sweep    : Sweep := .idle
  dead     : Bool := false
  cut      : Option Word := none
  cancel   : Bool := false
  marks    : List Mark := []
  outMark  : Option Word := none
  faultBuf : List Word := []
  faultQ   : List (Nat × List Word) := []
  faults   : List (Nat × List Word) := []
  fatal    : Bool := false
  declared : List Nat := []
  depCut   : Bool := false
  digests  : List (Bool × Bool) := []
  spill    : List (Nat × Nat × Nat) := []
  guest    : Bool := false
  heard    : Nat := 0
  told     : Told := {}
  deriving DecidableEq, Repr

/-- R239: an entry of a tenant's level table: `parent` is the index one level up, `left` the completion counter;
`statuses`, `discarded` and `fault` gather what its final members held (R240, R241), `queue` goes into its record. -/
structure Entry where
  tenant    : Nat
  level     : Nat
  index     : Nat
  parent    : Nat
  queue     : Nat
  live      : Bool := true
  cancel    : Bool := false
  closed    : Bool := false
  members   : Nat := 0
  left      : Nat := 0
  statuses  : List Nat := []
  discarded : Nat := 0
  fault     : List Word := []
  record    : Option Record := none
  deriving DecidableEq, Repr

/-- R254: a submission: in queue SRAM, or in the overflow region of its tenant (`aside`), until `home` is the network that it was
dispatched as; `ended` is the status of its final network. -/
structure Sub where
  tenant : Nat
  queue  : Nat
  net    : SubmitNet
  args   : List (List Word)
  home   : Option Nat := none
  ended  : Option Nat := none
  aside  : Bool := false
  deriving DecidableEq, Repr

/-- R254: an edge between two submissions, by position. -/
structure Dep where
  src  : Nat
  dst  : Nat
  kind : EdgeKind
  ctr  : Word
  base : Word
  deriving DecidableEq, Repr

/-- R218: an entry of a range table. -/
structure RangeEntry where
  vbase   : Nat := 0
  vlimit  : Nat := 0
  pbase   : Nat := 0
  mode    : Nat := 0
  die     : Nat := 0
  rd      : Bool := false
  w       : Bool := false
  host    : Bool := false
  counter : Bool := false
  watched : Bool := false
  valid   : Bool := false
  deriving DecidableEq, Repr

/-- R30, R338: a tenant's job: what it owns, its quotas, its range tables and their generation (R218 to R221), its
host window, the bytes of its save pool, a switch that a commit has asked for (R281), launches by
index (R242), whether the job has ended and its rows are still to be cleared, and the network that last completed at an index with an image (R224). -/
structure Tenant where
  id      : Nat
  tiles   : List Nat := []
  stackNos  : List Nat := []
  queues  : List Nat := []
  arr     : Nat := 0
  bank    : List (Nat × Nat) := []
  rows    : List Nat := []
  active  : List (Nat × RangeEntry) := []
  staged  : List (Nat × RangeEntry) := []
  gen     : Nat := 0
  switch  : Option (List (Nat × RangeEntry)) := none
  window  : Nat × Nat := (0, 0)
  pool    : Nat := 0
  gone    : Bool := false
  launches : List (Nat × Nat) := []
  ended    : List (Nat × Nat × Nat) := []
  deriving DecidableEq, Repr

/-- R172: states of a residency. -/
inductive ResState where
  | empty | loading | ready | evicted | stale | revoked
  deriving DecidableEq, Repr

/-- R33, R157 to R172: a residency: kind, tile or stack, slot or region, generation, owner, policy, pin, recorded
source, size in MiB, load generation, the fill in progress with the source it reads (`load`), the process that issued it
(`filler`) and its counter, the counters of abandoned fills with their issuers, a mark that fell while loading, reloading,
the slot given up at a swap, and the rows of a bank residency in MiB of its stack, each interval with its end. -/
structure Resid where
  bank    : Bool
  handle  : Nat
  spot    : Nat
  slot    : Nat
  gen     : Nat
  owner   : Nat
  tenant  : Nat
  state   : ResState := .empty
  refresh : Bool := false
  pinned  : Bool := false
  source  : Word := 0
  global  : Bool := false
  mib     : Nat := 0
  loads   : Nat := 0
  fill    : Option Nat := none
  load    : Word := 0
  filler  : Nat := 0
  fillCtr : Option Word := none
  lost    : List (Nat × Word) := []
  marked  : Bool := false
  reload  : Bool := false
  noSlot  : Bool := false
  rows    : List (Nat × Nat) := []
  deriving DecidableEq, Repr

/-- R182, R187: a copy in progress: the issuing process, its descriptor, the next element with the bytes read of it (`got`) and the
number of them written (`put`), its counter. -/
structure Copy where
  key  : Nat
  proc : Nat
  tile : Nat
  kind : Nat
  desc : BitVec 2048
  off  : Word
  next : Nat := 0
  got  : List Byte := []
  put  : Nat := 0
  ctr  : Word
  list : List Word32 := []
  deriving DecidableEq, Repr

/-- R271 to R275, R343: stages of a request to a memory server. -/
inductive Stage where
  | issued | gateway | accepted | merging | answered
  deriving DecidableEq, Repr

/-- What a request does at its home; `nibble` replaces one nibble of a byte (R143). -/
inductive ReqOp where
  | read (n : Nat) (buf : Nat)
  | write (bytes : List Byte)
  | masked (bytes : List (Option Byte))
  | nibble (high : Bool) (b : Byte)
  | atomic (op : Nat) (v : Word) (v2 : Word)
  deriving DecidableEq, Repr

/-- A request of a context to a memory server or to the host bridge: channel 0 or 1, its tag, or none for the scalar
and vector stores of mq1 (R100, R196); the location key it goes to, the generic address that names it, how many of its
bytes the server has performed (R275), and how many bytes of its reply stand in the buffer (R193). -/
structure Req where
  key   : Nat
  proc  : Nat
  chan  : Nat
  tag   : Option Nat
  op    : ReqOp
  loc   : Nat
  addr  : Word
  host  : Bool
  gen   : Nat
  stage : Stage := .issued
  done  : Nat := 0
  value : Nat := 0
  laid  : Nat := 0
  fault : Option (Nat × Nat) := none
  deriving DecidableEq, Repr

/-- R270, R147: a store that is on its way to a tile; `group`: the chain that made it, by the key of its first store; `half`: only the
low or the high nibble of its byte (R143). -/
structure TileReq where
  key   : Nat
  proc  : Nat
  loc   : Nat
  bytes : List Byte
  group : Nat := 0
  half  : Option Bool := none
  deriving DecidableEq, Repr

/-- R166, R167: a near-bank request on its way to the gate, or answered there with its reply tokens. -/
structure NearReq where
  key    : Nat
  proc   : Nat
  handle : Nat
  panel  : Nat
  fmt    : Nat
  xs     : List (Option Nat)
  reply  : Option (List Reply) := none
  deriving DecidableEq, Repr

/-- R261, R262, R264: a vector or matrix chain behind the front end: its cost, and the registers that it reads and writes (v0 to
v31, then z0 to z31). -/
structure VecJob where
  matrix : Bool
  cost   : Nat
  reads  : List Nat := []
  writes : List Nat := []
  deriving DecidableEq, Repr

/-- R262: the lane-group arbiter of a tile: deficits, lane-group cycles bound so far, what they were when each context's
head became ready (none while it is not), the pointer, the vector queue of each context (R261), the context and the chain that
each lane group works on with the cycles left; and R264: the same for the matrix array, and the context last served. -/
structure Arbiter where
  d      : Vector Nat 8 := Vector.replicate 8 0
  total  : Vector Nat 8 := Vector.replicate 8 0
  atHead : Vector (Option (Vector Nat 8)) 8 := Vector.replicate 8 none
  ptr    : Nat := 0
  queues : Vector (List VecJob) 8 := Vector.replicate 8 []
  groups : Vector (Option (Nat × VecJob × Nat)) 4 := Vector.replicate 4 none
  array  : Option (Nat × VecJob × Nat) := none
  served : Nat := 7
  deriving DecidableEq, Repr

/-- R339, R262, R264, R230: what a tile holds beside its memories. -/
structure Tile where
  id      : Nat
  zeroing : Bool := false
  arb     : Arbiter := {}
  ctr     : Vector Word 5 := Vector.replicate 5 0
  deriving DecidableEq, Repr

/-- R274 to R277, R230: a memory server's age cap and counters. -/
structure Server where
  id  : Nat
  cap : Nat := 2048
  ctr : Vector Word 8 := Vector.replicate 8 0
  deriving DecidableEq, Repr

/-- R224, R326: an entry of the seed log, which may be poisoned. -/
structure Seed where
  tenant : Nat
  nid    : Nat
  proc   : Nat
  seq    : Nat
  s      : BitVec 128
  bad    : Bool := false
  deriving DecidableEq, Repr

/-- R330: messages that the hub sends to the host. -/
inductive OutBody where
  | answer (seq code detail : Nat)
  | data (seq : Nat) (bytes : List Byte)
  | completion (r : Record)
  | event (code : Nat)
  | teardown
  | ack (seq : Nat)
  deriving DecidableEq, Repr

/-- `tenant`: an event goes to that tenant's management queues as well (R338). -/
structure OutMsg where
  mgmt   : Bool
  queue  : Nat
  tenant : Option Nat := none
  body   : OutBody
  deriving DecidableEq, Repr

/-- R307, R240: what the hub keeps of a cut network beside each snapshot, which it knows by its bytes: the tenant, tokens discarded so far,
channels closed, handles of declared residencies, digest marks of exited processes, what each process's waiting chain
had issued, the processes that had not begun, the `sstep` marks and arrivals of its barriers by process index, the diagnostic
counters of each context (R230), and the source of a replay (R224). DESIGN CHOICE: log entry 63. -/
structure Carry where
  tenant   : Nat
  nid      : Nat
  snap     : List Byte
  discard  : Nat
  closed   : List Nat
  declared : List Nat
  digests  : List (Bool × Bool)
  issued   : List Issued
  fresh    : List Nat
  bars     : List (Bool × List Nat)
  diag     : List (Vector Word 6) := []
  replay   : Option Nat := none
  deriving DecidableEq, Repr

/-- R325, R326: where a soft error lies: a word of a memory by its location key, a 64-bit word of a process's vector
register, predicate or accumulator tile, a token that stands in a channel, an entry of the seed log, a mesh or bridge flit of a die
(R340), which is retried. -/
inductive SoftSpot where
  | word (key : Nat)
  | vreg (proc reg word : Nat)
  | preg (proc reg word : Nat)
  | acc (proc tile word : Nat)
  | token (net chan i : Nat)
  | seed (i : Nat)
  | flit (die : Nat)
  deriving DecidableEq, Repr

/-- The turns of the schedule: a process runs a chain, or an agent, the hub or the host takes the step of a row; a soft
error is found (R325, R276), the host writes its own memory (R282, R283), the path to the host fails or comes back
(R282), a frame comes in at the host port (R328, R329), a process moves to the other package or its hub sends it on (R314), or a
flit is made on a span link for a channel, a bulk transfer or what one hub tells the other of a network, or a snapshot goes into a
bulk transfer (R310, R311, R314). -/
inductive Turn where
  | proc (k : Nat)
  | event (i : Instr)
  | soft (w : SoftSpot) (corrected : Bool)
  | hostStore (a : Nat) (bytes : List Byte)
  | hostPath (up : Bool)
  | frame (bytes : List Byte)
  | moveAway (proc : Nat)
  | spanToken (net chan : Nat)
  | spanReturn (net chan : Nat)
  | spanBulk (link : Nat)
  | spanControl (net : Nat)
  | spanSnapshot (tenant : Nat) (addr : Word)
  deriving DecidableEq, Repr

/-- Everything but the host port: what chain instructions and the agents of the package act on; `hostUp`: the host
answers the bridge (R282). -/
structure Mach where
  ctx      : Ctx := {}
  cur      : Option Nat := none
  procs    : List Proc := []
  nets     : List Net := []
  images   : List Image := []
  tenants  : List Tenant := []
  entries  : List Entry := []
  subs     : List Sub := []
  deps     : List Dep := []
  mem      : Memory := []
  bad      : List Nat := []
  tiles    : List Tile := []
  servers  : List Server := []
  rowUses  : Nat := 0
  resids   : List Resid := []
  gens     : List (Nat × Nat) := []
  marks    : List (Nat × Nat) := []
  carries  : List Carry := []
  copies   : List Copy := []
  reqs     : List Req := []
  tileReqs : List TileReq := []
  nears    : List NearReq := []
  seeds    : List Seed := []
  outbox   : List OutMsg := []
  hostUp   : Bool := true
  fresh    : Nat := 0
  tick     : Nat := 0
  deriving DecidableEq, Repr

/-- R330: what a message of the host asks for; `malformed` is one whose payload breaks the form of its type (R332), with the class of
queue that the type belongs to (0 work, 1 management, 2 management queue 0). DESIGN CHOICE: log entry 101. -/
inductive Msg where
  | submitNetwork (m : SubmitNet)
  | submitGraph (graph phase : Nat) (nets : List SubmitNet) (edges : List Edge)
  | openPhase (phase : Nat)
  | closePhase (phase : Nat)
  | sqpCancel (level index : Nat)
  | teardownQueue
  | resetQueue
  | registerImage (addr : Word) (len : Nat)
  | prePlaceImage (handle : Nat)
  | releaseImage (handle : Nat)
  | sqpCut (index : Nat) (addr : Word)
  | resumeSnapshot (snap : Word) (index : Nat) (place : List Hint)
  | openQueue (mgmt : Bool) (queue pub : Nat)
  | closeQueue (mgmt : Bool) (queue : Nat)
  | jobStart (j : JobDecl)
  | jobEnd (tenant : Nat)
  | rangeRegion (tenant : Nat) (base : Word) (len : Nat) (rd w : Bool)
  | hostWindow (tenant base len : Nat)
  | setAgeCap (server cap : Nat)
  | setHostPathTimeout (ns : Nat)
  | readErrorLog
  | clearErrorLog
  | readCounters (domain spot num : Nat)
  | releaseSeedLog (nid : Nat)
  | readCertificateChain
  | attest (nonce : BitVec 512)
  | firmwareChunk (bytes : List Byte)
  | setSqpUdpPort (port : Nat)
  | malformed (level : Nat)
  deriving DecidableEq, Repr

/-- R266, R330: what a queue becomes behind its teardown. -/
inductive Ending where
  | torn | reopen | close
  deriving DecidableEq, Repr

/-- R329 to R331: one SQP queue: whether it is open, being torn down (and to what end) or torn down, the next seq
of each direction, messages held ahead of their turn, the numbers of acknowledgements that have come ahead of theirs, messages sent
and not acknowledged, the retransmission interval in microseconds, the acknowledgements sent, the public values and the secret of its key exchange, key and key epoch (of management
queue 0 without a key exchange, the number that names the start whose key it has). -/
structure SqpQueue where
  mgmt     : Bool
  queue    : Nat
  tenant   : Nat
  isOpen   : Bool := true
  tearing  : Bool := false
  ending   : Ending := .torn
  torn     : Bool := false
  nextIn   : Nat := 0
  held     : List (Sqp × Msg) := []
  skip     : List Nat := []
  nextOut  : Nat := 0
  unacked  : List (Nat × OutMsg) := []
  past     : List (Nat × OutMsg) := []
  interval : Nat := 100
  acks     : List Nat := []
  pub      : Nat := 0
  hub      : Nat := 0
  key      : BitVec 256 := 0
  epoch    : Nat := 0
  deriving DecidableEq, Repr

/-- R333: a registered RDMA region. -/
structure Region where
  rkey   : Nat
  tenant : Nat
  base   : Word
  len    : Nat
  rd     : Bool
  w      : Bool
  live   : Bool := true
  deriving DecidableEq, Repr

/-- R337: an entry of the error log. -/
structure LogEntry where
  starts : Nat
  source : Nat
  code   : Nat
  spot   : Nat
  detail : Nat
  place  : Nat
  deriving DecidableEq, Repr

/-- R311, R312: what an end of a span link sends beside data: a negative acknowledgement, a repair request, a grant. -/
inductive LinkOut where
  | nak (seq : Nat)
  | request (lane : Nat)
  | grant (bound : Nat)
  deriving DecidableEq, Repr

/-- R310 to R313: one end of a span link. As sender: its next seq, the replay buffer, what it sends once more, flits held
from the boundary of the granted repair `grant` on (lane, T), the lane that the spare replaces. As receiver: the next seq
expected, whether a negative acknowledgement has gone out, the flits passed on, the flits that have arrived, the numbers of those in
which each lane erred, the repair it has asked for `asked` (lane, T once granted), errors since, the lane that the spare
replaces, the parts of a token whose last flit is still to come, the bytes that the bulk class has brought and has still to carry. As
a whole: up, on half its lanes and on which half (0: lanes 0 to 3), draining to retrain, retrainings that failed, control flits sent. -/
structure Link where
  up       : Bool := true
  half     : Bool := false
  sound    : Nat := 0
  drain    : Bool := false
  tries    : Nat := 0
  nextOut  : Nat := 0
  replay   : List Flit := []
  resend   : List Nat := []
  held     : List Flit := []
  grant    : Option (Nat × Nat) := none
  spareOut : Option Nat := none
  expect   : Nat := 0
  nakSent  : Bool := false
  passed   : List Flit := []
  flits    : Nat := 0
  errs     : Vector (List Nat) 9 := Vector.replicate 9 []
  asked    : Option (Nat × Option Nat) := none
  late     : Nat := 0
  spareIn  : Option Nat := none
  parts    : List Byte := []
  bulk     : List Byte := []
  bulkOut  : List Byte := []
  out      : List LinkOut := []
  deriving DecidableEq, Repr

/-- R336: the stored parameters of a stack, a span link or the host link: firmware version and temperature at training, in °C. -/
structure Trained where
  unit    : Nat
  version : Nat
  celsius : Int
  deriving DecidableEq, Repr

/-- R336, R337: how the last start stands: complete, failed at a step, or holding at step 5 (cold or warm, with what its
other steps have found). -/
inductive StartState where
  | ready
  | failed (step : Nat)
  | holding (cold : Bool) (f : StartFinds)
  deriving DecidableEq, Repr

/-- R333: replies of the bulk-data port: an acknowledgement, read data, or a NAK. -/
inductive Rdma where
  | ack (qp : Nat)
  | data (qp : Nat) (bytes : List Byte)
  | nakInvalid (qp : Nat)
  | nakAccess (qp : Nat)
  | nakOperation (qp : Nat) (bytes : List Byte)
  deriving DecidableEq, Repr

/-- R340: one die: clock in MHz, voltage step, soft-error counts (SRAM words corrected and poisoned, DRAM words corrected
and poisoned of its three stacks, flits retried), the sample times of its uncorrectable errors, clock steps that the power
limit has taken off, relocking. -/
structure Die where
  clock : Nat := 3600
  volts : Nat := 0
  soft  : Vector Nat 9 := Vector.replicate 9 0
  errs  : List Nat := []
  capped : Nat := 0
  relock : Bool := false
  deriving DecidableEq, Repr

/-- R334: firmware of the device: image body, version, rollback value, blown fuses, staged chunks, recovery mark. -/
structure Firmware where
  body     : List Byte := []
  version  : Nat := 0
  rollback : Nat := 0
  fuses    : Nat := 0
  staged   : List Byte := []
  flash    : Option (List Byte) := none
  recovery : Bool := false
  deriving DecidableEq, Repr

/-- The host port and what the hub keeps for the package (R328 to R340); `paused`: the priorities that the other end of the port has
paused (R328), `frames`: ICMPv6 answers, `sent`: the SQP datagrams that
have gone out, `trained`: the stored parameters of stacks (0 to 23), span
links (24 to 35) and the host link (36). -/
structure Port where
  udpPort   : Nat := 24712
  paused    : List Nat := []
  dropped   : Nat := 0
  queues    : List SqpQueue := [{ mgmt := true, queue := 0, tenant := 0 }]
  regions   : List Region := []
  rdma      : List Rdma := []
  frames    : List (List Byte) := []
  sent      : List (List Byte) := []
  firmware  : Firmware := {}
  start     : StartState := .ready
  lastCold  : Bool := true
  starts    : Nat := 1
  log       : List LogEntry := []
  links     : Vector Link 12 := Vector.replicate 12 {}
  dies      : Vector Die 8 := Vector.replicate 8 {}
  sample    : Nat := 0
  watts     : List Nat := []
  sinceStep : Nat := 0
  lowFor    : Nat := 0
  timeout   : Nat := 2000000
  trained   : List Trained := (List.range 37).map fun u => { unit := u, version := 0, celsius := 25 }
  deriving DecidableEq, Repr

/-- The whole state: the package, the port, and the schedule. -/
structure State extends Mach where
  port  : Port := {}
  turns : List Turn := []
  deriving DecidableEq, Repr

/-- R336, R338, R340: the machine after its first cold start, with no tenant and no process. DESIGN CHOICE: log entries 1, 3, 4, 124. -/
def State.reset : State := {}

end Sys2Proof.Machine
end

