-- ==== Sys2Proof/Machine/Memory.lean ====
section
/-! DEFINITION. Bits and bytes, and sparse memory: one canonical list of cells for every home of a byte (R35, R273,
R282, R34, R157), reached by location keys. -/

namespace Sys2Proof.Machine

/-! Bits and bytes. -/

/-- Bits lo up to lo + n - 1 of a number. -/
def bitsAt (x lo n : Nat) : Nat := x / 2 ^ lo % 2 ^ n

/-- R11: a number from bytes, lowest first, and back. -/
def natOfBytes : List Byte → Nat
  | [] => 0
  | b :: r => b.toNat + 256 * natOfBytes r

/-- A little-endian field of n bytes. -/
def field (b : List Byte) (o n : Nat) : Nat := natOfBytes ((b.drop o).take n)

def bytesOfNat : Nat → Nat → List Byte
  | 0, _ => []
  | n + 1, x => BitVec.ofNat 8 x :: bytesOfNat n (x / 256)

/-- Bytes with zeros up to a length. -/
def padTo (n : Nat) (l : List Byte) : List Byte := l ++ List.replicate (n - l.length) 0

/-- Sign extension of an n-bit pattern to a doubleword. -/
def sext (n x : Nat) : Word := BitVec.ofInt 64 (signed n (x % 2 ^ n))

/-- A 64-bit pattern from an integer (R12: two's complement). -/
def wordOfInt (i : Int) : Word := BitVec.ofInt 64 i

/-- First index below n at which a test holds. -/
def firstBelow (n : Nat) (f : Nat → Bool) : Option Nat := (List.range n).find? f

/-- Does a test hold at every index below n. -/
def allBelow (n : Nat) (f : Nat → Bool) : Bool := (List.range n).all f

/-- A list with the element at an index changed. -/
def listSet {α : Type} (l : List α) (k : Nat) (f : α → α) : List α := l.modify k f

/-- Insertion by a key, before the first larger one; equal keys keep their order. -/
def insertBy {α : Type} (key : α → Nat) (a : α) : List α → List α
  | [] => [a]
  | b :: r => if key a < key b then a :: b :: r else b :: insertBy key a r

def sortBy {α : Type} (key : α → Nat) (l : List α) : List α := l.foldl (fun acc a => insertBy key a acc) []

/-- Cut into pieces of n; the first argument bounds the pieces. -/
def pieces {α : Type} : Nat → Nat → List α → List (List α)
  | 0, _, _ => []
  | k + 1, n, l => if l.isEmpty then [] else l.take n :: pieces k n (l.drop n)

/-- R223, R227: rotation of an n-bit number to the left. -/
def rotl (n x k : Nat) : Nat := (x * 2 ^ k + x % 2 ^ n / 2 ^ (n - k)) % 2 ^ n

/-- Number of one bits below bit n. -/
def popCount : Nat → Nat → Nat
  | 0, _ => 0
  | n + 1, x => x % 2 + popCount n (x / 2)

/-- Number of bits of the binary form of x: 0 for 0. -/
def bitLen (x : Nat) : Nat := if x = 0 then 0 else Nat.log2 x + 1

/-! Memory. -/

def Mem.get : Memory → Nat → Byte
  | [], _ => 0
  | (k, b) :: r, a => if a < k then 0 else if k = a then b else Mem.get r a

/-- A cell before the rest, unless it reads as an unlisted one does. -/
def Mem.cons (a : Nat) (b : Byte) (r : Memory) : Memory := if b = 0 then r else (a, b) :: r

def Mem.set : Memory → Nat → Byte → Memory
  | [], a, b => Mem.cons a b []
  | (k, c) :: r, a, b =>
    if a < k then Mem.cons a b ((k, c) :: r)
    else if k = a then Mem.cons a b r
    else (k, c) :: Mem.set r a b

/-- R11: n bytes from a location on, as a little-endian number. -/
def Mem.nat (m : Memory) (a : Nat) : Nat → Nat
  | 0 => 0
  | n + 1 => (Mem.get m a).toNat + 256 * Mem.nat m (a + 1) n

def Mem.bytes (m : Memory) (a n : Nat) : List Byte := (List.range n).map fun i => Mem.get m (a + i)

def Mem.write (m : Memory) (a : Nat) : List Byte → Memory
  | [] => m
  | b :: r => Mem.write (Mem.set m a b) (a + 1) r

/-- A masked write (R193): bytes with none keep what is there. -/
def Mem.mask (m : Memory) (a : Nat) : List (Option Byte) → Memory
  | [] => m
  | none :: r => Mem.mask m (a + 1) r
  | some b :: r => Mem.mask (Mem.set m a b) (a + 1) r

/-- R339: zeroing of n bytes. -/
def Mem.clear (m : Memory) (a n : Nat) : Memory := m.filter fun c => c.1 < a || a + n ≤ c.1

/-- Keys strictly rising from a bound, no zero byte listed. -/
def Mem.wfFrom : Nat → Memory → Bool
  | _, [] => true
  | lo, (k, b) :: r => lo ≤ k && b != 0 && Mem.wfFrom (k + 1) r

/-- The canonical form. -/
def Memory.wf (m : Memory) : Bool := Mem.wfFrom 0 m

/-! Location keys: one number for every byte that has a home. Two addresses denote one location exactly when they
have one key (R284). -/

/-- R2, R273: a byte of a memory server. -/
def Key.server (s a : Nat) : Nat := s * 2 ^ 30 + a

/-- A tile by its number y × 64 + x, and a byte of its local memory (R35) or of its control page (R37). -/
def tileNo (x y : Nat) : Nat := y * 64 + x
def Key.tile (t off : Nat) : Nat := 2 ^ 50 + t * 2 ^ 24 + off
def tileOfKey (key : Nat) : Nat := (key - 2 ^ 50) / 2 ^ 24

/-- R37: offsets of the control page, and the location of one. -/
def isControl (off : Nat) : Bool := 0x800000 ≤ off && off < 0x810000
def Key.control (k : Nat) : Bool := 2 ^ 50 ≤ k && k < 2 ^ 52 && isControl (k % 2 ^ 24)

/-- R157: a byte of an array residency slot; R34: a byte of the figure store. -/
def Key.slot (t slot b : Nat) : Nat := 2 ^ 52 + t * 2 ^ 24 + slot * 32768 + b
def Key.figure (t word b : Nat) : Nat := 2 ^ 53 + t * 2 ^ 16 + word * 8 + b

/-- R321: a byte of a save record in a tenant's save pool, by record number. -/
def Key.save (n b : Nat) : Nat := 2 ^ 54 + n * 2 ^ 24 + b

/-- R157: a byte of a bank residency's rows, by stack and region. -/
def Key.region (stack region b : Nat) : Nat := 2 ^ 60 + (stack * 1024 + region) * 2 ^ 38 + b

/-- R282: a byte of host memory. -/
def Key.host (a : Nat) : Nat := 2 ^ 64 + a

/-- R3: the die of a tile. -/
def dieOf (t : Nat) : Nat := t % 64 / 16 + 4 * (t / 64 / 16)

/-- R325, R276: the base of the protected word that a location lies in. -/
def unitOf (k : Nat) : Nat :=
  if k < 2 ^ 50 then k / 32 * 32 else if k < 2 ^ 60 then k / 8 * 8 else if k < 2 ^ 64 then k / 32 * 32 else k

/-- The protected words that n bytes from a location touch. -/
def unitsOf (k n : Nat) : List Nat := ((List.range n).map fun i => unitOf (k + i)).eraseDups

/-- R325: the first location of n bytes that lies in a poisoned word. -/
def Mach.poisonAt (s : Mach) (k n : Nat) : Option Nat :=
  if s.bad.isEmpty then none else (List.range n).find? fun i => s.bad.contains (unitOf (k + i))

def Mach.poisoned (s : Mach) (k n : Nat) : Bool := (s.poisonAt k n).isSome

/-- R276: poisoned words that n bytes from a location touch. -/
def Mach.badCount (s : Mach) (k n : Nat) : Nat := (unitsOf k n).countP s.bad.contains

/-- R326, R195: a write that covers a protected word clears its poison. -/
def Mach.cleanse (s : Mach) (k n : Nat) : Mach :=
  if s.bad.isEmpty then s else { s with bad := s.bad.filter fun u =>
    !(k ≤ u && (if u < 2 ^ 50 then u + 32 else if u < 2 ^ 60 then u + 8 else if u < 2 ^ 64 then u + 32 else u + 1) ≤ k + n) }

/-- Bytes written to a location, clearing the poison of whole words. -/
def Mach.put (s : Mach) (k : Nat) (bs : List Byte) : Mach :=
  { s.cleanse k bs.length with mem := Mem.write s.mem k bs }

def Mach.putNat (s : Mach) (k n x : Nat) : Mach := s.put k (bytesOfNat n x)

/-- R143: a byte with one nibble of another. -/
def nibbleMerge (high : Bool) (b old : Byte) : Byte := if high then (b &&& 0xF0) ||| (old &&& 0x0F) else (b &&& 0x0F) ||| (old &&& 0xF0)

/-- R143: bytes stored at a tile, or one nibble of a byte. -/
def Mach.storeAt (s : Mach) (key : Nat) (bs : List Byte) (half : Option Bool) : Mach := match half with
  | none => s.put key bs
  | some high => s.put key (bs.map fun b => nibbleMerge high b (Mem.get s.mem key))

/-- R325: an uncorrectable error found in a word. -/
def Mach.poison (s : Mach) (k : Nat) : Mach :=
  if s.bad.contains (unitOf k) then s else { s with bad := insertBy id (unitOf k) s.bad }

end Sys2Proof.Machine
end

