-- ==== Sys2Proof/Machine/Ops.lean ====
section
/-! DEFINITION. The named operations over registers, processes and the fetch buffer; the end of a chain (R22, R54, R112);
taking a trap, locally (R211) and remotely (R318, R319), as one operation; and the return from a local handler (R212). -/

namespace Sys2Proof.Machine

/-- Why a chain does not retire: a trap (the chain has no effect, R317), a trap whose delivery clears the entry that held
the error (R189, R194 to R196), a wait (R173, with what the waiting chain has
issued). -/
inductive Stop where
  | trap (t : Trap)
  | trapIn (t : Trap) (m : Mach)
  | wait (w : Wait) (m : Mach)
  deriving DecidableEq, Repr

abbrev Try (α : Type) := Except Stop α

/-- A chain that retires: the machine with its effects, a branch target, whether the fetch buffer is discarded. -/
structure Done where
  m      : Mach
  target : Option Nat := none
  flush  : Bool := false
  deriving DecidableEq, Repr

/-- DESIGN CHOICE: log entry 12. DEDUCED: log entry 19. -/
def raise {α : Type} (t : Trap) : Try α := .error (.trap t)
def await {α : Type} (w : Wait) (m : Mach) : Try α := .error (.wait w m)

/-- R50, R51: the illegal-instruction trap with a reason and a value, and an operand code where the entry names one. -/
def illegal {α : Type} (reason : Nat) (value : Word) (opnd : Nat := 0) : Try α :=
  raise { cause := 0x01, reason := reason, value := value, opnd := opnd }

/-- R173: an engine wait. -/
def engineWait {α : Type} (m : Mach) : Try α := await { kind := .engine } m

/-! Scalar registers (R16) and predicates (R19). -/

def Ctx.gr (c : Ctx) (n : Nat) : Word := if n = 0 then 0 else c.g[n]?.getD 0
def Ctx.setG (c : Ctx) (n : Nat) (w : Word) : Ctx := if n = 0 then c else { c with g := c.g.setIfInBounds n w }
def Ctx.pr (c : Ctx) (n : Nat) : PReg := if n = 0 then BitVec.allOnes 1024 else c.p[n]?.getD 0
/-- R19, R326: predicate n written; its poison stays in the 64-bit words of `kept`, which are not written whole. -/
def Ctx.setP (c : Ctx) (n : Nat) (w : PReg) (kept : BitVec 16 := 0) : Ctx :=
  if n = 0 then c else { c with p := c.p.setIfInBounds n w, pBad := c.pBad.setIfInBounds n (c.pBad[n]?.getD 0 &&& kept) }

def Mach.g (s : Mach) (n : Nat) : Word := s.ctx.gr n
def Mach.setG (s : Mach) (n : Nat) (w : Word) : Mach := { s with ctx := s.ctx.setG n w }
def Mach.p (s : Mach) (n : Nat) : PReg := s.ctx.pr n
def Mach.setP (s : Mach) (n : Nat) (w : PReg) (kept : BitVec 16 := 0) : Mach := { s with ctx := s.ctx.setP n w kept }

/-! Processes, networks, tiles. -/

def Mach.proc (s : Mach) (k : Nat) : Option Proc := s.procs[k]?
def Mach.updProc (s : Mach) (k : Nat) (f : Proc → Proc) : Mach := { s with procs := listSet s.procs k f }
def Mach.net (s : Mach) (n : Nat) : Option Net := s.nets[n]?
def Mach.updNet (s : Mach) (n : Nat) (f : Net → Net) : Mach := { s with nets := listSet s.nets n f }

/-- The context of process k: the machine's own while it is the selected process. -/
def Mach.ctxOf (s : Mach) (k : Nat) : Ctx :=
  if s.cur = some k then s.ctx else ((s.proc k).map (·.ctx)).getD {}

def Mach.setCtxOf (s : Mach) (k : Nat) (c : Ctx) : Mach :=
  if s.cur = some k then { s with ctx := c } else s.updProc k fun p => { p with ctx := c }

/-- Selects process k: its context becomes the machine's own. -/
def Mach.select (s : Mach) (k : Nat) : Mach :=
  if s.cur = some k then s else
    let s := match s.cur with
      | some j => s.updProc j fun p => { p with ctx := s.ctx }
      | none => s
    { s with ctx := ((s.proc k).map (·.ctx)).getD {}, cur := some k }

/-- No process selected: the context goes back to its process. -/
def Mach.deselect (s : Mach) : Mach := match s.cur with
  | some j => { s.updProc j (fun p => { p with ctx := s.ctx }) with cur := none }
  | none => s

/-- Process k with its context selected for f, and the machine's selection as before. -/
def Mach.within (s : Mach) (k : Nat) (f : Mach → Mach) : Mach := match s.cur with
  | some j => (f (s.select k)).select j
  | none => (f (s.select k)).deselect

def Mach.curProc (s : Mach) : Option Proc := s.cur.bind s.proc
def Mach.curNetNo (s : Mach) : Option Nat := s.curProc.map (·.net)
def Mach.curNet (s : Mach) : Option Net := s.curNetNo.bind s.net

/-- Process index within its network to its number, and whether it is the network's supervisor (R245). -/
def Mach.procAt (s : Mach) (n i : Nat) : Option Nat := (s.net n).bind fun x => x.procs[i]?
def Mach.supOf (s : Mach) (n : Nat) : Option Nat :=
  (s.net n).bind fun x => x.procs.find? fun k => ((s.proc k).map fun p => p.decl.sup).getD false
def Mach.isSup (s : Mach) : Bool := (s.curProc.map fun p => p.decl.sup).getD false

def PState.placed : PState → Bool
  | .running => true
  | .blocked => true
  | .saving => true
  | .parked => true
  | _ => false

/-- R260: does process k hold a context. -/
def Mach.isPlaced (s : Mach) (k : Nat) : Bool :=
  ((s.proc k).map fun p => p.st.placed).getD false && (s.ctxOf k).place.isSome

/-- The tile that a context stands on. -/
def Ctx.tile (c : Ctx) : Nat := match c.place with
  | some p => tileNo p.x p.y
  | none => 0

def Mach.here (s : Mach) : Nat := s.ctx.tile
def Mach.self (s : Mach) : Nat := s.cur.getD 0
def Ctx.tenantLevel (c : Ctx) : Bool := c.lvl != 0

/-- R339: the tenant of the running process. -/
def Mach.tenantNo (s : Mach) : Option Nat := s.curNet.map (·.tenant)
def Mach.tenant (s : Mach) (id : Nat) : Option Tenant := s.tenants.find? fun t => t.id == id
def Mach.updTenant (s : Mach) (id : Nat) (f : Tenant → Tenant) : Mach :=
  { s with tenants := s.tenants.map fun t => if t.id == id then f t else t }

def Mach.tile (s : Mach) (t : Nat) : Tile := (s.tiles.find? fun x => x.id == t).getD { id := t }
def Mach.updTile (s : Mach) (t : Nat) (f : Tile → Tile) : Mach :=
  { s with tiles := insertBy (·.id) (f (s.tile t)) (s.tiles.filter fun x => x.id != t) }
def Mach.server (s : Mach) (n : Nat) : Server := (s.servers.find? fun x => x.id == n).getD { id := n }
def Mach.updServer (s : Mach) (n : Nat) (f : Server → Server) : Mach :=
  { s with servers := insertBy (·.id) (f (s.server n)) (s.servers.filter fun x => x.id != n) }

/-- R230: a counter of a tile or a server advances by n. -/
def Mach.countTile (s : Mach) (t i n : Nat) : Mach :=
  s.updTile t fun x => { x with ctr := x.ctr.setIfInBounds i (x.ctr[i]?.getD 0 + BitVec.ofNat 64 n) }
def Mach.countServer (s : Mach) (k i n : Nat) : Mach :=
  s.updServer k fun x => { x with ctr := x.ctr.setIfInBounds i (x.ctr[i]?.getD 0 + BitVec.ofNat 64 n) }
def Mach.countDiag (s : Mach) (i n : Nat) : Mach :=
  { s with ctx := { s.ctx with diag := s.ctx.diag.setIfInBounds i (s.ctx.diag[i]?.getD 0 + BitVec.ofNat 64 n) } }

/-- A number that names one request, copy or fill. -/
def Mach.takeKey (s : Mach) : Nat × Mach := (s.fresh, { s with fresh := s.fresh + 1 })

/-- R1: what a free value that a program can read is applied to: the process and the chains it has retired, which no other
process, tenant or schedule changes. DESIGN CHOICE: log entry 5. -/
def Ctx.freeKey (c : Ctx) : Nat := (c.nid.toNat * 2 ^ 16 + c.idx.toNat) * 2 ^ 64 + c.retired.toNat

/-- R37, R1: n bytes that the running process or its engine reads at a location which the address ea names; the registers of a
control page give what the manual leaves open, the same wherever the process is placed. UNVERIFIED: log entry 33. -/
def Mach.readNat (s : Mach) (ea : Word) (k n : Nat) : Nat :=
  if Key.control k then Config.controlPage ea.toNat s.ctx.freeKey % 2 ^ (8 * n) else Mem.nat s.mem k n
def Mach.readBytes (s : Mach) (ea : Word) (k n : Nat) : List Byte :=
  if Key.control k then bytesOfNat n (s.readNat ea k n) else Mem.bytes s.mem k n

/-- One step of the counter that free values are applied to. DESIGN CHOICE: log entry 5. -/
def Mach.tock (s : Mach) : Mach := { s with tick := s.tick + 1 }

/-- R298: something of the network moved. -/
def Mach.stir (s : Mach) : Mach := match s.curNetNo with
  | some n => s.updNet n fun x => { x with active := true }
  | none => s

/-! The fetch buffer (R112): halfwords as read, with whether their word was poisoned (R327). -/

def Mach.fetchHalf (s : Mach) (t off : Nat) : Half × Bool :=
  (BitVec.ofNat 16 (Mem.nat s.mem (Key.tile t (off % 2 ^ 24)) 2), s.poisoned (Key.tile t (off % 2 ^ 24)) 2)

/-- R112, R147: the machine with the running process's vector stores to its own tile performed, as its own fetch meets them. -/
def Mach.seen (s : Mach) : Mach :=
  (s.tileReqs.filter fun r => r.proc == s.self && tileOfKey r.loc == s.here).foldl (fun m r => m.storeAt r.loc r.bytes r.half) s

/-- The halfwords number i up to n - 1 of the span from `pc`. -/
def Mach.fetchSpan (s : Mach) (t pc i n : Nat) : List (Half × Bool) :=
  let m := s.seen
  (List.range (n - i)).map fun j => m.fetchHalf t (pc + 2 * (i + j))

/-- The buffer discarded and the span from the next chain read. -/
def Mach.refetch (s : Mach) : Mach :=
  { s with ctx := { s.ctx with fbuf := s.fetchSpan s.here s.ctx.pc.toNat 0 16 } }

/-- The buffer after a chain of `len` words that ran on in sequence: what it held stays as read. -/
def Mach.slideFetch (s : Mach) (len : Nat) : Mach :=
  let kept := s.ctx.fbuf.drop len
  { s with ctx := { s.ctx with fbuf := kept ++ s.fetchSpan s.here s.ctx.pc.toNat kept.length 16 } }

/-! The address of execution (R54). -/

/-- Execution goes on at the address t; one beyond the 24 bits of the pc is kept for the window fault of its fetch. -/
def Ctx.goto (c : Ctx) (t : Nat) : Ctx :=
  { c with pc := BitVec.ofNat 24 t, far := if t < 2 ^ 24 then none else some (BitVec.ofNat 64 t) }

/-- The address of the next chain. -/
def Ctx.next (c : Ctx) : Nat := (c.far.map (·.toNat)).getD c.pc.toNat

/-! The end of a chain. -/

/-- The selected process is running again, with no wait. -/
def Mach.running (s : Mach) : Mach := match s.cur with
  | some k => s.updProc k fun p => { p with st := .running, wait := none }
  | none => s

/-- R22: one chain retired: cycle, retired and the lap position. -/
def Ctx.count (c : Ctx) (cycles : Nat) : Ctx :=
  { c with
    cycle := c.cycle + BitVec.ofNat 64 cycles
    retired := c.retired + 1
    lapPos := if c.lapLen = 0 then 0 else (c.lapPos + 1) % c.lapLen
    issued := {} }

/-- R301, R302: a retirement stirs the network and allows the next deadlock declaration. -/
def Mach.stirRetire (s : Mach) : Mach := match s.curNetNo with
  | some n => s.updNet n fun x => { x with active := true, dead := false }
  | none => s

/-- The effects on counters that every retirement has. -/
def Mach.counted (s : Mach) : Mach :=
  { s with ctx := s.ctx.count (Config.chainCycles s.tick), tick := s.tick + 1 }.running.stirRetire

/-- R54: a chain of `len` words retires and the next one follows it. -/
def Mach.retire (len : Nat) (s : Mach) : Mach :=
  let s := s.counted
  { s with ctx := { s.ctx with pc := s.ctx.pc + BitVec.ofNat 24 (2 * len) } }.slideFetch len

/-- R54, R112: a taken branch, or a chain that discards the buffer: execution goes on at `t`. -/
def Mach.jump (t : Nat) (s : Mach) : Mach :=
  let s := s.counted
  { s with ctx := s.ctx.goto t }.refetch

/-- A chain that retires. -/
def Done.finish (len : Nat) (d : Done) : Mach := match d.target with
  | some t => d.m.jump t
  | none => if d.flush then d.m.jump (d.m.ctx.pc.toNat + 2 * len) else d.m.retire len

/-- R320: is a wait a point at which a pending pre-emption is taken: every wait but an engine wait, and those of `exit`. -/
def Wait.isPoint (w : Wait) : Bool := w.kind != .engine || w.code == 8

/-- R22: cycle goes on where no chain retires: at a wait and at a trap. DESIGN CHOICE: log entry 8. -/
def Ctx.spend (c : Ctx) (tick : Nat) : Ctx := { c with cycle := c.cycle + BitVec.ofNat 64 (Config.chainCycles tick) }

/-- R173, R111, R320: the chain waits, unretired; cycle advances while the process is placed; a pending pre-emption is
taken at the wait. -/
def Mach.block (s : Mach) (w : Wait) : Mach :=
  let s := { s with ctx := s.ctx.spend s.tick, tick := s.tick + 1 }
  match s.cur with
  | some k => s.updProc k fun p =>
      if p.req && w.isPoint then { p with st := .saving, wait := some w, stop := some { kind := 1, keep := 0xFF } }
      else { p with st := .blocked, wait := some w }
  | none => s

/-! Traps. -/

/-- R29: does the cause reach a local handler. -/
def Ctx.isLocal (c : Ctx) (cause : Nat) : Bool :=
  !c.act && !c.tdeleg.getLsbD cause && !([0x15, 0x17, 0x18, 0x19].contains cause) && 1 ≤ cause && cause ≤ 28

/-- R319: is a trap delivered remotely because tstatus.act is 1. -/
def Ctx.heldByAct (c : Ctx) (cause : Nat) : Bool := c.act && { c with act := false }.isLocal cause

/-- R29: tinfo. -/
def tinfoOf (t : Trap) (len : Nat) : Word :=
  BitVec.ofNat 64 (t.ref % 2 ^ 32 * 2 ^ 32 + t.elem % 2 ^ 10 * 2 ^ 16 + t.reason % 256 * 2 ^ 8 + len % 8 * 2 ^ 4 + t.opnd % 16)

/-- R317, R21: the address that the trap saves. -/
def Mach.trapPc (s : Mach) (len : Nat) (t : Trap) : Nat :=
  if t.whole then (s.ctx.pc.toNat + 2 * len) % 2 ^ 24 else s.ctx.next

/-- R36, R319: the tile-absolute form of a tile address as the issuing tile forms it; any other value as it is. -/
def absoluteForm (tile : Nat) (w : Word) : Word :=
  let x := w.toNat
  match x / 2 ^ 62 with
  | 0 => if bitsAt x 24 38 = 0 then BitVec.ofNat 64 (2 ^ 62 + tile % 64 * 2 ^ 30 + tile / 64 * 2 ^ 24 + x % 2 ^ 24) else w
  | 2 =>
    let tx := (tile % 64 : Nat) + signed 7 (bitsAt x 30 7)
    let ty := (tile / 64 : Nat) + signed 6 (bitsAt x 24 6)
    if bitsAt x 37 25 = 0 && 0 ≤ tx && tx < 64 && 0 ≤ ty && ty < 32 then
      BitVec.ofNat 64 (2 ^ 62 + tx.toNat * 2 ^ 30 + ty.toNat * 2 ^ 24 + x % 2 ^ 24)
    else w
  | _ => w

/-- R319: does tval hold an address: of a memory access, of a descriptor or block, of a fetch, of a counter that is waited on. -/
def Trap.isAddress (t : Trap) : Bool := match t.cause with
  | 0x01 => t.opnd == 5
  | 0x03 => !t.raw
  | 0x10 => [0x03, 0x04, 0x16, 0xF1].contains t.reason
  | 0x16 => t.reason == 0x01 || t.reason == 0x02 || t.reason == 0x08
  | 0x17 => t.reason == 0x05 || t.reason == 0x06
  | c => (0x04 ≤ c && c ≤ 0x07) || 0x1A ≤ c

/-- R319: a fault record as its eight doublewords. `pl` is where the process stands. -/
def makeRecord (t : Trap) (len idx : Nat) (pl : Option Place) (nid pc : Nat) (chain : List Half) (tenant byAct : Bool) :
    List Word :=
  let tile := match pl with
    | some p => tileNo p.x p.y
    | none => 0
  let place : List Nat := match pl with
    | some p => [p.ctx, dieOf tile, p.x, p.y]
    | none => [0xFF, 0xFF, 0xFF, 0xFF]
  let whereAt := if t.isAddress && pl.isSome then absoluteForm tile t.value else t.value
  let text := chain.flatMap bytesOfHalf
  let bytes : List Byte :=
    bytesOfNat 1 t.cause ++ bytesOfNat 1 t.reason ++ bytesOfNat 1 (t.opnd % 16) ++ bytesOfNat 1 len ++ bytesOfNat 2 idx ++
    place.flatMap (bytesOfNat 1) ++ bytesOfNat 2 (t.elem % 1024) ++ bytesOfNat 4 nid ++ bytesOfNat 4 (pc % 2 ^ 24) ++
    text.take 10 ++ bytesOfNat (10 - text.length) 0 ++ bytesOfNat 2 0 ++ bytesOfNat 8 t.value.toNat ++
    bytesOfNat 8 whereAt.toNat ++ bytesOfNat 4 t.ref ++
    bytesOfNat 4 (tenant.toNat + 2 * byAct.toNat + 4 * (if pl.isSome then 0 else 1)) ++ bytesOfNat 8 0
  (pieces 8 8 bytes).map fun b => BitVec.ofNat 64 (natOfBytes b)

/-- The record of a trap that the selected process takes. -/
def Mach.trapRecord (s : Mach) (len : Nat) (t : Trap) : List Word :=
  makeRecord t len s.ctx.idx.toNat s.ctx.place s.ctx.nid.toNat (s.trapPc len t) ((s.ctx.fbuf.take len).map (·.1))
    s.ctx.tenantLevel (s.ctx.heldByAct t.cause)

/-- R318, R241: a record reaches the supervisor's fault queue, or, where there is none to receive it, ends the network; a network whose
home is the other hub leaves both to that hub (R314). -/
def Mach.deliver (s : Mach) (n k idx : Nat) (rcd : List Word) : Mach :=
  let alive : Bool := match s.supOf n with
    | some j => j != k && ((s.proc j).map fun p => p.st != .exited).getD false
    | none => false
  s.updNet n fun x =>
    let x := { x with faults := insertBy (·.1) (idx, rcd) (x.faults.filter fun y => y.1 != idx), active := true }
    if x.guest then x else if alive then { x with faultQ := x.faultQ ++ [(idx, rcd)] } else { x with fatal := true }

/-- R318: the process parks at the trapping chain; its context keeps every register. -/
def Mach.park (s : Mach) (len : Nat) (t : Trap) : Mach := match s.cur with
  | none => s.tock
  | some k =>
    let rcd := s.trapRecord len t
    let s' := { s with ctx := { s.ctx.spend s.tick with issued := {} } }.tock.updProc k fun p =>
      { p with st := .parked, wait := none, park := s.trapPc len t, record := some rcd, req := false }
    match s.curNetNo with
    | some n => s'.deliver n k s.ctx.idx.toNat rcd
    | none => s'

/-- R211: entry to the local handler, at tvec with bit 0 cleared; an address outside local memory is kept whole, and its fetch
faults (R54). DEDUCED: log entry 17. -/
def Mach.enterLocal (s : Mach) (len : Nat) (t : Trap) : Mach :=
  ({ s with ctx := { (s.ctx.spend s.tick).goto (s.ctx.tvec.toNat / 2 * 2) with
      tcause := BitVec.ofNat 8 t.cause
      tval := t.value
      tinfo := tinfoOf t len
      tpc := BitVec.ofNat 64 (s.trapPc len t)
      act := true
      issued := {} } }.tock.running).refetch

/-- Taking a trap at a chain of `len` words: locally or remotely as R29 says. -/
def Mach.takeTrap (s : Mach) (len : Nat) (t : Trap) : Mach :=
  if s.ctx.isLocal t.cause then s.enterLocal len t else s.park len t

/-- R212: the return from a local handler; the pc and the status come back from where the entry saved them. -/
def Mach.trapReturn (s : Mach) : Try Done :=
  if s.ctx.act then .ok { m := { s with ctx := { s.ctx with act := false } }, target := some s.ctx.tpc.toNat }
  else illegal 0x0C 0

/-- The outcome of a chain of `len` words whose effect on the machine is `f`: a trap and a wait leave the machine as it
was before the chain, but for what the trap saves and what the wait has issued. -/
def chain (len : Nat) (s : State) (f : Mach → Try Done) : Host.Outcome State Fault Refusal :=
  match f s.toMach with
  | .ok d => .next { s with toMach := d.finish len }
  | .error (.trap t) => .next { s with toMach := s.toMach.takeTrap len t }
  | .error (.trapIn t m) => .next { s with toMach := m.takeTrap len t }
  | .error (.wait w m) => .next { s with toMach := m.block w }

/-- A chain whose effect cannot stop it. -/
def plain (len : Nat) (s : State) (f : Mach → Mach) : Host.Outcome State Fault Refusal :=
  .next { s with toMach := (f s.toMach).retire len }

/-- R39: an instruction of the tenant level, used below it. -/
def needTenant (s : Mach) : Try Unit :=
  if s.ctx.tenantLevel then .ok () else raise { cause := 0x02, value := Config.unstatedTval s.ctx.freeKey }

end Sys2Proof.Machine
end

