-- ==== Sys2Proof/Machine/Access.lean ====
section
/-! DEFINITION. Addresses (R36 to R38), range translation (R273, R279), the requests to memory servers and other tiles
with their order (R100, R195, R275, R285), watched sources (R168), and scalar loads, stores and atomics (R99 to R101). -/

namespace Sys2Proof.Machine

/-- A trap of R99 at an element: tinfo.opnd memory, tval the address. -/
def memTrap (cause reason : Nat) (ea : Word) (elem : Nat := 0) : Trap :=
  { cause := cause, reason := reason, opnd := 5, value := ea, elem := elem }

/-! Windows. -/

/-- R31, R38: does a window cover n bytes at an offset and grant the access. -/
def winGrants (w : Word) (off n : Nat) (rd wr x : Bool) : Bool :=
  bitsAt w.toNat 0 24 ≤ off && off + n ≤ bitsAt w.toNat 24 24 &&
  (!rd || w.getLsbD 48) && (!wr || w.getLsbD 49) && (!x || w.getLsbD 50)

/-- R38: does a window share a byte with n bytes at an offset; an empty window shares none. -/
def winTouches (w : Word) (off n : Nat) : Bool :=
  bitsAt w.toNat 0 24 < bitsAt w.toNat 24 24 && bitsAt w.toNat 0 24 < off + n && off < bitsAt w.toNat 24 24

/-- R38, condition 1. -/
def Ctx.ownWindow (c : Ctx) (off n : Nat) (rd wr x : Bool) : Bool :=
  c.win.toList.any fun w => winGrants w off n rd wr x

/-- The processes placed on a tile. -/
def Mach.onTile (s : Mach) (t : Nat) : List Nat :=
  (List.range s.procs.length).filter fun k => s.isPlaced k && (s.ctxOf k).tile == t

/-- R38, condition 2: an exported window of the network grants the access, and no other context's private or spill
window is touched. -/
def Mach.exported (s : Mach) (net t off n : Nat) (rd wr : Bool) : Bool :=
  (s.onTile t).any fun k =>
    ((s.proc k).map fun p => p.net == net).getD false &&
    (s.ctxOf k).win.toList.any (fun w => w.getLsbD 51 && winGrants w off n rd wr false) &&
    !((s.onTile t).any fun j => j != k &&
      (winTouches ((s.ctxOf j).win[1]) off n || winTouches ((s.ctxOf j).win[3]) off n))

/-- R250: the runtime block of the running process's network, which no window may cover (R249) and process code reads. DEDUCED: log entry 87. -/
def Mach.inBlock (s : Mach) (off n : Nat) : Bool :=
  match s.curNet.bind fun x => s.images.find? fun im => im.handle == x.image with
  | some im => im.rtblk ≤ off && off + n ≤ im.rtblk + 64 + 4 * im.resids.length
  | none => false

/-- R38: may the running context access n bytes of a tile; a read of the runtime block on its own tile may (R250). -/
def Mach.tileAllows (s : Mach) (t off n : Nat) (rd wr : Bool) : Bool :=
  (t == s.here && (s.ctx.ownWindow off n rd wr false || (!wr && s.inBlock off n))) ||
  (match s.curNetNo with
   | some net => s.exported net t off n rd wr
   | none => false)

/-! Range translation. -/

/-- R273, R282: the location of an offset p of an entry; `win` is the base of the host window. -/
def RangeEntry.locate (e : RangeEntry) (win va : Nat) : Nat :=
  let p := e.pbase + (va - e.vbase)
  let u := p / 256
  if e.host then Key.host (win + p)
  else if e.mode = 0 then Key.server (u % 3072) (u / 3072 * 256 + p % 256)
  else Key.server (u % 384 / 3 * 24 + 3 * e.die + u % 384 % 3) (u / 384 * 256 + p % 256)

/-- R273: the MiB of a stack (8 KiB of each of its pseudo-channels) that n bytes from a physical offset touch, in a view of
`per` servers. -/
def mibSpan (p n per : Nat) : Nat × Nat := (p / 256 / per / 32, (p + n - 1) / 256 / per / 32 + 1)

def RangeEntry.rowsOn (e : RangeEntry) (stack : Nat) : Option (Nat × Nat) :=
  if !e.valid || e.host then none
  else if e.mode = 0 then some (mibSpan e.pbase (e.vlimit - e.vbase) 3072)
  else if stack / 3 = e.die then some (mibSpan e.pbase (e.vlimit - e.vbase) 384)
  else none

/-- R273, R296: the rows that the bank residencies of a stack and the spill regions of networks take out of both views. -/
def Mach.bankRows (s : Mach) (stack : Nat) : List (Nat × Nat) :=
  (s.resids.filter fun r => r.bank && r.spot == stack && r.state != .revoked).flatMap (·.rows) ++
  s.nets.flatMap fun x => (x.spill.filter fun y => y.1 == stack).map (·.2)

def meetsRows (l : List (Nat × Nat)) (y : Nat × Nat) : Bool := l.any fun z => z.1 < y.2 && y.1 < z.2

/-- R273, R220: does an entry map rows of a bank residency or of a spill region. -/
def Mach.onBank (s : Mach) (e : RangeEntry) : Bool :=
  (List.range Config.stackCount).any fun k => ((e.rowsOn k).map (meetsRows (s.bankRows k))).getD false

/-- The server of a location, and the stack it stands on (R273). -/
def serverOf (key : Nat) : Nat := key / 2 ^ 30
def stackOf (key : Nat) : Nat := serverOf key % 24

/-- R279: the valid entry of the active table that covers a virtual address. -/
def Tenant.entryAt (t : Tenant) (va : Nat) : Option RangeEntry :=
  (t.active.find? fun e => e.2.valid && e.2.vbase ≤ va && va < e.2.vlimit).map (·.2)

/-- Where an access goes: its location, the tile it lies on or none for the global space, and its range entry. -/
structure Spot where
  key  : Nat
  tile : Option Nat
  host : Bool
  e    : RangeEntry
  deriving DecidableEq, Repr

def Tenant.locate (t : Tenant) (va : Nat) : Option Spot :=
  (t.entryAt va).map fun e => { key := e.locate t.window.1 va, tile := none, host := e.host, e := e }

/-- The first addresses of the 2 MiB pieces that n bytes from va touch. -/
def pageStarts (va n : Nat) : List Nat :=
  va :: ((List.range ((va + n - 1) / 2 ^ 21 - va / 2 ^ 21)).map fun i => (va / 2 ^ 21 + 1 + i) * 2 ^ 21)

def globalWord (va : Nat) : Word := BitVec.ofNat 64 (3 * 2 ^ 62 + va)

/-- R279, one byte. -/
def Mach.probeByte (s : Mach) (ten : Option Nat) (va : Nat) (rd wr : Bool) (shown : Word) (elem : Nat) : Except Trap Spot :=
  match ten.bind s.tenant with
  | none => .error (memTrap 0x05 0x01 shown elem)
  | some t => match t.locate va with
    | none => .error (memTrap 0x05 0x01 shown elem)
    | some x =>
      if rd && !x.e.rd then .error (memTrap 0x06 0x01 shown elem)
      else if wr && !x.e.w then .error (memTrap 0x06 0x02 shown elem)
      else .ok x

/-- R279: Translate for n bytes. Entries are aligned to 2 MiB, so one byte of each piece stands for it. -/
def Mach.translate (s : Mach) (ten : Option Nat) (ga : Word) (n : Nat) (rd wr : Bool) (elem : Nat := 0) : Except Trap Spot :=
  if bitsAt ga.toNat 48 14 ≠ 0 then .error (memTrap 0x05 0x02 ga elem)
  else
    let va := bitsAt ga.toNat 0 48
    match s.probeByte ten va rd wr ga elem with
    | .error t => .error t
    | .ok x => ((pageStarts va n).drop 1).foldl (fun acc b => match acc with
        | .error t => .error t
        | .ok x => match s.probeByte ten b rd wr (globalWord b) elem with
          | .error t => .error t
          | .ok _ => .ok x) (.ok x)

/-! Tile addresses. -/

/-- R36: tile and offset of a tile-space address as the issuing tile forms it. DEDUCED: log entry 88. -/
def tileTarget (here : Nat) (ea : Word) (elem : Nat) : Except Trap (Nat × Nat) :=
  let x := ea.toNat
  let off := bitsAt x 0 24
  match x / 2 ^ 62 with
  | 0 => if bitsAt x 24 38 = 0 then .ok (here, off) else .error (memTrap 0x04 0x03 ea elem)
  | 1 => if bitsAt x 37 25 ≠ 0 then .error (memTrap 0x04 0x03 ea elem)
         else if bitsAt x 24 6 < 32 && bitsAt x 30 7 < 64 then .ok (tileNo (bitsAt x 30 7) (bitsAt x 24 6), off)
         else .error (memTrap 0x04 0x04 ea elem)
  | _ =>
    let tx := (here % 64 : Nat) + signed 7 (bitsAt x 30 7)
    let ty := (here / 64 : Nat) + signed 6 (bitsAt x 24 6)
    if bitsAt x 37 25 ≠ 0 then .error (memTrap 0x04 0x03 ea elem)
    else if 0 ≤ tx && tx < 64 && 0 ≤ ty && ty < 32 then .ok (tileNo tx.toNat ty.toNat, off)
    else .error (memTrap 0x04 0x04 ea elem)

def isGlobal (ea : Word) : Bool := ea.toNat / 2 ^ 62 == 3
def isLocal (ea : Word) : Bool := ea.toNat / 2 ^ 62 == 0

/-- R37, R38 for n bytes of a tile at an offset. -/
def Mach.checkTile (s : Mach) (t off n : Nat) (rd wr : Bool) (ea : Word) (elem : Nat) : Try Spot :=
  if isControl off then
    if !s.ctx.tenantLevel then raise (memTrap 0x04 0x02 ea elem)
    else if isControl (off + n - 1) then .ok { key := Key.tile t off, tile := some t, host := false, e := {} }
    else raise (memTrap 0x04 0x05 ea elem)
  else if Config.localBytes < off + n then raise (memTrap 0x04 0x05 ea elem)
  else if s.tileAllows t off n rd wr then .ok { key := Key.tile t off, tile := some t, host := false, e := {} }
  else raise (memTrap 0x04 0x01 ea elem)

/-- R99 steps 2, 4 and 5: the home of n bytes at a generic address. -/
def Mach.resolve (s : Mach) (ea : Word) (n : Nat) (rd wr : Bool) (elem : Nat := 0) : Try Spot :=
  if isGlobal ea then
    match s.translate s.tenantNo ea n rd wr elem with
    | .ok x => .ok x
    | .error t => raise t
  else match tileTarget s.here ea elem with
    | .error t => raise t
    | .ok (t, off) => s.checkTile t off n rd wr ea elem

/-- R38: n bytes at a local offset in the process's own windows, as every descriptor in local memory is checked: a local
address (window fault), aligned (misaligned), granted. -/
def Mach.ownLocal (s : Mach) (a : Word) (align n : Nat) (rd wr : Bool) (opnd : Nat := 5) : Try Nat :=
  let bad := fun r => raise { cause := 0x04, reason := r, opnd := opnd, value := a }
  if a.toNat / 2 ^ 24 ≠ 0 then bad 0x03
  else if a.toNat % align ≠ 0 then raise { cause := 0x03, opnd := opnd, value := a }
  else if isControl a.toNat then
    if !s.ctx.tenantLevel then bad 0x02
    else if isControl (a.toNat + n - 1) then .ok (Key.tile s.here a.toNat) else bad 0x05
  else if Config.localBytes < a.toNat + n then bad 0x05
  else if s.ctx.ownWindow a.toNat n rd wr false then .ok (Key.tile s.here a.toNat)
  else bad 0x01

/-- R327: poison in n bytes of local memory that an instruction consumes. -/
def Mach.clean (s : Mach) (key n : Nat) (ea : Word) (elem : Nat := 0) : Try Unit :=
  if s.poisoned key n then raise (memTrap 0x16 (if key < 2 ^ 50 then 0x01 else 0x02) ea elem) else .ok ()

/-! Watched sources (R168). -/

/-- The virtual addresses of a tenant that denote a location of a server. -/
def Tenant.virtualOf (t : Tenant) (key : Nat) : List Nat :=
  let sv := serverOf key
  let a := key % 2 ^ 30
  t.active.filterMap fun (_, e) =>
    let p := if e.mode = 0 then (a / 256 * 3072 + sv) * 256 + a % 256
      else (a / 256 * 384 + sv / 24 * 3 + sv % 24 % 3) * 256 + a % 256
    if e.valid && !e.host && (e.mode == 0 || sv % 24 / 3 == e.die) && e.pbase ≤ p && p - e.pbase < e.vlimit - e.vbase
    then some (e.vbase + (p - e.pbase)) else none

/-- Bytes of a residency's source (R161). -/
def Resid.size (r : Resid) : Nat := if r.bank then r.mib * 2 ^ 20 else 32768

/-- R161, R168: the source that a residency is being filled from, or the one it records. -/
def Resid.filling (r : Resid) : Bool := r.state == .loading && !r.reload
def Resid.watch (r : Resid) : Word := if r.filling then r.load else r.source
def Resid.watched (r : Resid) : Bool := if r.filling then isGlobal r.load else r.global

/-- Does a write of n bytes at a location of a server overlap a residency's source. -/
def Mach.overlaps (s : Mach) (r : Resid) (key n : Nat) : Bool :=
  r.watched && key < 2 ^ 50 && match s.tenant r.tenant with
    | none => false
    | some t => (t.virtualOf key).any fun va =>
        va < bitsAt r.watch.toNat 0 48 + r.size && bitsAt r.watch.toNat 0 48 < va + n

/-- R168, R351: the holder advances the load generation and marks the residency. -/
def Resid.mark (r : Resid) : Resid := match r.state with
  | .ready => { r with loads := r.loads + 1, state := .stale }
  | .evicted => { r with loads := r.loads + 1, state := .stale }
  | .loading => { r with loads := r.loads + 1, marked := true }
  | _ => r

/-- DEDUCED: log entry 90. -/
def Mach.markStale (s : Mach) (key n : Nat) : Mach :=
  if s.resids.isEmpty then s else
  { s with resids := s.resids.map fun r => if s.overlaps r key n then r.mark else r }

/-! What a memory server does (R275, R276, R193). -/

/-- R276, R195: bytes written within one ECC word at a server: a full write of the word replaces it; part of a poisoned
word is not performed, and its location is reported. -/
def Mach.dramWord (s : Mach) (key : Nat) (part : List (Option Byte)) (full : Bool) : Mach × Option Nat :=
  if !full && s.poisoned key part.length && part.any (·.isSome) then (s, some key)
  else ({ s.cleanse key (if full then 32 else 0) with mem := Mem.mask s.mem key part }, none)

/-- R276: bytes written at a server, word by word. -/
def dramWrite : Nat → Mach → Nat → List Byte → Mach × Option Nat
  | 0, s, _, _ => (s, none)
  | k + 1, s, key, bs =>
    if bs.isEmpty then (s, none) else
    let n := min bs.length (32 - key % 32)
    let (s, bad) := s.dramWord key ((bs.take n).map some) (n == 32)
    let (s, bad') := dramWrite k s (key + n) (bs.drop n)
    (s, bad.or bad')

/-- R197, R199: an unsigned add that stops at the top. -/
def satAdd (x y : Word) : Word := if 2 ^ 64 ≤ x.toNat + y.toNat then BitVec.allOnes 64 else x + y

/-- R193: the new value of `matom`, or none where cas does not match. -/
def atomNew (op : Nat) (old v v2 : Word) : Option Word := match op with
  | 0 => some (old + v)
  | 1 => some v
  | 2 => some (if old.toInt < v.toInt then v else old)
  | 3 => some (if v.toInt < old.toInt then v else old)
  | 4 => some (old &&& v)
  | 5 => some (old ||| v)
  | 6 => if old = v then some v2 else none
  | _ => some (satAdd old v)

/-- Bytes that a request touches at its server. -/
def Req.bytes (r : Req) : Nat := match r.op with
  | .read n _ => n
  | .write bs => bs.length
  | .masked bs => bs.length
  | .nibble _ _ => 1
  | .atomic _ _ _ => 8

/-- R275: the bytes of a request that lie in its next ECC word: where, and how many. -/
def Req.spot (r : Req) : Nat := r.loc + r.done
def Req.span (r : Req) : Nat := min (r.bytes - r.done) (32 - r.spot % 32)

/-- R193: is a request a read-modify-write. -/
def Req.merges (r : Req) : Bool := match r.op with
  | .write bs => bs.length < 32
  | .masked _ => true
  | .nibble _ _ => true
  | _ => false

/-- R275: a word of a request is performed, with the error that it met; the last one ends it. -/
def Req.advance (r : Req) (bad : Bool) : Req :=
  let r := { r with done := r.done + r.span, fault := if bad then some (0x16, 0x01) else r.fault }
  if r.bytes ≤ r.done then { r with stage := if r.merges then .merging else .answered } else r

/-- R275, R276: the next ECC word of a request performed on DRAM: a read takes its bytes, a write reaches memory, an
atomic does both, errors are found. -/
def Mach.performWord (s : Mach) (r : Req) : Mach × Req := match r.op with
  | .read _ _ =>
    if s.poisoned r.spot r.span then (s.countServer (serverOf r.loc) 7 1, r.advance true)
    else (s, { r with value := r.value + Mem.nat s.mem r.spot r.span * 2 ^ (8 * r.done) }.advance false)
  | .write bs =>
    let (s, bad) := s.dramWord r.spot (((bs.drop r.done).take r.span).map some) (r.span == 32)
    (s, r.advance bad.isSome)
  | .masked bs =>
    let (s, bad) := s.dramWord r.spot ((bs.drop r.done).take r.span) false
    (s, r.advance bad.isSome)
  | .nibble high b =>
    let (s, bad) := s.dramWord r.loc [some (nibbleMerge high b (Mem.get s.mem r.loc))] false
    (s, r.advance bad.isSome)
  | .atomic op v v2 =>
    if s.poisoned r.loc 8 then (s.countServer (serverOf r.loc) 7 1, r.advance true)
    else
      let old := BitVec.ofNat 64 (Mem.nat s.mem r.loc 8)
      let s := match atomNew op old v v2 with
        | some w => s.putNat r.loc 8 w.toNat
        | none => s
      (s, { r with value := old.toNat }.advance false)

/-- The words of a request that are left, one after another; the number bounds them. -/
def Mach.performWords (s : Mach) (r : Req) : Nat → Mach × Req
  | 0 => (s, r)
  | n + 1 => if r.stage = .accepted then (s.performWord r).1.performWords (s.performWord r).2 n else (s, r)

def Mach.performReq (s : Mach) (r : Req) : Mach × Req := s.performWords r (r.bytes / 32 + 2)

/-- The locations that a request writes, for the marks of R168. -/
def Req.written (r : Req) : List Nat := match r.op with
  | .read _ _ => []
  | .write bs => (List.range bs.length).map fun i => r.loc + i
  | .masked bs => ((List.range bs.length).filter fun i => ((bs[i]?).join).isSome).map fun i => r.loc + i
  | .nibble _ _ => [r.loc]
  | .atomic _ _ _ => (List.range 8).map fun i => r.loc + i

/-- R274, R168, R230: the server takes a request into its queue: marks fall, counters count, a write is performed as far
as every release is concerned. -/
def Mach.acceptReq (s : Mach) (r : Req) : Mach × Req :=
  let sv := serverOf r.loc
  let s := match r.op with
    | .read _ _ => s.countServer sv 0 1
    | .atomic _ _ _ => s.countServer sv 2 1
    | _ => if r.merges then (s.countServer sv 1 1).countServer sv 2 1 else s.countServer sv 1 1
  let s := match r.written with
    | [] => s
    | k :: _ => s.markStale k (r.written.getLast?.getD k + 1 - k)
  (s, { r with stage := .accepted })

/-- R324: what an answered request leaves on its tag. -/
def Req.tagAfter (r : Req) (old : Tag) : Tag :=
  let cause := (r.fault.map (·.1)).getD 0
  let reason := (r.fault.map (·.2)).getD 0
  match r.op with
  | .read _ _ => { kind := .read, cause := cause, reason := reason, value := if r.fault.isSome then r.addr else 0 }
  | .atomic _ _ _ =>
    let v := if r.fault.isSome then r.addr else BitVec.ofNat 64 r.value
    { kind := .atomic, cause := cause, reason := reason, value := v }
  | _ => if r.fault.isSome then { kind := .held, cause := cause, reason := reason, value := r.addr }
      else { old with kind := .acked, cause := 0, reason := 0, value := 0 }

def Ctx.mq (c : Ctx) (chan : Nat) : Mq := if chan = 0 then c.mq0 else c.mq1
def Ctx.setMq (c : Ctx) (chan : Nat) (m : Mq) : Ctx := if chan = 0 then { c with mq0 := m } else { c with mq1 := m }
def Mq.tag (m : Mq) (t : Nat) : Tag := m.tags[t]?.getD {}
def Mq.setTag (m : Mq) (t : Nat) (x : Tag) : Mq := { m with tags := m.tags.setIfInBounds t x }

/-- R193, R278: the next n bytes of a read's reply written into its buffer, on the tile where its process stands; one that has ended
stands on none. -/
def Mach.lay (s : Mach) (r : Req) (n : Nat) : Mach := match r.op, (s.ctxOf r.proc).place with
  | .read size buf, some p =>
    if r.tag.isSome && r.fault.isNone then
      s.put (Key.tile (tileNo p.x p.y) (buf + r.laid)) (((bytesOfNat size r.value).drop r.laid).take n)
    else s
  | _, _ => s

/-- R192, R193, R196: a reply arrives: the buffer of a read is written, the tag takes its state, an error of a store
without a tag is held on mq1. -/
def Mach.arrive (s : Mach) (r : Req) : Mach :=
  let s := { s with reqs := s.reqs.filter fun (x : Req) => x.key != r.key }
  let s := s.lay r r.bytes
  let c := s.ctxOf r.proc
  match r.tag with
  | some t => s.setCtxOf r.proc (c.setMq r.chan ((c.mq r.chan).setTag t (r.tagAfter ((c.mq r.chan).tag t))))
  | none => match r.fault with
    | some (cause, reason) =>
      if c.mq1Err.isSome then s else s.setCtxOf r.proc { c with mq1Err := some (memTrap cause reason r.addr) }
    | none => s

/-- R343: all that is left of an accepted request at its server, the merging of its words too. -/
def Mach.finishReq (s : Mach) (r : Req) : Mach × Req :=
  let (s, r) := s.performReq r
  (s, if r.stage = .merging then { r with stage := .answered } else r)

/-- R274, R343: is a request in its server's queue, or in its merge unit. -/
def Req.atServer (r : Req) : Bool := r.stage == .accepted || r.stage == .merging

/-- All of a request's remaining steps at its server, and its reply. -/
def Mach.completeReq (s : Mach) (r : Req) : Mach :=
  let (s, r) := match r.stage with
    | .issued => s.acceptReq r
    | .gateway => s.acceptReq r
    | _ => (s, r)
  let (s, r) := if r.atServer then s.finishReq r else (s, r)
  s.arrive r

/-- R275: every accepted request performed, in the order of acceptance, so that memory holds what the servers hold. -/
def Mach.settleList (s : Mach) : List Req → Mach
  | [] => s
  | r :: rs =>
    if r.atServer then
      let (s, r') := s.finishReq r
      Mach.settleList { s with reqs := s.reqs.map fun x => if x.key = r.key then r' else x } rs
    else s.settleList rs

def Mach.settle (s : Mach) : Mach := s.settleList s.reqs

def Mach.completeAll (s : Mach) : List Req → Mach
  | [] => s
  | r :: rs => (s.completeReq r).completeAll rs

/-- Earlier requests of the same context and channel, in issue order. -/
def Mach.earlier (s : Mach) (r : Req) : List Req :=
  (s.reqs.takeWhile fun y => y.key != r.key).filter fun y => y.proc == r.proc && y.chan == r.chan

/-- R100, R195, R278: has a request reached its home: its server has accepted it, or the host has performed it. The
requests of one channel reach their homes in issue order. -/
def Req.reached (r : Req) : Bool := if r.host then r.stage == .answered else r.stage != .issued && r.stage != .gateway
def Mach.isNext (s : Mach) (r : Req) : Bool := (s.earlier r).all Req.reached

/-- Has a request an answer on its way to its context; what the host gave a waiting chain stays with that chain (R282). -/
def Req.replied (r : Req) : Bool := r.stage == .answered && !(r.host && r.tag.isNone && match r.op with
  | .read _ _ => true
  | _ => false)

/-- The requests of process k that meet a test, completed in issue order, behind what the servers hold, as far as no
request at the host bridge stands before them on their channel; of those at the bridge, the answers arrive. -/
def Mach.drainReqs (s : Mach) (k : Nat) (f : Req → Bool) : Mach :=
  let s := s.settle
  s.completeAll (s.reqs.filter fun r => r.proc == k && (!r.host || r.replied) && f r &&
    (s.earlier r).all fun y => !y.host || y.stage == .answered)

/-! Stores on their way to tiles (R270, R147). -/

def Mach.performTile (s : Mach) (r : TileReq) : Mach :=
  ({ s with tileReqs := s.tileReqs.filter fun (x : TileReq) => x.key != r.key } : Mach).storeAt r.loc r.bytes r.half

def Mach.performTiles (s : Mach) : List TileReq → Mach
  | [] => s
  | r :: rs => (s.performTile r).performTiles rs

/-- Do the bytes of two stores meet. -/
def TileReq.meets (y r : TileReq) : Bool := y.loc < r.loc + r.bytes.length && r.loc < y.loc + y.bytes.length

/-- R285, R290, R147: must a store that was sent first be performed before another: two of one process to one die, or one of them
to its own die, but for two of one chain whose bytes do not meet; two of one tile to one other tile. -/
def Mach.landsFirst (s : Mach) (y r : TileReq) : Bool :=
  let ty := tileOfKey y.loc
  let tr := tileOfKey r.loc
  let home := (s.ctxOf r.proc).tile
  if y.proc == r.proc then
    (y.group != r.group || y.meets r) && (dieOf ty == dieOf tr || dieOf ty == dieOf home || dieOf tr == dieOf home)
  else ty == tr && ty != home && (s.ctxOf y.proc).tile == home

/-- The stores that meet a test, with those that must be performed before them, in the order in which they were sent. -/
def Mach.landing (s : Mach) (f : TileReq → Bool) : List TileReq :=
  s.tileReqs.foldr (fun r acc => if f r || acc.any (s.landsFirst r) then r :: acc else acc) []
def Mach.land (s : Mach) (f : TileReq → Bool) : Mach := s.performTiles (s.landing f)

/-- R270: the stores on their way to a tile are performed. -/
def Mach.landAt (s : Mach) (t : Nat) : Mach := s.land fun r => tileOfKey r.loc == t

/-- R100: the stores of process k to one tile, or to all, are performed. -/
def Mach.drainTiles (s : Mach) (k : Nat) (t : Option Nat) : Mach :=
  s.land fun r => r.proc == k && (t.isNone || t == some (tileOfKey r.loc))

/-- R147: the running process's stores to its own tile are performed. -/
def Mach.ownStores (s : Mach) : Mach := s.drainTiles s.self (some s.here)

/-- Host-shared requests of process k that the host has not acknowledged (R282, R283). -/
def Mach.hostOpen (s : Mach) (k : Nat) : Bool :=
  s.reqs.any fun r => r.proc == k && r.host && r.stage != .answered

/-- R286: Release(): every earlier access of the process is performed: stores at tiles, requests at their servers,
host-shared accesses acknowledged, which the chain waits for. -/
def Mach.release (s : Mach) : Try Mach :=
  let s := (s.drainTiles s.self none).drainReqs s.self fun _ => true
  if s.hostOpen s.self then engineWait s else .ok s

/-- R196: the error held on mq1, which the next global access of the context in program order delivers: also one that an
earlier store still on its way to its server meets there. DEDUCED: log entry 26. -/
def Mach.heldError (s : Mach) : Try Unit :=
  let d := if s.ctx.mq1Err.isSome || s.bad.isEmpty then s else s.drainReqs s.self fun r => r.chan == 1
  match d.ctx.mq1Err with
  | some t => .error (.trapIn t { d with ctx := { d.ctx with mq1Err := none } })
  | none => .ok ()

end Sys2Proof.Machine
end

