-- ==== Sys2Proof/Machine/Operands.lean ====
section
/-! DEFINITION. Scalar operand forms (R86, R98) and the special registers as `mfs` reads and `mts` writes them (R21 to
R31, R92). -/

namespace Sys2Proof.Machine

/-! Operand forms. -/

/-- R86: the sources of a 2/3 instruction: g(d), g(a) without PR.w, and g(a), g(e) with it. -/
def Mach.xOf (s : Mach) (x : F2) : Word := if x.w then s.g x.aN else s.g x.dN
def Mach.yOf (s : Mach) (x : F2) : Word := if x.w then s.g x.eN else s.g x.aN

/-- R98: the effective address, modulo 2^64. -/
def Mach.ea (s : Mach) (x : F2) : Word := s.g x.aN + wordOfInt x.s

/-- R97: the operand of an atomic; 0 without PR.w. -/
def Mach.atomicOperand (s : Mach) (x : F2) : Word := if x.w then s.g x.eN else 0

/-- R102, R54: the local offset of a chain's base word, and B + 2 × off as an address of 64 bits. -/
def Mach.baseWord (s : Mach) (len : Nat) : Nat := s.ctx.pc.toNat + 2 * (len - 1)
def Mach.branchTo (s : Mach) (len : Nat) (off : Int) : Nat := (((s.baseWord len : Nat) + 2 * off) % (2 ^ 64 : Nat)).toNat

/-! Signed minimum and maximum (R93, R101). -/
def minS (x y : Word) : Word := if x.toInt < y.toInt then x else y
def maxS (x y : Word) : Word := if x.toInt < y.toInt then y else x

/-! Special registers. -/

/-- R26: the code of a queue binding's kind. -/
def QKind.code : QKind → Nat
  | .chan => 0
  | .pool => 1
  | .port => 2

def SKind.code : SKind → Nat
  | .chan => 0
  | .pattern => 1
  | .reply => 2

/-- Sum over indices below n. -/
def sumBelow (n : Nat) (f : Nat → Nat) : Nat := ((List.range n).map f).foldl (· + ·) 0

def Ctx.qb (c : Ctx) (i : Nat) : Option QBind := (c.q[i]?).join
def Ctx.stream (c : Ctx) (j : Nat) : Stream := c.streams[j]?.getD {}
def Ctx.setStream (c : Ctx) (j : Nat) (x : Stream) : Ctx := { c with streams := c.streams.setIfInBounds j x }
def Ctx.fig (c : Ctx) (n : Nat) : Option (BitVec 12) := (c.figs[n]?).join

/-- R26: qmap. -/
def Ctx.qmap (c : Ctx) : Word := BitVec.ofNat 64 (sumBelow 16 fun i => match c.qb i with
  | none => 0
  | some b => b.kind.code * 2 ^ (32 + 2 * i) + (if b.write then 2 else 1) * 2 ^ (2 * i))

/-- R26: smode. -/
def Ctx.smode (c : Ctx) : Word := BitVec.ofNat 64 (sumBelow 8 fun j =>
  let x := c.stream j
  if x.on then 2 ^ j + x.sink.toNat * 2 ^ (8 + j) + x.kind.code * 2 ^ (16 + 2 * j) else 0)

/-- R26: mstate. -/
def Ctx.mstate (c : Ctx) : Word := BitVec.ofNat 64 (c.mAllow % 256 * 2 ^ 8 + c.mN % 64 * 2 + c.mOn.toNat)

/-- R28: ctxid. -/
def Ctx.ctxid (c : Ctx) : Word := match c.place with
  | none => 0
  | some p => BitVec.ofNat 64 (dieOf (tileNo p.x p.y) * 2 ^ 32 + p.y % 64 * 2 ^ 16 + p.x % 128 * 2 ^ 8 + p.ctx % 8)

/-- R21: procid. -/
def Ctx.procid (c : Ctx) : Word := BitVec.ofNat 64 (c.nid.toNat * 2 ^ 16 + c.idx.toNat)

/-- R21: lap. -/
def Ctx.lap (c : Ctx) : Word := BitVec.ofNat 64 (c.lapPos % 2 ^ 17 * 2 ^ 32 + c.lapLen % 2 ^ 17)

/-- R30, R232: the numbers bound, and fgmap. -/
def Ctx.figBound (c : Ctx) : Nat := ((List.range 64).filter fun n => (c.fig n).isSome).length
def Ctx.fgmap (c : Ctx) : Word := BitVec.ofNat 64 (c.figBound * 2 ^ 8 + c.part.toNat)

/-- R21: a special register as `mfs` reads it; none above 0x1F. -/
def Ctx.special (c : Ctx) (n : Nat) : Option Word := match n with
  | 0x00 => some (BitVec.ofNat 64 c.vl)
  | 0x01 => some (c.vtype.zeroExtend 64)
  | 0x02 => some (BitVec.ofNat 64 c.vlmax)
  | 0x03 => some (c.keep.zeroExtend 64)
  | 0x04 => some c.stripset
  | 0x05 => some (c.share.zeroExtend 64)
  | 0x06 => some c.ctxid
  | 0x07 => some c.procid
  | 0x08 => some c.cycle
  | 0x09 => some c.retired
  | 0x0A => some c.lap
  | 0x0B => some c.rngctl
  | 0x0C => some (c.fpflags.zeroExtend 64)
  | 0x0D => some (c.fptrap.zeroExtend 64)
  | 0x0E => some c.qmap
  | 0x0F => some c.smode
  | 0x10 => some c.mstate
  | 0x11 => some (c.tcause.zeroExtend 64)
  | 0x12 => some c.tpc
  | 0x13 => some c.tval
  | 0x14 => some c.tinfo
  | 0x15 => some c.tvec
  | 0x16 => some (BitVec.ofNat 64 (c.lvl.toNat * 4 + c.act.toNat))
  | 0x17 => some c.tdeleg
  | 0x18 => some c.win[0]
  | 0x19 => some c.win[1]
  | 0x1A => some c.win[2]
  | 0x1B => some c.win[3]
  | 0x1C => some c.fgmap
  | 0x1D => some c.quota
  | 0x1E => some (BitVec.ofNat 64 (c.replay.toNat * 2 ^ 32 + c.seedSeq.toNat))
  | 0x1F => some (BitVec.ofNat 64 (c.dgDone.toNat * 2 + c.dgOn.toNat))
  | _ => none

/-- R21: who may write a special register. -/
inductive SrAccess where
  | readOnly | process | tenant | device
  deriving DecidableEq, Repr

def srAccess (n : Nat) : SrAccess :=
  if [0x04, 0x0C, 0x0D, 0x12, 0x15, 0x16, 0x17].contains n then .process
  else if [0x05, 0x0B, 0x18, 0x19, 0x1A, 0x1B].contains n then .tenant
  else if n = 0x1D then .device
  else .readOnly

/-- R31: a window as it is held: reserved bits zero, base and limit multiples of 64, no export of win1 and win3. -/
def windowBits (i : Nat) (w : Word) : Word :=
  w &&& (if i = 1 || i = 3 then 0x0007FFFFC0FFFFC0 else 0x000FFFFFC0FFFFC0)

/-- R29: the causes that are always handled outside the context read as 1. -/
def tdelegBits (w : Word) : Word := (w &&& 0x1FFFFFFE) ||| 0x03A00000

/-- R92: the write of a special register that a level may write; reserved fields are ignored. -/
def Ctx.setSpecial (c : Ctx) (n : Nat) (w : Word) : Ctx := match n with
  | 0x04 => { c with stripset := w &&& 0x1FFFFFFFFF }
  | 0x05 => { c with share := w.truncate 4 }
  | 0x0B => { c with rngctl := w }
  | 0x0C => { c with fpflags := w.truncate 5 }
  | 0x0D => { c with fptrap := w.truncate 5 }
  | 0x12 => { c with tpc := w &&& 0xFFFFFFFFFFFFFFFE }
  | 0x15 => { c with tvec := w &&& 0xFFFFFFFFFFFFFFFE }
  | 0x16 => { c with act := w.getLsbD 0 }
  | 0x17 => { c with tdeleg := tdelegBits w }
  | 0x18 => { c with win := c.win.setIfInBounds 0 (windowBits 0 w) }
  | 0x19 => { c with win := c.win.setIfInBounds 1 (windowBits 1 w) }
  | 0x1A => { c with win := c.win.setIfInBounds 2 (windowBits 2 w) }
  | 0x1B => { c with win := c.win.setIfInBounds 3 (windowBits 3 w) }
  | _ => c

end Sys2Proof.Machine
end

