-- ==== Sys2Proof/Machine/Scalar.lean ====
section
/-! DEFINITION. System instructions (R87 to R92), integer arithmetic (R93 to R96) and branches (R102 to R104). -/

namespace Sys2Proof.Machine

/-! System instructions. -/

/-- R88. -/
def execNop (x : F2) (s : State) : Host.Outcome State Fault Refusal := plain x.len s id

def execIfsync (x : F2) (s : State) : Host.Outcome State Fault Refusal :=
  chain x.len s fun m => .ok { m := m, flush := true }

/-- R90: a trap whose saved pc is the next chain. -/
def softTrap (cause : Nat) (x : F2) (s : State) : Host.Outcome State Fault Refusal :=
  chain x.len s fun _ => raise { cause := cause, value := BitVec.ofNat 64 x.aImm, whole := true }

def execSvc (x : F2) (s : State) : Host.Outcome State Fault Refusal := softTrap 0x13 x s
def execBrk (x : F2) (s : State) : Host.Outcome State Fault Refusal := softTrap 0x14 x s

/-- R195: the lowest tag of a channel that holds a write error. -/
def Mq.heldTag (m : Mq) : Option Nat := (List.range 8).find? fun t => (m.tag t).kind == .held

/-- R195: a held tag is delivered: the error is cleared and the tag freed. -/
def Mq.deliver (m : Mq) (t : Nat) : Mq := m.setTag t { kind := .free }

/-- R195, R196: the trap of a held write error, tag errors of mq0, then of mq1, then the error held on mq1. -/
def Mach.heldWrites (s : Mach) : Try Unit :=
  match s.ctx.mq0.heldTag, s.ctx.mq1.heldTag, s.ctx.mq1Err with
  | some t, _, _ =>
    let x := s.ctx.mq0.tag t
    .error (.trapIn (memTrap x.cause x.reason x.value) { s with ctx := { s.ctx with mq0 := s.ctx.mq0.deliver t } })
  | none, some t, _ =>
    let x := s.ctx.mq1.tag t
    .error (.trapIn (memTrap x.cause x.reason x.value) { s with ctx := { s.ctx with mq1 := s.ctx.mq1.deliver t } })
  | none, none, some t => .error (.trapIn t { s with ctx := { s.ctx with mq1Err := none } })
  | none, none, none => .ok ()

/-- R91, R195: what the fence still waits for: requests that have not reached their servers, which stand behind one at the host
bridge; and host-shared writes whose acknowledgement is open, every one for the host scope, those of packets for any scope. -/
def Mach.fenceOpen (s : Mach) (scope : Nat) : Bool :=
  s.reqs.any fun r => r.proc == s.self &&
    if r.host then r.stage != .answered && (scope == 3 || r.tag.isSome) else !r.reached

/-- R91, R195: `fence.s`. -/
def fence (x : F2) (s : Mach) : Try Done := do
  let s := (s.drainTiles s.self none).drainReqs s.self fun _ => true
  if s.fenceOpen x.pre.sub then engineWait s
  s.heldWrites
  .ok { m := s }

def execFence (x : F2) (s : State) : Host.Outcome State Fault Refusal := chain x.len s (fence x)

/-- R92: `mfs`. -/
def readSpecial (x : F2) (s : Mach) : Try Done := match s.ctx.special x.aImm with
  | some w => .ok { m := s.setG x.dN w }
  | none => illegal 0x11 (BitVec.ofNat 64 x.aImm)

def execMfs (x : F2) (s : State) : Host.Outcome State Fault Refusal := chain x.len s (readSpecial x)

/-- R92, R21: `mts`. -/
def writeSpecial (x : F2) (s : Mach) : Try Done :=
  if 0x1F < x.aImm then illegal 0x11 (BitVec.ofNat 64 x.aImm)
  else match srAccess x.aImm with
    | .readOnly => illegal 0x0E (BitVec.ofNat 64 x.aImm)
    | .device => raise { cause := 0x02, value := Config.unstatedTval s.ctx.freeKey }
    | .tenant => do
      needTenant s
      .ok { m := { s with ctx := s.ctx.setSpecial x.aImm (s.g x.dN) } }
    | .process => .ok { m := { s with ctx := s.ctx.setSpecial x.aImm (s.g x.dN) } }

def execMts (x : F2) (s : State) : Host.Outcome State Fault Refusal := chain x.len s (writeSpecial x)

/-! Integer arithmetic. -/

/-- R93: a 2/3 instruction. -/
def alu (x : F2) (s : State) (f : Word → Word → Word) : Host.Outcome State Fault Refusal :=
  plain x.len s fun m => m.setG x.dN (f (m.xOf x) (m.yOf x))

def flag (b : Bool) : Word := if b then 1 else 0

/-- R94: the quotients and remainders of the divider. -/
def quotS (x y : Word) : Word := if y = 0 then BitVec.allOnes 64 else BitVec.ofInt 64 (x.toInt.tdiv y.toInt)
def quotU (x y : Word) : Word := if y = 0 then BitVec.allOnes 64 else BitVec.ofNat 64 (x.toNat / y.toNat)
def remS (x y : Word) : Word := x - quotS x y * y
def remU (x y : Word) : Word := x - quotU x y * y




/-- R93: the high half of a product of exact integers. -/
def highHalf (x y : Int) : Word := BitVec.ofInt 64 (x * y / 2 ^ 64)

def execAdd (x : F2) (s : State) : Host.Outcome State Fault Refusal := alu x s fun a b => a + b
def execSub (x : F2) (s : State) : Host.Outcome State Fault Refusal := alu x s fun a b => a - b
def execAnd (x : F2) (s : State) : Host.Outcome State Fault Refusal := alu x s fun a b => a &&& b
def execOr (x : F2) (s : State) : Host.Outcome State Fault Refusal := alu x s fun a b => a ||| b
def execXor (x : F2) (s : State) : Host.Outcome State Fault Refusal := alu x s fun a b => a ^^^ b
def execSll (x : F2) (s : State) : Host.Outcome State Fault Refusal := alu x s fun a b => a <<< (b.toNat % 64)
def execSrl (x : F2) (s : State) : Host.Outcome State Fault Refusal := alu x s fun a b => a >>> (b.toNat % 64)
def execSra (x : F2) (s : State) : Host.Outcome State Fault Refusal := alu x s fun a b => a.sshiftRight (b.toNat % 64)
def execMul (x : F2) (s : State) : Host.Outcome State Fault Refusal := alu x s fun a b => a * b
def execMulh (x : F2) (s : State) : Host.Outcome State Fault Refusal := alu x s fun a b => highHalf a.toInt b.toInt
def execMulhu (x : F2) (s : State) : Host.Outcome State Fault Refusal := alu x s fun a b => highHalf a.toNat b.toNat
def execMulhsu (x : F2) (s : State) : Host.Outcome State Fault Refusal := alu x s fun a b => highHalf a.toInt b.toNat
def execDiv (x : F2) (s : State) : Host.Outcome State Fault Refusal := alu x s quotS
def execDivu (x : F2) (s : State) : Host.Outcome State Fault Refusal := alu x s quotU
def execRem (x : F2) (s : State) : Host.Outcome State Fault Refusal := alu x s remS
def execRemu (x : F2) (s : State) : Host.Outcome State Fault Refusal := alu x s remU
def execSeq (x : F2) (s : State) : Host.Outcome State Fault Refusal := alu x s fun a b => flag (a == b)
def execSne (x : F2) (s : State) : Host.Outcome State Fault Refusal := alu x s fun a b => flag (a != b)
def execSlt (x : F2) (s : State) : Host.Outcome State Fault Refusal := alu x s fun a b => flag (a.toInt < b.toInt)
def execSltu (x : F2) (s : State) : Host.Outcome State Fault Refusal := alu x s fun a b => flag (a.toNat < b.toNat)
def execSge (x : F2) (s : State) : Host.Outcome State Fault Refusal := alu x s fun a b => flag (b.toInt ≤ a.toInt)
def execSgeu (x : F2) (s : State) : Host.Outcome State Fault Refusal := alu x s fun a b => flag (b.toNat ≤ a.toNat)
def execMin (x : F2) (s : State) : Host.Outcome State Fault Refusal := alu x s minS
def execMax (x : F2) (s : State) : Host.Outcome State Fault Refusal := alu x s maxS

/-- R96: an FI instruction on g(d) and the sign-extended immediate. -/
def aluImm (x : FI) (s : State) (f : Word → Word → Word) : Host.Outcome State Fault Refusal :=
  plain x.len s fun m => m.setG x.dN (f (m.g x.dN) (wordOfInt x.immV))

def execAddi (x : FI) (s : State) : Host.Outcome State Fault Refusal := aluImm x s fun a b => a + b
def execMovi (x : FI) (s : State) : Host.Outcome State Fault Refusal := aluImm x s fun _ b => b
def execAndi (x : FI) (s : State) : Host.Outcome State Fault Refusal := aluImm x s fun a b => a &&& b

/-- R95: a shift by the a-immediate; counts above 63 are illegal. -/
def shiftImm (x : F2) (s : State) (f : Word → Nat → Word) : Host.Outcome State Fault Refusal :=
  chain x.len s fun m =>
    if 63 < x.aImm then illegal 0x0C (BitVec.ofNat 64 x.aImm)
    else .ok { m := m.setG x.dN (f (m.g x.dN) x.aImm) }

def execSlli (x : F2) (s : State) : Host.Outcome State Fault Refusal := shiftImm x s fun a n => a <<< n
def execSrli (x : F2) (s : State) : Host.Outcome State Fault Refusal := shiftImm x s fun a n => a >>> n
def execSrai (x : F2) (s : State) : Host.Outcome State Fault Refusal := shiftImm x s fun a n => a.sshiftRight n

/-- R95: leading zero, trailing zero and one bits. -/
def clz64 (w : Word) : Nat := 64 - bitLen w.toNat
def ctz64 (w : Word) : Nat := ((List.range 64).find? fun i => w.getLsbD i).getD 64
def popc64 (w : Word) : Nat := popCount 64 w.toNat

/-- R95: a one-operand instruction. -/
def unary (x : F2) (s : State) (f : Word → Word) : Host.Outcome State Fault Refusal :=
  plain x.len s fun m => m.setG x.dN (f (m.g x.aN))

def execClz (x : F2) (s : State) : Host.Outcome State Fault Refusal := unary x s fun a => BitVec.ofNat 64 (clz64 a)
def execCtz (x : F2) (s : State) : Host.Outcome State Fault Refusal := unary x s fun a => BitVec.ofNat 64 (ctz64 a)
def execPopc (x : F2) (s : State) : Host.Outcome State Fault Refusal := unary x s fun a => BitVec.ofNat 64 (popc64 a)
def execSextw (x : F2) (s : State) : Host.Outcome State Fault Refusal := unary x s fun a => (a.truncate 32).signExtend 64
def execZextw (x : F2) (s : State) : Host.Outcome State Fault Refusal := unary x s fun a => (a.truncate 32).zeroExtend 64

/-! Branches. -/

/-- A branch that is taken or falls through. -/
def branch (taken : Bool) (t : Nat) (m : Mach) : Done := { m := m, target := if taken then some t else none }

def execBeqz (x : FB) (s : State) : Host.Outcome State Fault Refusal :=
  chain x.len s fun m => .ok (branch (m.g x.aN == 0) (m.branchTo x.len x.offV) m)
def execBnez (x : FB) (s : State) : Host.Outcome State Fault Refusal :=
  chain x.len s fun m => .ok (branch (m.g x.aN != 0) (m.branchTo x.len x.offV) m)
def execJ (x : FJ) (s : State) : Host.Outcome State Fault Refusal :=
  chain x.len s fun m => .ok (branch true (m.branchTo x.len x.offV) m)

/-- R102: B + 2 in g1. -/
def Mach.link (m : Mach) (len : Nat) : Mach := m.setG 1 (BitVec.ofNat 64 (m.baseWord len + 2))

def execCall (x : FJ) (s : State) : Host.Outcome State Fault Refusal :=
  chain x.len s fun m => .ok (branch true (m.branchTo x.len x.offV) (m.link x.len))

/-- R103: a register target; `opnd` is a, or none for `ret`. -/
def checkTarget (t : Word) (opnd : Nat) : Try Unit :=
  if t.toNat % 2 ≠ 0 then raise { cause := 0x03, opnd := opnd, value := t }
  else if t.toNat / 2 ^ 24 ≠ 0 then raise { cause := 0x04, reason := 0x03, opnd := opnd, value := t }
  else .ok ()

def jumpTo (t : Word) (opnd : Nat) (m : Mach) : Try Done := do
  checkTarget t opnd
  .ok (branch true t.toNat m)

def execJr (x : F2) (s : State) : Host.Outcome State Fault Refusal :=
  chain x.len s fun m => jumpTo (m.g x.aN) 2 m
def execCallr (x : F2) (s : State) : Host.Outcome State Fault Refusal :=
  chain x.len s fun m => jumpTo (m.g x.aN) 2 (m.link x.len)
def execRet (x : F2) (s : State) : Host.Outcome State Fault Refusal :=
  chain x.len s fun m => jumpTo (m.g 1) 0 m

/-- R104: is some bit of p(a) below vl set. -/
def Mach.someBit (m : Mach) (n : Nat) : Bool := (m.p n).toNat % 2 ^ m.ctx.vl != 0

/-- R327: poison in a predicate that is read as a source. -/
def Mach.cleanP (m : Mach) (n opnd : Nat) : Try Unit :=
  if n = 0 then .ok () else
    let bad := m.ctx.pBad[n]?.getD 0
    if bad = 0 then .ok ()
    else raise { cause := 0x16, reason := 0x03, opnd := opnd, value := BitVec.ofNat 64 n, elem := (firstBelow 16 bad.getLsbD).getD 0 * 64 }

def predBranch (x : F2) (want : Bool) (m : Mach) : Try Done := do
  m.cleanP x.aN 2
  .ok (branch (m.someBit x.aN == want) (m.branchTo x.len x.s) m)

def execBpt (x : F2) (s : State) : Host.Outcome State Fault Refusal := chain x.len s (predBranch x true)
def execBpf (x : F2) (s : State) : Host.Outcome State Fault Refusal := chain x.len s (predBranch x false)

end Sys2Proof.Machine
end

