-- ==== Sys2Proof/Machine/Number.lean ====
section
/-! DEFINITION. Number formats and exact arithmetic (R65 to R85): formats, decoding, one rounding function, exact sums,
products, quotients and roots, compensated steps, block scales, slices, and the random generator (R223). -/

namespace Sys2Proof.Machine

/-! Formats. -/

/-- R65, R66: the element formats by their code. -/
inductive Fmt where
  | int8 | uint8 | int16 | int32 | int64 | fp4 | fp8e4 | fp8e5 | bf16 | fp16 | fp32 | fp64 | f64s
  deriving DecidableEq, Repr

def Fmt.ofCode : Nat → Option Fmt
  | 0 => some .int8
  | 1 => some .uint8
  | 2 => some .int16
  | 3 => some .int32
  | 4 => some .int64
  | 5 => some .fp4
  | 6 => some .fp8e4
  | 7 => some .fp8e5
  | 8 => some .bf16
  | 9 => some .fp16
  | 10 => some .fp32
  | 11 => some .fp64
  | 12 => some .f64s
  | _ => none

/-- R17: element width. -/
def Fmt.width : Fmt → Nat
  | .int8 => 8
  | .uint8 => 8
  | .int16 => 16
  | .int32 => 32
  | .int64 => 64
  | .fp4 => 4
  | .fp8e4 => 8
  | .fp8e5 => 8
  | .bf16 => 16
  | .fp16 => 16
  | .fp32 => 32
  | .fp64 => 64
  | .f64s => 64

/-- R115: the sets I and F. -/
def Fmt.isInt : Fmt → Bool
  | .int8 => true
  | .uint8 => true
  | .int16 => true
  | .int32 => true
  | .int64 => true
  | _ => false

def Fmt.isFloat : Fmt → Bool
  | .fp8e4 => true
  | .fp8e5 => true
  | .bf16 => true
  | .fp16 => true
  | .fp32 => true
  | .fp64 => true
  | _ => false

def Fmt.signedInt (f : Fmt) : Bool := f.isInt && f != .uint8

/-- R66: exponent and fraction widths. -/
def Fmt.ew : Fmt → Nat
  | .fp4 => 2
  | .fp8e4 => 4
  | .fp8e5 => 5
  | .bf16 => 8
  | .fp16 => 5
  | .fp32 => 8
  | _ => 11

def Fmt.fw : Fmt → Nat
  | .fp4 => 1
  | .fp8e4 => 3
  | .fp8e5 => 2
  | .bf16 => 7
  | .fp16 => 10
  | .fp32 => 23
  | _ => 52

def Fmt.bias (f : Fmt) : Nat := 2 ^ (f.ew - 1) - 1

/-- R67: formats with infinities. -/
def Fmt.hasInf : Fmt → Bool
  | .fp4 => false
  | .fp8e4 => false
  | _ => true

/-- R66: exponent of the last place of the smallest numbers. -/
def Fmt.emin (f : Fmt) : Int := 1 - (f.bias : Int) - f.fw

/-- R66: the largest finite code without its sign, and its significand and exponent. -/
def Fmt.maxCode (f : Fmt) : Nat := match f with
  | .fp4 => 0x7
  | .fp8e4 => 0x7E
  | _ => (2 ^ f.ew - 1) * 2 ^ f.fw - 1

/-- R66: canonical NaN; +0 where the format has none (R75). -/
def Fmt.nan (f : Fmt) : Nat := match f with
  | .fp4 => 0
  | .fp8e4 => 0x7F
  | _ => (2 ^ f.ew - 1) * 2 ^ f.fw + 2 ^ (f.fw - 1)

def Fmt.infCode (f : Fmt) (neg : Bool) : Nat := neg.toNat * 2 ^ (f.width - 1) + (2 ^ f.ew - 1) * 2 ^ f.fw

/-! Values. -/

/-- The number ±m × 2^e; with `st`, a number strictly between m and m + 1 such units. -/
structure Fx where
  neg : Bool
  m   : Nat
  e   : Int
  st  : Bool := false
  deriving DecidableEq, Repr

/-- A decoded element: a number, an infinity, a NaN with whether it is signalling (R75). -/
inductive Fl where
  | num (x : Fx)
  | inf (neg : Bool)
  | nan (sig : Bool)
  deriving DecidableEq, Repr

/-- R76: exception sets in the layout of fpflags (R27). -/
def fNv : Nat := 1
def fDz : Nat := 2
def fOf : Nat := 4
def fUf : Nat := 8
def fNx : Nat := 16

/-- A result before rounding, with the exceptions of the operation. -/
structure Ex where
  v : Fl
  fl : Nat := 0
  deriving DecidableEq, Repr

def Fx.zero (neg : Bool) : Fx := { neg := neg, m := 0, e := 0 }
def Fx.isZero (x : Fx) : Bool := x.m == 0 && !x.st
def Fx.ofInt (i : Int) : Fx := { neg := i < 0, m := i.natAbs, e := 0 }

/-- R66, R67: decoding. -/
def decodeF (f : Fmt) (bits : Nat) : Fl :=
  let neg := bits / 2 ^ (f.width - 1) % 2 == 1
  let e := bits / 2 ^ f.fw % 2 ^ f.ew
  let fr := bits % 2 ^ f.fw
  if f.hasInf && e = 2 ^ f.ew - 1 then
    if fr = 0 then .inf neg else .nan (fr / 2 ^ (f.fw - 1) == 0)
  else if f == .fp8e4 && e = 15 && fr = 7 then .nan false
  else if e = 0 then .num { neg := neg, m := fr, e := f.emin }
  else .num { neg := neg, m := 2 ^ f.fw + fr, e := f.emin + (e - 1) }

/-! Rounding (R73, R74). -/

/-- Is the next code farther from zero chosen: n is the truncated significand, rem / 2^sh the part dropped. -/
def roundUp (rm draw : Nat) (neg : Bool) (n rem sh : Nat) (st : Bool) : Bool :=
  let inexact := rem != 0 || st
  match rm with
  | 0 => 2 * rem > 2 ^ sh || (2 * rem == 2 ^ sh && (st || n % 2 == 1))
  | 1 => false
  | 2 => neg && inexact
  | 3 => !neg && inexact
  | 4 => 2 * rem ≥ 2 ^ sh
  | _ => draw < rem * 2 ^ 32 / 2 ^ sh

/-- The significand at quantum q and whether anything was dropped. -/
def roundAt (rm draw : Nat) (x : Fx) (q : Int) : Nat × Bool :=
  let sh := q - x.e
  if sh ≤ 0 then (x.m * 2 ^ (-sh).toNat, x.st)
  else
    let k := sh.toNat
    let n := x.m / 2 ^ k
    let rem := x.m % 2 ^ k
    let up := if k = 0 then false else roundUp rm draw x.neg n rem k x.st
    (n + up.toNat, rem != 0 || x.st)

/-- The code of the significand n at quantum q ≥ emin, n at most 2^(fw + 1). -/
def codeOf (f : Fmt) (n : Nat) (q : Int) : Nat :=
  let n' := if n = 2 ^ (f.fw + 1) then n / 2 else n
  let q' := if n = 2 ^ (f.fw + 1) then q + 1 else q
  if n' < 2 ^ f.fw then n' else (q' - f.emin + 1).toNat * 2 ^ f.fw + (n' - 2 ^ f.fw)

/-- R73: what an overflow gives. -/
def overflowCode (f : Fmt) (rm : Nat) (neg : Bool) : Nat :=
  if !f.hasInf then f.maxCode
  else match rm with
    | 1 => f.maxCode
    | 2 => if neg then f.infCode false else f.maxCode
    | 3 => if neg then f.maxCode else f.infCode false
    | _ => f.infCode false

/-- R73, R76: RoundTo with the exceptions it raises. -/
def roundTo (f : Fmt) (rm draw : Nat) (x : Fx) : Nat × Nat :=
  let sign := x.neg.toNat * 2 ^ (f.width - 1)
  if x.isZero then (sign, 0)
  else
    let qu : Int := x.e + bitLen x.m - (f.fw + 1)
    let q := max qu f.emin
    let (n, inex) := roundAt rm draw x q
    let c := codeOf f n q
    if n != 0 && c > f.maxCode then (sign + overflowCode f rm x.neg, fOf + fNx)
    else
      let (nu, _) := roundAt rm draw x qu
      let tiny := qu < f.emin && nu * 2 ^ (qu - (qu - f.fw - 1)).toNat < 2 ^ (f.emin + f.fw - (qu - f.fw - 1)).toNat
      (sign + c, (if tiny && inex then fUf else 0) + (if inex then fNx else 0))

/-- A result rounded into a format: NaNs become the canonical NaN, infinities saturate where the format has none. -/
def Ex.round (f : Fmt) (rm draw : Nat) (r : Ex) : Nat × Nat := match r.v with
  | .num x => let (c, fl) := roundTo f rm draw x; (c, fl ||| r.fl)
  | .inf neg => if f.hasInf then (f.infCode neg, r.fl)
      else (neg.toNat * 2 ^ (f.width - 1) + f.maxCode, r.fl ||| fOf ||| fNx)
  | .nan _ => if f == .fp4 then (0, r.fl ||| fNv) else (f.nan, r.fl)

/-! Exact operations. -/

def nvNan : Ex := { v := .nan false, fl := fNv }

/-- R75: the exceptions of NaN operands. -/
def sigFlag (a : Fl) : Nat := match a with
  | .nan true => fNv
  | _ => 0

def Fl.isNan : Fl → Bool
  | .nan _ => true
  | _ => false

def Fl.neg : Fl → Fl
  | .num x => .num { x with neg := !x.neg }
  | .inf n => .inf (!n)
  | .nan s => .nan s

def Fl.isNeg : Fl → Bool
  | .num x => x.neg
  | .inf n => n
  | .nan _ => false

def Fl.abs : Fl → Fl
  | .num x => .num { x with neg := false }
  | .inf _ => .inf false
  | .nan s => .nan s

/-- The signed significand at an exponent not above the number's own. -/
def Fx.at (x : Fx) (e : Int) : Int := (if x.neg then -1 else 1) * ((x.m * 2 ^ (x.e - e).toNat : Nat) : Int)

/-- R73: an exact sum, with the sign rule of zero sums; `down` is rounding toward −∞. -/
def Fx.add (down : Bool) (a b : Fx) : Fx :=
  let e := min a.e b.e
  let t := a.at e + b.at e
  if t = 0 then Fx.zero (if a.isZero && b.isZero && a.neg == b.neg then a.neg else down)
  else { neg := t < 0, m := t.natAbs, e := e }

def Fx.mul (a b : Fx) : Fx := { neg := a.neg != b.neg, m := a.m * b.m, e := a.e + b.e }

/-- Comparison of numbers. -/
def Fx.lt (a b : Fx) : Bool := let e := min a.e b.e; a.at e < b.at e
def Fx.eq (a b : Fx) : Bool := let e := min a.e b.e; a.at e == b.at e

def fAdd (rm : Nat) (a b : Fl) : Ex := match a, b with
  | .nan s, _ => { v := .nan false, fl := sigFlag (.nan s) ||| sigFlag b }
  | _, .nan s => { v := .nan false, fl := sigFlag (.nan s) }
  | .inf x, .inf y => if x == y then { v := .inf x } else nvNan
  | .inf x, _ => { v := .inf x }
  | _, .inf y => { v := .inf y }
  | .num x, .num y => { v := .num (x.add (rm == 2) y) }

def fMul (a b : Fl) : Ex := match a, b with
  | .nan s, _ => { v := .nan false, fl := sigFlag (.nan s) ||| sigFlag b }
  | _, .nan s => { v := .nan false, fl := sigFlag (.nan s) }
  | .inf x, .inf y => { v := .inf (x != y) }
  | .inf x, .num y => if y.isZero then nvNan else { v := .inf (x != y.neg) }
  | .num x, .inf y => if x.isZero then nvNan else { v := .inf (x.neg != y) }
  | .num x, .num y => { v := .num (x.mul y) }

/-- A fused multiply-add: the exact a × b + c, for one rounding. -/
def fFma (rm : Nat) (a b c : Fl) : Ex :=
  let p := fMul a b
  let r := fAdd rm p.v c
  { v := r.v, fl := r.fl ||| p.fl ||| sigFlag c }

/-- A quotient to more bits than any format holds, the rest as `st`. -/
def Fx.div (a b : Fx) : Fx :=
  let k := 192 + bitLen b.m
  { neg := a.neg != b.neg, m := a.m * 2 ^ k / b.m, e := a.e - b.e - k, st := a.m * 2 ^ k % b.m != 0 }

def fDiv (a b : Fl) : Ex := match a, b with
  | .nan s, _ => { v := .nan false, fl := sigFlag (.nan s) ||| sigFlag b }
  | _, .nan s => { v := .nan false, fl := sigFlag (.nan s) }
  | .inf _, .inf _ => nvNan
  | .inf x, .num y => { v := .inf (x != y.neg) }
  | .num x, .inf y => { v := .num (Fx.zero (x.neg != y)) }
  | .num x, .num y =>
    if y.isZero then (if x.isZero then nvNan else { v := .inf (x.neg != y.neg), fl := fDz })
    else if x.isZero then { v := .num (Fx.zero (x.neg != y.neg)) }
    else { v := .num (x.div y) }

/-- The integer square root, bit by bit from 2^n down. -/
def isqrtFrom : Nat → Nat → Nat → Nat
  | 0, _, r => r
  | n + 1, x, r => let t := r + 2 ^ n; isqrtFrom n x (if t * t ≤ x then t else r)

def isqrt (x : Nat) : Nat := isqrtFrom ((bitLen x + 1) / 2 + 1) x 0

/-- The square root of m × 2^e for m ≠ 0. -/
def sqrtFx (m : Nat) (e : Int) : Fx :=
  let k : Nat := 200 + (e % 2).toNat
  let x := m * 2 ^ k
  let r := isqrt x
  { neg := false, m := r, e := (e - k) / 2, st := r * r != x }

def fSqrt (a : Fl) : Ex := match a with
  | .nan s => { v := .nan false, fl := sigFlag (.nan s) }
  | .inf true => nvNan
  | .inf false => { v := .inf false }
  | .num x => if x.isZero then { v := .num x } else if x.neg then nvNan else { v := .num (sqrtFx x.m x.e) }

/-! Integers. -/

def intOf (f : Fmt) (bits : Nat) : Int := if f.signedInt then signed f.width bits else bits
def patOf (w : Nat) (i : Int) : Nat := (i % (2 ^ w : Nat)).toNat

def Fmt.intMin (f : Fmt) : Int := if f.signedInt then -(2 ^ (f.width - 1) : Nat) else 0
def Fmt.intMax (f : Fmt) : Int := if f.signedInt then (2 ^ (f.width - 1) : Nat) - 1 else (2 ^ f.width : Nat) - 1

/-- R76: rounding to an integer and saturating it, nv for a NaN, an infinity or a value out of range. -/
def toIntFmt (f : Fmt) (rm draw : Nat) (a : Fl) : Nat × Nat := match a with
  | .nan _ => (0, fNv)
  | .inf neg => (patOf f.width (if neg then f.intMin else f.intMax), fNv)
  | .num x =>
    let (n, inex) := roundAt rm draw x 0
    let i : Int := if x.neg then -n else n
    if i < f.intMin then (patOf f.width f.intMin, fNv)
    else if f.intMax < i then (patOf f.width f.intMax, fNv)
    else (patOf f.width i, if inex then fNx else 0)

/-! FP32 steps of the matrix engine (R79 to R82), on bit patterns. -/

def f32 (b : Nat) : Fl := decodeF .fp32 b
def round32 (r : Ex) : Nat × Nat := r.round .fp32 0 0
def add32 (a b : Nat) : Nat × Nat := round32 (fAdd 0 (f32 a) (f32 b))
def sub32 (a b : Nat) : Nat × Nat := round32 (fAdd 0 (f32 a) (f32 b).neg)

def finite32 (b : Nat) : Bool := match f32 b with
  | .num _ => true
  | _ => false

/-- R79: one compensated step; the flags are nv and of of t, and nv of a signalling NaN in err (R81, R76). -/
def compAdd (s err p : Nat) : Nat × Nat × Nat :=
  let (t, fl) := add32 s p
  if !finite32 t then (t, 0, fl &&& (fNv ||| fOf))
  else
    let z := (sub32 t s).1
    let d := (add32 (sub32 s (sub32 t z).1).1 (sub32 p z).1).1
    (t, (add32 err d).1, (fl &&& (fNv ||| fOf)) ||| sigFlag (f32 err))

/-- R82: the fold of a pair. -/
def fold32 (s err : Nat) : Nat := if finite32 s then (add32 s err).1 else s

/-! Scaled FP4 (R69, R70, R72). -/

/-- R69: the value of a block scale. -/
def scaleFx (code : Nat) : Fx :=
  let e := code / 32 % 8
  let m := code % 32
  if e = 0 then { neg := false, m := m, e := -7 } else { neg := false, m := 32 + m, e := (e : Int) - 8 }

/-- R72: the smallest block scale at or above a number. -/
def scaleAbove (x : Fx) : Nat := ((List.range 256).find? fun c => !(Fx.lt (scaleFx c) x)).getD 255

/-! Slices (R84, R85). -/

/-- R84: seven balanced base-256 digits, lowest first. -/
def digitsFrom : Nat → Int → List Int
  | 0, _ => []
  | k + 1, y => let c := (y + 128) % 256 - 128; c :: digitsFrom k ((y - c) / 256)

/-- R84: the kept part Yn of a number's digits, as the number they denote. -/
def sliced (slc : Nat) (x : Fx) : Fx :=
  if x.isZero then x else
  let ds := (digitsFrom 7 (x.at x.e * 2)).reverse
  let y : Int := ((List.range slc).map fun j => (ds[j]?.getD 0) * (256 : Int) ^ (6 - j)).foldl (· + ·) 0
  if y = 0 then Fx.zero x.neg else { neg := y < 0, m := y.natAbs, e := x.e - 1 }

/-! The random generator (R223). -/

def rotl32 (x k : Nat) : Nat := rotl 32 x k

/-- One round: the state words, the key words, the round's number. -/
def genRound (k : Nat → Nat) (j : Nat) (x : Nat × Nat × Nat × Nat) : Nat × Nat × Nat × Nat :=
  let m := 2 ^ 32
  let ka := (k (j % 4) + j * 0x9E3779B9) % m
  let kb := Nat.xor (k ((j + 2) % 4)) (j * 0x85EBCA6B % m)
  let (x0, x1, x2, x3) := x
  let x0 := (x0 + x1 + ka) % m
  let x3 := rotl32 (Nat.xor x3 x0) 16
  let x2 := (x2 + x3) % m
  let x1 := rotl32 (Nat.xor x1 x2) 12
  let x0 := (x0 + x1) % m
  let x3 := rotl32 (Nat.xor x3 x0) 8
  let x2 := (x2 + x3 + kb) % m
  let x1 := rotl32 (Nat.xor x1 x2) 7
  (x1, x2, x3, x0)

/-- R223: output c, as 128 bits. -/
def genOut (key : BitVec 128) (id : Word32) (c : Nat) : Nat :=
  let m := 2 ^ 32
  let i0 := c % m
  let i1 := c / m % m
  let i2 := id.toNat
  let i3 := 0x7B5D2E91
  let k := fun n => key.toNat / 2 ^ (32 * n) % m
  let (x0, x1, x2, x3) := (List.range 10).foldl (fun x j => genRound k j x) (i0, i1, i2, i3)
  (x0 + i0) % m + (x1 + i1) % m * 2 ^ 32 + (x2 + i2) % m * 2 ^ 64 + (x3 + i3) % m * 2 ^ 96

/-- R74: 32-bit draw k of an instruction whose first output is number c. -/
def draw32 (key : BitVec 128) (id : Word32) (c k : Nat) : Nat := bitsAt (genOut key id (c + k / 4)) (32 * (k % 4)) 32

end Sys2Proof.Machine
end

