-- ==== Sys2Proof/Machine/Flags.lean ====
section
/-! DEFINITION. Floating-point exceptions (R27, R76, R77), vtype's fields (R23, R24) and the draws of stochastic
rounding (R74). -/

namespace Sys2Proof.Machine

/-! vtype. -/

def Ctx.fmtCode (c : Ctx) : Nat := c.vtype.toNat % 16
def Ctx.fmt (c : Ctx) : Option Fmt := Fmt.ofCode c.fmtCode
def grpOf (t : Nat) : Nat := 2 ^ (t / 16 % 4)
def blkOf (t : Nat) : Nat := match t / 64 % 8 with
  | 1 => 8
  | 2 => 16
  | 3 => 32
  | 4 => 64
  | _ => 0
def slcOf (t : Nat) : Nat := t / 512 % 8
def rmOf (t : Nat) : Nat := t / 4096 % 8
def taOf (t : Nat) : Bool := t / 32768 % 2 == 1

def Ctx.grp (c : Ctx) : Nat := grpOf c.vtype.toNat
def Ctx.blk (c : Ctx) : Nat := blkOf c.vtype.toNat
def Ctx.slc (c : Ctx) : Nat := slcOf c.vtype.toNat
def Ctx.rm (c : Ctx) : Nat := rmOf c.vtype.toNat
def Ctx.ta (c : Ctx) : Bool := taOf c.vtype.toNat

/-- R24: the length that a vtype allows. -/
def vlmaxOf (t : Nat) : Nat := match Fmt.ofCode (t % 16) with
  | none => 0
  | some f =>
    let n := min (4096 * grpOf t / f.width) 1024
    if blkOf t = 0 then n else n / blkOf t * blkOf t

/-- R23, R119: may a vtype be requested. -/
def vtypeOk (t : Nat) : Bool :=
  t % 16 ≤ 12 && t / 64 % 8 ≤ 4 && t / 4096 % 8 ≤ 5 && !(t % 16 == 5 && blkOf t != 8) && !(t % 16 == 12 && slcOf t < 3)

/-- A value that the manual leaves unstated in a trap. -/
def Mach.unstated (s : Mach) : Word := Config.unstatedTval s.ctx.freeKey

/-- R115: the format of the instruction, when its entry accepts it. -/
def Mach.needFmt (s : Mach) (ok : Fmt → Bool) : Try Fmt := match s.ctx.fmt with
  | some f => if ok f then .ok f else illegal 0x0D s.unstated
  | none => illegal 0x0D s.unstated

/-! Exceptions. -/

/-- R77: flags by result index: an enabled exception traps at the lowest index that raises one, otherwise all are
recorded. -/
def Mach.recordFlags (s : Mach) (fls : List (Nat × Nat)) : Try Mach :=
  match fls.find? fun x => Nat.land x.2 s.ctx.fptrap.toNat != 0 with
  | some (i, fl) => raise { cause := 0x12, reason := fl, elem := i, value := s.unstated }
  | none =>
    let all := fls.foldl (fun acc x => Nat.lor acc x.2) 0
    .ok { s with ctx := { s.ctx with fpflags := s.ctx.fpflags ||| BitVec.ofNat 5 all } }

/-! Draws. -/

/-- R74: outputs that n results take. -/
def drawOutputs (n : Nat) : Nat := (n + 3) / 4

/-- R74, R223: exhaustion, before any effect. -/
def Mach.checkOutputs (s : Mach) (n : Nat) : Try Unit :=
  if 2 ^ 64 - 1 < s.ctx.rngctl.toNat + n then raise { cause := 0x0E, reason := 0x01, value := s.unstated } else .ok ()

/-- Outputs asked for by an instruction that rounds n results: none unless rsr is in force. -/
def Ctx.rsrOutputs (c : Ctx) (n : Nat) : Nat := if c.rm = 5 then drawOutputs n else 0

/-- Draw k of the instruction in progress, 0 outside rsr. -/
def Ctx.draw (c : Ctx) (k : Nat) : Nat := if c.rm = 5 then draw32 c.rngKey c.rngId c.rngctl.toNat k else 0

def Mach.advanceRng (s : Mach) (n : Nat) : Mach :=
  { s with ctx := { s.ctx with rngctl := s.ctx.rngctl + BitVec.ofNat 64 n } }

end Sys2Proof.Machine
end

