-- ==== Sys2Proof/Machine/LoadStore.lean ====
section
/-! DEFINITION. Scalar loads, stores and atomics (R97 to R101). -/

namespace Sys2Proof.Machine

/-- R99 step 1. DEDUCED: log entry 25. -/
def checkAligned (ea : Word) (n : Nat) (elem : Nat := 0) : Try Unit :=
  if ea.toNat % n ≠ 0 then raise (memTrap 0x03 0 ea elem) else .ok ()

/-- R271, R272: requests of the context on a channel that stand in a slot of the gateway or wait for one. -/
def Mach.unaccepted (s : Mach) (chan : Nat) : Nat :=
  (s.reqs.filter fun r => r.proc == s.self && r.chan == chan && (r.stage == .issued || r.stage == .gateway)).length

/-- R100, R271: the gateway holds eight request slots for a request channel. -/
def Mach.slotsFull (s : Mach) (chan : Nat) : Bool := 8 ≤ s.unaccepted chan

def Mach.waitSlot (s : Mach) (chan : Nat) : Try Unit := if s.slotsFull chan then engineWait s else .ok ()

/-- A request placed on a channel. -/
def Mach.issueReq (s : Mach) (chan : Nat) (tag : Option Nat) (op : ReqOp) (x : Spot) (addr : Word) : Nat × Mach :=
  let (key, s) := s.takeKey
  let gen := ((s.tenantNo.bind s.tenant).map (·.gen)).getD 0
  (key, { s with reqs := s.reqs ++
    [{ key := key, proc := s.self, chan := chan, tag := tag, op := op, loc := x.key, addr := addr, host := x.host, gen := gen }] })

/-- R282: a read of host memory: issued once, answered by the bridge, consumed here with the error it may carry. -/
def Mach.hostRead (s : Mach) (addr : Word) (x : Spot) (n elem : Nat) : Try (Nat × Mach) :=
  let issue : Try (Nat × Mach) :=
    let (key, s) := s.issueReq 1 none (.read n 0) x addr
    engineWait { s with ctx := { s.ctx with issued := { s.ctx.issued with host := some key } } }
  match s.ctx.issued.host with
  | none => issue
  | some key => match s.reqs.find? fun r => r.key == key with
    | none => issue
    | some r =>
      if r.stage = .answered then
        let s := { s with
          reqs := s.reqs.filter fun (y : Req) => y.key != key
          ctx := { s.ctx with issued := { s.ctx.issued with host := none } } }
        match r.fault with
        | some (cause, reason) => .error (.trapIn (memTrap cause reason addr elem) s)
        | none => .ok (r.value, s)
      else engineWait s

/-- R100, R195, R285: the earlier mq1 accesses of the process performed; one at the host bridge is waited for. -/
def Mach.orderMq1 (s : Mach) : Try Mach :=
  if s.reqs.any fun r => r.proc == s.self && r.chan == 1 && r.host && r.stage != .answered then engineWait s
  else .ok (s.drainReqs s.self fun r => r.chan == 1)

/-- R99 step 6, R100: n bytes read at their home, behind the process's earlier accesses to it. -/
def Mach.readHome (s : Mach) (x : Spot) (ea : Word) (n : Nat) (elem : Nat := 0) : Try (Nat × Mach) :=
  match x.tile with
  | some t => do
    let s := if t = s.here then s else s.drainTiles s.self (some t)
    s.clean x.key n ea elem
    .ok (s.readNat ea x.key n, s)
  | none =>
    if x.host then s.hostRead ea x n elem
    else do
      let s ← s.orderMq1
      let s := s.countServer (serverOf x.key) 0 1
      if s.poisoned x.key n then
        .error (.trapIn (memTrap 0x16 0x01 ea elem) (s.countServer (serverOf x.key) 7 1))
      .ok (Mem.nat s.mem x.key n, s)

/-- R326: a word that n bytes cover only in part is poisoned. -/
def Mach.narrowBad (s : Mach) (key n : Nat) : Bool :=
  !s.bad.isEmpty && (unitsOf key n).any fun u => s.bad.contains u && !(key ≤ u && u + 8 ≤ key + n)

/-- R270, R147: a store of the chain `group` leaves for its tile; `half`: one nibble of a byte (R143). -/
def Mach.sendStore (s : Mach) (group key : Nat) (bs : List Byte) (half : Option Bool := none) : Mach :=
  { s with
    tileReqs := s.tileReqs ++ [{ key := s.fresh, proc := s.self, loc := key, bytes := bs, group := group, half := half }]
    fresh := s.fresh + 1 }

/-- R100, R285: a scalar store to a tile: on the own tile at once, behind the stores that the process has sent to other tiles; to
another tile as a request on its way. -/
def Mach.storeTile (s : Mach) (key t : Nat) (bs : List Byte) : Mach :=
  if t = s.here then (s.drainTiles s.self none).put key bs else s.sendStore s.fresh key bs

/-- R99, R100: the checks and the effect of a store. -/
def Mach.writeHome (s : Mach) (x : Spot) (ea : Word) (bs : List Byte) (elem : Nat := 0) : Try Mach :=
  match x.tile with
  | some t =>
    if s.narrowBad x.key bs.length then raise (memTrap 0x16 0x02 ea elem)
    else .ok (s.storeTile x.key t bs)
  | none => do
    s.waitSlot 1
    .ok (s.issueReq 1 none (.write bs) x ea).2

/-- R196: the error held on mq1, before the address checks of a global access. DEDUCED: log entry 27. -/
def Mach.globalFirst (s : Mach) (ea : Word) : Try Unit := if isGlobal ea then s.heldError else .ok ()

/-- R97 to R100: a load of n bytes. -/
def load (x : F2) (n : Nat) (ext : Nat → Word) (s : Mach) : Try Done := do
  let ea := s.ea x
  s.globalFirst ea
  checkAligned ea n
  let spot ← s.resolve ea n true false
  let (v, s) ← s.readHome spot ea n
  .ok { m := s.setG x.dN (ext v) }

def zext (v : Nat) : Word := BitVec.ofNat 64 v

def execLb (x : F2) (s : State) : Host.Outcome State Fault Refusal := chain x.len s (load x 1 (sext 8))
def execLbu (x : F2) (s : State) : Host.Outcome State Fault Refusal := chain x.len s (load x 1 zext)
def execLh (x : F2) (s : State) : Host.Outcome State Fault Refusal := chain x.len s (load x 2 (sext 16))
def execLhu (x : F2) (s : State) : Host.Outcome State Fault Refusal := chain x.len s (load x 2 zext)
def execLw (x : F2) (s : State) : Host.Outcome State Fault Refusal := chain x.len s (load x 4 (sext 32))
def execLwu (x : F2) (s : State) : Host.Outcome State Fault Refusal := chain x.len s (load x 4 zext)
def execLd (x : F2) (s : State) : Host.Outcome State Fault Refusal := chain x.len s (load x 8 zext)

/-- R98. -/
def execLea (x : F2) (s : State) : Host.Outcome State Fault Refusal :=
  plain x.len s fun m => m.setG x.dN (m.ea x)

/-- R97 to R100: a store of n bytes. -/
def store (x : F2) (n : Nat) (s : Mach) : Try Done := do
  let ea := s.ea x
  s.globalFirst ea
  checkAligned ea n
  let spot ← s.resolve ea n false true
  let s ← s.writeHome spot ea (bytesOfNat n (s.g x.dN).toNat)
  .ok { m := s }

def execSb (x : F2) (s : State) : Host.Outcome State Fault Refusal := chain x.len s (store x 1)
def execSh (x : F2) (s : State) : Host.Outcome State Fault Refusal := chain x.len s (store x 2)
def execSw (x : F2) (s : State) : Host.Outcome State Fault Refusal := chain x.len s (store x 4)
def execSd (x : F2) (s : State) : Host.Outcome State Fault Refusal := chain x.len s (store x 8)

/-- R101: an atomic with the new value it writes, if any, behind every access of the process before it. -/
def atomic (x : F2) (new : Word → Option Word) (s : Mach) : Try Done := do
  let ea := s.ea x
  s.globalFirst ea
  checkAligned ea 8
  if isGlobal ea then
    if bitsAt ea.toNat 48 14 ≠ 0 then raise (memTrap 0x05 0x02 ea)
    else raise (memTrap 0x06 0x03 ea)
  let spot ← s.resolve ea 8 true true
  let s ← s.release
  let (v, s) ← s.readHome spot ea 8
  let s := match new (BitVec.ofNat 64 v) with
    | some w => s.putNat spot.key 8 w.toNat
    | none => s
  .ok { m := s.setG x.dN (BitVec.ofNat 64 v) }

def execAmoadd (x : F2) (s : State) : Host.Outcome State Fault Refusal :=
  chain x.len s fun m => atomic x (fun old => some (old + m.atomicOperand x)) m
def execAmoswap (x : F2) (s : State) : Host.Outcome State Fault Refusal :=
  chain x.len s fun m => atomic x (fun _ => some (m.atomicOperand x)) m
def execAmomax (x : F2) (s : State) : Host.Outcome State Fault Refusal :=
  chain x.len s fun m => atomic x (fun old => some (maxS old (m.atomicOperand x))) m
def execAmocas (x : F2) (s : State) : Host.Outcome State Fault Refusal :=
  chain x.len s fun m => atomic x (fun old => if old = m.g x.dN then some (m.atomicOperand x) else none) m

end Sys2Proof.Machine
end

