-- ==== Sys2Proof/Machine/Queue.lean ====
section
/-! DEFINITION. Channels, pools and the scalar queue instructions (R105 to R110, R205, R227, R292). -/

namespace Sys2Proof.Machine

/-! Channels and pools of the running network. -/

def Net.chan (x : Net) (c : Nat) : Option Chan := x.chans[c]?
def Net.updChan (x : Net) (c : Nat) (f : Chan → Chan) : Net := { x with chans := listSet x.chans c f, active := true }
def Net.updPool (x : Net) (c : Nat) (f : Pool → Pool) : Net := { x with pools := listSet x.pools c f, active := true }

def Mach.chan (s : Mach) (c : Nat) : Option Chan := s.curNet.bind fun x => x.chan c
def Mach.pool (s : Mach) (c : Nat) : Option Pool := s.curNet.bind fun x => x.pools[c]?
def Mach.updCur (s : Mach) (f : Net → Net) : Mach := match s.curNetNo with
  | some n => s.updNet n f
  | none => s
def Mach.updChan (s : Mach) (c : Nat) (f : Chan → Chan) : Mach := s.updCur fun x => x.updChan c f
def Mach.updPool (s : Mach) (c : Nat) (f : Pool → Pool) : Mach := s.updCur fun x => x.updPool c f

/-- R227: the check of a channel or pool. -/
def foldWord (c word : Word) : Word :=
  BitVec.ofNat 64 (rotl 64 ((c ^^^ word) * 0x9E6C63D0676A9A99).toNat 23)

def Tok.kind : Tok → Nat
  | .scalar _ => 1
  | .vector _ => 2
  | _ => 3

def Tok.words : Tok → List Word
  | .scalar w => [w]
  | .vector d => (List.range 64).map fun i => d.extractLsb' (64 * i) 64
  | _ => []

def foldTok (c : Word) (t : Tok) : Word := t.words.foldl foldWord (foldWord c (BitVec.ofNat 64 t.kind))

/-- R292, R109: a token enters the channel's sequence. -/
def Chan.push (c : Chan) (t : Tok) : Chan :=
  { c with free := c.free - 1, flight := c.flight ++ [t], pushes := (c.pushes + 1) % 2 ^ 32, check := foldTok c.check t }

/-- R292: the head token is popped, and its slot return sent. -/
def Chan.pop (c : Chan) : Chan := { c with buf := c.buf.drop 1, returns := c.returns + 1, inTile := c.inTile - 1 }

/-- R295: the free slots that a push meets and the token that a pop meets: none while the channel is being re-bound. -/
def Chan.room (c : Chan) : Nat := if c.rebind then 0 else c.free
def Chan.front (c : Chan) : Option Tok := if c.rebind then none else c.buf.head?

/-! Binding. -/

/-- R20, R107: q15 of the supervisor is not to be bound. -/
def Mach.checkQ15 (s : Mach) (q : Nat) : Try Unit :=
  if s.isSup && q = 15 then raise { cause := 0x08, reason := 0x0A, opnd := 6, value := 15 } else .ok ()

/-- R107: the descriptor names an endpoint that the process may bind; `vec` asks for a vector channel (R176). -/
def Mach.mayBindChan (s : Mach) (id : Nat) (write vec : Bool) : Bool := match s.chan id with
  | none => false
  | some c => c.decl.vector == vec && (if write then c.decl.wproc else c.decl.rproc) == s.ctx.idx.toNat

def Mach.mayBindPool (s : Mach) (id : Nat) (write : Bool) : Bool := match s.pool id with
  | none => false
  | some p => p.decl.members.any fun m => m.1 == s.ctx.idx.toNat && m.2.2 == (if write then 2 else 1)

/-- R107: is the endpoint bound in a queue register. -/
def Ctx.boundQ (c : Ctx) (b : QBind) : Bool := c.q.toList.any fun x => x == some b

/-- R107, R176: is the channel endpoint bound in a stream register. -/
def Ctx.boundV (c : Ctx) (id : Nat) (write : Bool) : Bool :=
  c.streams.toList.any fun x => x.on && x.kind == .chan && x.sink == write && bitsAt x.desc.toNat 32 18 == id

/-- R106, R107: what a binding descriptor binds, or none where the binding fails. -/
def Mach.binding (s : Mach) (w : Word) : Option QBind :=
  let x := w.toNat
  let dir := bitsAt x 0 2
  let id := bitsAt x 32 18
  let write := dir == 2
  if bitsAt x 50 14 ≠ 0 || bitsAt x 4 28 ≠ 0 || (dir != 1 && dir != 2) then none
  else match bitsAt x 2 2 with
    | 0 => if s.mayBindChan id write false then some { kind := .chan, write := write, id := id } else none
    | 1 => if s.mayBindPool id write then some { kind := .pool, write := write, id := id } else none
    | 2 => if id = 0 && write then some { kind := .port, write := true, id := 0 } else none
    | _ => none

def qbind (x : F2) (s : Mach) : Try Done := do
  s.checkQ15 x.dN
  let w := s.g x.aN
  let fail : Try Done := raise { cause := 0x08, reason := 0x03, opnd := 6, value := w }
  match s.binding w with
  | none => fail
  | some b =>
    if (s.ctx.qb x.dN).isSome || s.ctx.boundQ b || (b.kind == .chan && s.ctx.boundV b.id b.write) then fail
    else .ok { m := { s with ctx := { s.ctx with q := s.ctx.q.setIfInBounds x.dN (some b) } } }

def execQbind (x : F2) (s : State) : Host.Outcome State Fault Refusal := chain x.len s (qbind x)

def qunbind (x : F2) (s : Mach) : Try Done := do
  s.checkQ15 x.dN
  .ok { m := { s with ctx := { s.ctx with q := s.ctx.q.setIfInBounds x.dN none } } }

def execQunbind (x : F2) (s : State) : Host.Outcome State Fault Refusal := chain x.len s (qunbind x)

/-! Pools (R205). -/

/-- R205: the lap of the running process. -/
def Ctx.lapNo (c : Ctx) : Nat := c.retired.toNat / (if c.lapLen = 0 then 1 else c.lapLen)

/-- R251: the order key of a process. -/
def Proc.key (p : Proc) : Nat := ((p.decl.ly * 64 + p.decl.lx) * 8 + p.decl.lc) * 65536 + p.index
def Mach.myKey (s : Mach) : Nat := (s.curProc.map Proc.key).getD s.ctx.idx.toNat

/-- R205: a pool's free count; a slot lent to a put of the other package is taken (R314). -/
def Pool.free (p : Pool) : Nat := p.slots - p.toks.length - p.puts.length - p.lent.length

def poolPut (id : Nat) (w : Word) (s : Mach) : Try Done := do
  let s ← s.release
  match s.pool id with
  | none => .ok { m := s }
  | some p =>
    if p.free = 0 then await { kind := .write, ref := id, pool := true } s
    else .ok { m := s.updPool id fun p =>
      { p with puts := p.puts ++ [{ proc := s.self, key := s.myKey, lap := s.ctx.lapNo, tok := .scalar w }] } }

/-- R205: the request is listed once; what a lap close hands out waits in the context. -/
def poolGet (d a id : Nat) (s : Mach) : Try Done :=
  match s.ctx.issued.got with
  | some (.scalar w) => .ok { m := s.setG d w }
  | some _ => .ok { m := s }
  | none =>
    let w : Wait := { kind := .read, code := 0x03, opnd := 6, ref := id, val := BitVec.ofNat 64 a }
    if s.ctx.issued.asked then await w s
    else
      let m : Mach := { s with ctx := { s.ctx with issued := { s.ctx.issued with asked := true, pool := id } } }
      let g : PoolGet := { proc := s.self, key := s.myKey, lap := s.ctx.lapNo }
      await w (m.updPool id fun p => { p with gets := p.gets ++ [g] })

/-! Popping (R108). -/

/-- DEDUCED: log entry 14. -/
def queueFault {α : Type} (reason q : Nat) : Try α :=
  raise { cause := 0x08, reason := reason, opnd := 6, value := BitVec.ofNat 64 q }

/-- R318: a pop of the supervisor's q15: the tokens of the fault channel. DEDUCED: log entry 18. -/
def popFault (d : Nat) (s : Mach) : Try Done :=
  match (s.curNet.map (·.faultBuf)).getD [] with
  | [] => await { kind := .read, code := 0x09, opnd := 6, ref := 0xFFFFFFFE, val := 15 } s
  | w :: r => .ok { m := (s.updCur fun x => { x with faultBuf := r, active := true }).setG d w }

/-- R108: the pop of a scalar channel; `atEnd` is where `qpopb` goes at end of stream. -/
def popChan (d a id : Nat) (atEnd : Option Nat) (s : Mach) : Try Done :=
  match (s.chan id).bind Chan.front with
  | none => await { kind := .read, code := 0x01, opnd := 6, ref := id, val := BitVec.ofNat 64 a } s
  | some .eos => match atEnd with
    | some t => .ok { m := s, target := some t }
    | none => raise { cause := 0x0A, opnd := 6, value := BitVec.ofNat 64 a }
  | some (.fault t) => raise { t with opnd := 6, value := BitVec.ofNat 64 a, ref := id }
  | some (.scalar w) => .ok { m := (s.updChan id Chan.pop).setG d w }
  | some _ => await { kind := .read, code := 0x01, opnd := 6, ref := id, val := BitVec.ofNat 64 a } s

def qpop (x : F2) (s : Mach) : Try Done := match s.ctx.qb x.aN with
  | some ⟨.chan, false, id, false⟩ => popChan x.dN x.aN id none s
  | some ⟨.chan, false, _, true⟩ => popFault x.dN s
  | some ⟨.pool, false, id, _⟩ => poolGet x.dN x.aN id s
  | _ => queueFault 0x01 x.aN

def execQpop (x : F2) (s : State) : Host.Outcome State Fault Refusal := chain x.len s (qpop x)

/-- DEDUCED: log entry 15. -/
def qpopb (x : F2) (s : Mach) : Try Done := match s.ctx.qb x.aN with
  | some ⟨.chan, false, id, false⟩ => popChan x.dN x.aN id (some (s.branchTo x.len x.s)) s
  | some ⟨.chan, false, _, true⟩ => popFault x.dN s
  | some ⟨.chan, true, _, _⟩ => queueFault 0x01 x.aN
  | none => queueFault 0x01 x.aN
  | _ => queueFault 0x04 x.aN

def execQpopb (x : F2) (s : State) : Host.Outcome State Fault Refusal := chain x.len s (qpopb x)

/-! Pushing and closing (R109). -/

/-- R109, R117: what a push of a token meets; `fault` builds the channel-closed trap. -/
def pushTok (id : Nat) (t : Tok) (fault : Nat → Trap) (s : Mach) : Try Mach :=
  match s.chan id with
  | none => .ok s
  | some c =>
    if c.closed then raise (fault 0x02)
    else do
      let s ← s.release
      if c.rExited then
        if c.decl.discard then .ok (if t = .eos then s.updChan id fun c => { c with closed := true } else s)
        else raise (fault 0x01)
      else if c.room = 0 then await { kind := .write, ref := id } s
      else .ok (s.updChan id fun c => { c.push t with closed := t = .eos })

def closedTrap (opnd id reason : Nat) : Trap :=
  { cause := 0x09, reason := reason, opnd := opnd, value := BitVec.ofNat 64 id, ref := id }

def qclose (x : F2) (s : Mach) : Try Done := match s.ctx.qb x.dN with
  | some ⟨.chan, true, id, _⟩ => do .ok { m := ← pushTok id .eos (closedTrap 6 id) s }
  | some ⟨.chan, false, _, _⟩ => queueFault 0x01 x.dN
  | none => queueFault 0x01 x.dN
  | _ => queueFault 0x04 x.dN

def execQclose (x : F2) (s : State) : Host.Outcome State Fault Refusal := chain x.len s (qclose x)

def execPoolput (x : F2) (s : State) : Host.Outcome State Fault Refusal :=
  chain x.len s fun m => match m.ctx.qb x.dN with
    | some ⟨.pool, true, id, _⟩ => poolPut id (m.g x.aN) m
    | _ => queueFault 0x06 x.dN

def execPoolget (x : F2) (s : State) : Host.Outcome State Fault Refusal :=
  chain x.len s fun m => match m.ctx.qb x.aN with
    | some ⟨.pool, false, id, _⟩ => poolGet x.dN x.aN id m
    | _ => queueFault 0x06 x.aN

end Sys2Proof.Machine
end

