-- ==== Sys2Proof/Machine/Vector.lean ====
section
/-! DEFINITION. What the vector instructions share: groups (R17), stream operands (R18), active elements (R116) and the
steps of R117. -/

namespace Sys2Proof.Machine

/-! Registers and groups. -/

def Ctx.vr (c : Ctx) (n : Nat) : VReg := c.v[n]?.getD 0

/-- Registers that n elements of width w fill. -/
def regsFor (w n : Nat) : Nat := (w * n + 4095) / 4096

/-- The image of k registers from n on, register n lowest. -/
def groupImage (v : Vector VReg 32) (n : Nat) : Nat → Nat
  | 0 => 0
  | k + 1 => (v[n]?.getD 0).toNat + 2 ^ 4096 * groupImage v (n + 1) k

def setGroup (v : Vector VReg 32) (n : Nat) (img : Nat) : Nat → Vector VReg 32
  | 0 => v
  | k + 1 => setGroup (v.setIfInBounds n (BitVec.ofNat 4096 img)) (n + 1) (img / 2 ^ 4096) k

/-- R17: n elements of width w, element 0 first, and back. -/
def elems (w : Nat) : Nat → Nat → List Nat
  | 0, _ => []
  | n + 1, img => img % 2 ^ w :: elems w n (img / 2 ^ w)

def pack (w : Nat) : List Nat → Nat
  | [] => 0
  | x :: r => x % 2 ^ w + 2 ^ w * pack w r

/-- The elements of a group of n elements of width w that begins at a register. -/
def readElems (v : Vector VReg 32) (reg w n : Nat) : List Nat := elems w n (groupImage v reg (regsFor w n))

/-- R17: a group register that is not a multiple of its size. -/
def checkGroup (reg size opnd : Nat) : Try Unit :=
  if size ≠ 0 && reg % size ≠ 0 then illegal 0x0B (BitVec.ofNat 64 reg) opnd else .ok ()

/-! Operands (R114, R117). -/

/-- A vector operand: position 0 d, 1 a, 2 e; first register; registers; read as a source; written; the width of its
elements where it is not the instruction's; the members of its group, where they are more than the registers used; the width of the
elements of its second register, where they are numbered anew there. -/
structure VOp where
  pos  : Nat
  reg  : Nat
  n    : Nat
  src  : Bool
  dst  : Bool
  ew   : Option Nat := none
  span : Nat := 0
  anew : Option Nat := none
  deriving DecidableEq, Repr

/-- R117, step 4: the operand code; d both read and written is reported as a source. DEDUCED: log entry 104. -/
def VOp.code (o : VOp) : Nat := match o.pos with
  | 0 => if o.src then 4 else 1
  | 1 => 2
  | _ => 3

def VOp.regs (o : VOp) : List Nat := (List.range o.n).map fun i => o.reg + i

/-- R18: the members of the operand's group, used or not. -/
def VOp.members (o : VOp) : List Nat := (List.range (max o.n o.span)).map fun i => o.reg + i

def Ctx.streamOn (c : Ctx) (r : Nat) : Bool := 24 ≤ r && (c.stream (r - 24)).on
def Ctx.sinkOn (c : Ctx) (r : Nat) : Bool := c.streamOn r && (c.stream (r - 24)).sink

/-- The code of the first position at which a register appears. -/
def firstCode (ops : List VOp) (r : Nat) : Nat := ((ops.find? fun o => o.regs.contains r).map VOp.code).getD 0

/-- R18, R117 step 2: mixed groups, over all members, and wrong directions of the registers that elements use, in the order
d, a, e. DEDUCED: log entry 23. -/
def Ctx.streamCheck (c : Ctx) (ops : List VOp) : List VOp → Try Unit
  | [] => .ok ()
  | o :: os =>
    let on := o.regs.filter c.streamOn
    let all := o.members.filter c.streamOn
    let code := firstCode ops o.reg
    if all.isEmpty then c.streamCheck ops os
    else if all.length ≠ o.members.length then raise { cause := 0x08, reason := 0x02, opnd := code, value := BitVec.ofNat 64 o.reg }
    else if (o.src && on.any c.sinkOn) || (o.dst && on.any fun r => !c.sinkOn r) then
      raise { cause := 0x08, reason := 0x01, opnd := code, value := BitVec.ofNat 64 o.reg }
    else c.streamCheck ops os

/-- The stream registers that an instruction pops, and those it pushes, each once, in the order of first appearance. -/
def popRegs (c : Ctx) (ops : List VOp) : List Nat :=
  ((ops.filter (·.src)).flatMap (·.regs)).filter (fun r => c.streamOn r && !c.sinkOn r) |>.eraseDups
def pushRegs (c : Ctx) (ops : List VOp) : List Nat :=
  ((ops.filter (·.dst)).flatMap (·.regs)).filter c.sinkOn |>.eraseDups

def Stream.chanId (x : Stream) : Nat := bitsAt x.desc.toNat 32 18

/-- The head token of a source-mode register: none while it must be awaited; near-bank replies are taken in order,
`skip` of them by registers popped before. -/
def Mach.headTok (s : Mach) (r skip : Nat) : Option Tok :=
  let x := s.ctx.stream (r - 24)
  match x.kind with
  | .chan => (s.chan x.chanId).bind Chan.front
  | .pattern => x.ahead.head?
  | .reply => (s.ctx.replies[skip]?).map fun p => match p.fault with
    | some t => .fault t
    | none => .vector p.data

def Mach.skips (s : Mach) (before : List Nat) : Nat :=
  (before.filter fun r => (s.ctx.stream (r - 24)).kind == .reply).length

/-- R117 step 3 for sources, R173, R301: the wait on a stream register, a read-block whatever its kind. R301 states no
reference for near-bank replies. DESIGN CHOICE: log entry 105. -/
def Mach.popWait (s : Mach) (ops : List VOp) (before : List Nat) (r : Nat) : Wait :=
  let x := s.ctx.stream (r - 24)
  match x.kind with
  | .chan => { kind := .read, code := 0x02, opnd := firstCode ops r, ref := x.chanId, val := BitVec.ofNat 64 r }
  | .pattern => { kind := .read, code := 0x02, opnd := firstCode ops r, ref := 0xFFFFFFFF, val := BitVec.ofNat 64 r }
  | .reply => { kind := .read, code := 0x02, opnd := firstCode ops r, ref := Config.unstatedRef s.ctx.freeKey, val := BitVec.ofNat 64 r
                goal := BitVec.ofNat 64 (s.skips before) }

def Mach.waitPops (s : Mach) (ops : List VOp) (before : List Nat) : List Nat → Try Unit
  | [] => .ok ()
  | r :: rs => match s.headTok r (s.skips before) with
    | none => await (s.popWait ops before r) s
    | some _ => s.waitPops ops (before ++ [r]) rs

def Mach.waitPushes (s : Mach) : List Nat → Try Unit
  | [] => .ok ()
  | r :: rs =>
    let id := (s.ctx.stream (r - 24)).chanId
    match s.chan id with
    | some c => if c.room = 0 && !c.rExited && !c.closed then await { kind := .write, ref := id } s else s.waitPushes rs
    | none => s.waitPushes rs

/-- R117 step 4: end of stream, a producer's fault; the values of the popped registers. -/
def Mach.headValues (s : Mach) (ops : List VOp) (before : List Nat) (v : Vector VReg 32) : List Nat → Try (Vector VReg 32)
  | [] => .ok v
  | r :: rs => match s.headTok r (s.skips before) with
    | some (.vector d) => s.headValues ops (before ++ [r]) (v.setIfInBounds r d) rs
    | some .eos => raise { cause := 0x0A, opnd := firstCode ops r, value := BitVec.ofNat 64 r }
    | some (.fault t) => raise { t with opnd := firstCode ops r }
    | _ => await (s.popWait ops before r) s

/-- DEDUCED: log entry 24. -/
def Mach.closedSinks (s : Mach) (ops : List VOp) : List Nat → Try Unit
  | [] => .ok ()
  | r :: rs =>
    let id := (s.ctx.stream (r - 24)).chanId
    match s.chan id with
    | some c =>
      if c.closed then raise (closedTrap (firstCode ops r) id 0x02)
      else if c.rExited && !c.decl.discard then raise (closedTrap (firstCode ops r) id 0x01)
      else s.closedSinks ops rs
    | none => s.closedSinks ops rs

/-- R327: the lowest element of an operand in 64-bit word `word` of register r; w is the instruction's width. -/
def VOp.elemOf (o : VOp) (w r word : Nat) : Nat := match o.anew with
  | some w' => if r = o.reg then word * 64 / o.ew.getD w else word * 64 / w'
  | none => ((r - o.reg) * 4096 + word * 64) / o.ew.getD w

/-- R327: poison in an ordinary source register. -/
def Mach.cleanV (s : Mach) (ops : List VOp) (w : Nat) : List VOp → Try Unit
  | [] => .ok ()
  | o :: os => match o.regs.find? fun r => o.src && !s.ctx.streamOn r && s.ctx.vBad[r]?.getD 0 != 0 with
    | none => s.cleanV ops w os
    | some r =>
      let word := (firstBelow 64 ((s.ctx.vBad[r]?.getD 0).getLsbD)).getD 0
      raise { cause := 0x16, reason := 0x03, opnd := firstCode ops r, value := BitVec.ofNat 64 r, elem := o.elemOf w r word }

/-- R117 steps 2 to 4: the registers as the instruction reads them. The poison of a source is looked at behind step 4, that
of the governing predicate before step 2. DEDUCED: log entry 106. In step 3 an empty source is waited for before a full sink, and in
step 4 the heads of all sources are looked at before the sinks, each in the order d, a, e. DEDUCED: log entry 132. -/
def Mach.sources (s : Mach) (ops : List VOp) (w : Nat) : Try (Vector VReg 32) := do
  s.ctx.streamCheck ops ops
  s.waitPops ops [] (popRegs s.ctx ops)
  s.waitPushes (pushRegs s.ctx ops)
  let v ← s.headValues ops [] s.ctx.v (popRegs s.ctx ops)
  s.closedSinks ops (pushRegs s.ctx ops)
  s.cleanV ops w ops
  .ok v

/-! Commit (R117 step 8). -/

/-- One token popped from a stream register. -/
def Mach.popStream (s : Mach) (r : Nat) : Mach :=
  let x := s.ctx.stream (r - 24)
  match x.kind with
  | .chan => s.updChan x.chanId Chan.pop
  | .pattern => { s with ctx := s.ctx.setStream (r - 24) { x with ahead := x.ahead.drop 1, pos := x.pos + 1 } }
  | .reply => { s with ctx := { s.ctx with replies := s.ctx.replies.drop 1 } }

/-- R326, R327: a token with a poisoned word is a faulted one; tval has no stated value. -/
def Mach.poisonTok (s : Mach) (id : Nat) : Tok := .fault { cause := 0x16, reason := 0x06, ref := id, value := Config.unstatedTval s.ctx.freeKey }

/-- One token pushed from a stream register: dropped where the reader has exited under the discard policy. -/
def Mach.pushStream (s : Mach) (r : Nat) : Mach :=
  let id := (s.ctx.stream (r - 24)).chanId
  match s.chan id with
  | some c => if c.rExited then s
    else s.updChan id fun c => c.push (if s.ctx.vBad[r]?.getD 0 = 0 then .vector (s.ctx.vr r) else s.poisonTok id)
  | none => s

/-- R326: the 64-bit words of a group image of which every element of width w is written, as bits. -/
def wordsWritten (w : Nat) (bs : List Bool) : Nat :=
  pack 1 ((pieces (bs.length + 1) (64 / w) bs).map fun p => (p.length == 64 / w && p.all id).toNat)

/-- Registers written: the group image, and bit k of `words` where all of its 64-bit word k is written (R326, R327). -/
structure VOut where
  reg   : Nat
  n     : Nat
  img   : Nat
  words : Nat
  deriving DecidableEq, Repr

def Ctx.writeV (c : Ctx) (o : VOut) : Ctx :=
  { c with
    v := setGroup c.v o.reg o.img o.n
    vBad := (List.range o.n).foldl (fun b i =>
      b.setIfInBounds (o.reg + i) (b[o.reg + i]?.getD 0 &&& ~~~ BitVec.ofNat 64 (o.words / 2 ^ (64 * i)))) c.vBad }

def Mach.writeV (s : Mach) (o : VOut) : Mach := { s with ctx := s.ctx.writeV o }

/-! The vector queues (R261). A chain stands there behind its effects: R262 and R264 decide when its work is done. -/

/-- R261: chains that a context's vector queue holds. -/
def queueLength : Nat := 32

/-- R261: must a chain wait for another that is at work: one of them writes what the other reads or writes. -/
def VecJob.dependsOn (x y : VecJob) : Bool :=
  y.writes.any (fun r => x.reads.contains r || x.writes.contains r) || x.writes.any y.reads.contains

def Arbiter.queue (a : Arbiter) (c : Nat) : List VecJob := a.queues[c]?.getD []
def Arbiter.head (a : Arbiter) (c : Nat) : Option VecJob := (a.queue c).head?

/-- What the lane groups and the matrix array do for context c. -/
def Arbiter.atWork (a : Arbiter) (c : Nat) : List VecJob :=
  (a.groups.toList ++ [a.array]).filterMap fun o => o.bind fun y => if y.1 == c then some y.2.1 else none

/-- R261: the head of a context that is ready: its register dependences are met, and a matrix chain finds the array free of the
context's earlier one. Its stream tokens and slots were taken when its effects were made. -/
def Arbiter.ready (a : Arbiter) (c : Nat) : Option VecJob := (a.head c).filter fun j =>
  (a.atWork c).all (fun y => !j.dependsOn y) && !(j.matrix && (a.atWork c).any (·.matrix))

/-- R262: the totals at the moment when each head became ready. -/
def Arbiter.notice (a : Arbiter) : Arbiter :=
  { a with atHead := Vector.ofFn fun (c : Fin 8) =>
      if (a.ready c.val).isSome then (a.atHead[c.val]).or (some a.total) else none }

/-- R261: a chain joins the queue of context c. DEDUCED: log entry 93. -/
def Arbiter.enqueue (a : Arbiter) (c : Nat) (j : VecJob) : Arbiter :=
  { a with queues := a.queues.setIfInBounds c (a.queue c ++ [j]) }.notice

def Mach.queueJob (s : Mach) (j : VecJob) : Mach :=
  s.updTile s.here fun t => { t with arb := t.arb.enqueue ((s.ctx.place.map (·.ctx)).getD 0) j }

/-- R262: an instruction of the lane groups queued with its cost in lane-group cycles. -/
def Mach.laneHead (s : Mach) (cost : Nat) (ops : List VOp) : Mach :=
  (s.queueJob { matrix := false, cost := cost, reads := (ops.filter (·.src)).flatMap (·.regs), writes := (ops.filter (·.dst)).flatMap (·.regs) }).countDiag 3 cost

/-- The pops, the written registers, the pushes with their release. -/
def Mach.commitRegs (s : Mach) (ops : List VOp) (outs : List VOut) : Try Mach := do
  let pops := popRegs s.ctx ops
  let pushes := pushRegs s.ctx ops
  let s ← if pushes.isEmpty then .ok s else s.release
  let s := pops.foldl Mach.popStream s
  let s := outs.foldl Mach.writeV s
  .ok (pushes.foldl Mach.pushStream s)

/-- The same for an instruction of the lane groups: `per` cycles a register (R6). -/
def Mach.commit (s : Mach) (ops : List VOp) (outs : List VOut) (per : Nat := 8) : Try Mach := do
  let s ← s.commitRegs ops outs
  .ok (s.laneHead (per * s.ctx.grp) ops)

/-! Active elements (R116). -/

/-- R19, R49: does the governing predicate of a chain admit element i. -/
def Mach.admits (s : Mach) (p : Pre) (i : Nat) : Bool := match p.pp with
  | none => true
  | some f => (s.p f.pred.toNat).getLsbD i != f.inv

def zeroing (p : Pre) : Bool := (p.pp.map (·.zero)).getD false

/-- R327: poison in the governing predicate. -/
def Mach.cleanGov (s : Mach) (p : Pre) : Try Unit := match p.pp with
  | none => .ok ()
  | some f =>
    let bad := s.ctx.pBad[f.pred.toNat]?.getD 0
    if f.pred = 0 || bad = 0 then .ok ()
    else raise { cause := 0x16, reason := 0x03, opnd := 7, value := BitVec.ofNat 64 f.pred.toNat, elem := (firstBelow 16 bad.getLsbD).getD 0 * 64 }

/-- The active mask below n. -/
def Mach.mask (s : Mach) (p : Pre) (n : Nat) : List Bool := (List.range n).map fun i => s.admits p i

/-- R116: the elements at and beyond the length: `pad` of them are block tail, the rest tail. -/
def tailElems (ta : Bool) : Nat → List Nat → List Nat
  | _, [] => []
  | k + 1, _ :: r => 0 :: tailElems ta k r
  | 0, x :: r => (if ta then 0 else x) :: tailElems ta 0 r

/-- R116: results over what the destination held: `none` is an element that is not written as a result. -/
def mergeElems (zeroing ta : Bool) (pad : Nat) : List (Option Nat) → List Nat → List Nat
  | some x :: rs, _ :: os => x :: mergeElems zeroing ta pad rs os
  | none :: rs, o :: os => (if zeroing then 0 else o) :: mergeElems zeroing ta pad rs os
  | [], os => tailElems ta pad os
  | _, [] => []

/-- R116: the block tail of a length. -/
def blockPad (blk vl : Nat) : Nat := if blk = 0 then 0 else (blk - vl % blk) % blk

/-- R116, R326: which of `total` elements are written, as results, as zeros under zeroing, or as tail. -/
def elemsWritten (zeroing ta : Bool) (total pad skip : Nat) (rs : List (Option Nat)) : List Bool :=
  (List.range total).map fun i =>
    if i < rs.length then skip ≤ i && (zeroing || (rs[i]?.join).isSome) else ta || i < rs.length + pad

/-- R116, R17: the destination group of `total` elements of width w from its results: nothing is written with vl = 0, and no
element below `skip`, whose results are what it held. -/
def Mach.vecOut (s : Mach) (p : Pre) (reg w total pad : Nat) (rs : List (Option Nat)) (skip : Nat := 0) : List VOut :=
  if s.ctx.vl = 0 then [] else
    let n := regsFor w total
    let old := elems w total (groupImage s.ctx.v reg n)
    let new := mergeElems (zeroing p) s.ctx.ta pad rs old
    -- bits of the last register beyond the group keep what they held
    let rest := groupImage s.ctx.v reg n / 2 ^ (w * total) * 2 ^ (w * total)
    [{ reg := reg, n := n, img := rest + pack w new, words := wordsWritten w (elemsWritten (zeroing p) s.ctx.ta total pad skip rs) }]

/-! Element-wise instructions. -/

/-- A computed element: its pattern and its exceptions. -/
abbrev Res := Nat × Nat

/-- R117 steps 6 to 8 for results by element: draws for `nd` rounded positions, exceptions, commit. -/
def Mach.elementwise (s : Mach) (p : Pre) (ops : List VOp) (reg w total pad nd : Nat) (act : List Bool)
    (rs : List Res) (per : Nat := 8) : Try Done := do
  let out := s.ctx.rsrOutputs nd
  s.checkOutputs out
  let shown := (act.zip rs).map fun (a, r) => if a then some r.1 else none
  let fls := ((List.range rs.length).zip (act.zip rs)).filterMap fun (i, a, r) => if a then some (i, r.2) else none
  let outs := s.vecOut p reg w total pad shown
  let s ← s.recordFlags fls
  let s ← (s.advanceRng out).commit ops outs per
  .ok { m := s }

/-- The group registers of the instruction's format, and the operand of a position. -/
def Mach.vop (s : Mach) (w pos reg : Nat) (src dst : Bool) : VOp :=
  { pos := pos, reg := reg, n := regsFor w s.ctx.vlmax, src := src, dst := dst, span := s.ctx.grp }

/-- R114, R117 step 1: the alignment of the operands to the register group; d is reported by its position, 1, also where the
instruction reads it, but for the stores, which only read it, 4. DEDUCED: log entry 107. -/
def checkGroups (g : Nat) : List VOp → Try Unit
  | [] => .ok ()
  | o :: os => do
    checkGroup o.reg g (o.pos + 1)
    checkGroups g os

/-- R114: the sources of classes B, A and R by form. -/
def classOps (s : Mach) (w : Nat) (x : F2) (binary : Bool) : List VOp :=
  let acc := !binary
  if x.w then [s.vop w 0 x.dN acc true, s.vop w 1 x.aN true false, s.vop w 2 x.eN true false]
  else if binary then [s.vop w 0 x.dN true true, s.vop w 1 x.aN true false]
  else [s.vop w 0 x.dN true true, s.vop w 1 x.aN true false]

/-- R6: lane-group cycles a register of a multiply-add. -/
def macCycles (f : Fmt) : Nat := if f == .fp64 then 16 else 8

/-- Class B: x and y by form (R114), results by x and y; `rounds` when floating results are rounded. -/
def classB (x : F2) (ok : Fmt → Bool) (rounds mac : Bool) (f : Fmt → Nat → Nat → Nat → Nat → Res) (s : Mach) : Try Done := do
  let fm ← s.needFmt ok
  let w := fm.width
  let ops := classOps s w x true
  checkGroups s.ctx.grp ops
  s.cleanGov x.pre
  let v ← s.sources ops w
  let n := s.ctx.vl
  let xs := readElems v (if x.w then x.aN else x.dN) w n
  let ys := readElems v (if x.w then x.eN else x.aN) w n
  let rs := ((List.range n).zip (xs.zip ys)).map fun (i, a, b) => f fm s.ctx.rm (s.ctx.draw i) a b
  s.elementwise x.pre ops x.dN w s.ctx.vlmax (blockPad s.ctx.blk n) (if rounds && fm.isFloat then n else 0) (s.mask x.pre n) rs (if mac then macCycles fm else 8)

/-- Class A: the destination and the product's sources. -/
def classA (x : F2) (ok : Fmt → Bool) (f : Fmt → Nat → Nat → Nat → Nat → Nat → Res) (s : Mach) : Try Done := do
  let fm ← s.needFmt ok
  let w := fm.width
  let ops := classOps s w x false
  checkGroups s.ctx.grp ops
  s.cleanGov x.pre
  let v ← s.sources ops w
  let n := s.ctx.vl
  let ds := readElems v x.dN w n
  let xs := readElems v x.aN w n
  let ys := readElems v (if x.w then x.eN else x.aN) w n
  let rs := ((List.range n).zip (ds.zip (xs.zip ys))).map fun (i, d, a, b) => f fm s.ctx.rm (s.ctx.draw i) d a b
  s.elementwise x.pre ops x.dN w s.ctx.vlmax (blockPad s.ctx.blk n) (if fm.isFloat then n else 0) (s.mask x.pre n) rs (macCycles fm)

/-- Class U with a destination of the source's width. -/
def classU (x : F2) (ok : Fmt → Bool) (rounds : Bool) (f : Fmt → Nat → Nat → Nat → Res) (s : Mach) : Try Done := do
  let fm ← s.needFmt ok
  let w := fm.width
  let ops := [s.vop w 0 x.dN false true, s.vop w 1 x.aN true false]
  checkGroups s.ctx.grp ops
  s.cleanGov x.pre
  let v ← s.sources ops w
  let n := s.ctx.vl
  let rs := ((List.range n).zip (readElems v x.aN w n)).map fun (i, a) => f fm s.ctx.rm (s.ctx.draw i) a
  s.elementwise x.pre ops x.dN w s.ctx.vlmax (blockPad s.ctx.blk n) (if rounds && fm.isFloat then n else 0) (s.mask x.pre n) rs

def inI (f : Fmt) : Bool := f.isInt
def inF (f : Fmt) : Bool := f.isFloat
def inIF (f : Fmt) : Bool := f.isInt || f.isFloat
def inIF4 (f : Fmt) : Bool := f.isInt || f.isFloat || f == .fp4
def inM (f : Fmt) : Bool := f.isInt || f.isFloat || f == .f64s
def inM4 (f : Fmt) : Bool := inM f || f == .fp4

end Sys2Proof.Machine
end

