-- ==== Sys2Proof/Machine/VectorArith.lean ====
section
/-! DEFINITION. Element arithmetic, logic, compares and functions (R125 to R128, R135, R136), and the saturating
arithmetic of page 1 (R137). -/

namespace Sys2Proof.Machine

/-! Elements. -/

/-- An integer result modulo 2^w. -/
def wrapI (f : Fmt) (i : Int) : Res := (patOf f.width i, 0)

/-- A floating operation of two elements, rounded once. -/
def float2 (g : Nat → Fl → Fl → Ex) (f : Fmt) (rm draw a b : Nat) : Res := (g rm (decodeF f a) (decodeF f b)).round f rm draw

def addEl (f : Fmt) (rm draw a b : Nat) : Res :=
  if f.isInt then wrapI f (intOf f a + intOf f b) else float2 fAdd f rm draw a b

def subEl (f : Fmt) (rm draw a b : Nat) : Res :=
  if f.isInt then wrapI f (intOf f a - intOf f b) else float2 (fun rm x y => fAdd rm x y.neg) f rm draw a b

def mulEl (f : Fmt) (rm draw a b : Nat) : Res :=
  if f.isInt then wrapI f (intOf f a * intOf f b) else float2 (fun _ x y => fMul x y) f rm draw a b

/-- R125: the rounded difference, then its magnitude. -/
def abdEl (f : Fmt) (rm draw a b : Nat) : Res :=
  if f.isInt then wrapI f (intOf f a - intOf f b).natAbs
  else let (c, fl) := subEl f rm draw a b; (c % 2 ^ (f.width - 1), fl)

/-- R126: −0 below +0, NaN to the canonical NaN, otherwise an operand as it is. -/
def below (f : Fmt) (a b : Nat) : Bool := match decodeF f a, decodeF f b with
  | .num x, .num y => if Fx.eq x y then x.neg && !y.neg else Fx.lt x y
  | .inf n, .inf m => n && !m
  | .inf n, _ => n
  | _, .inf m => !m
  | _, _ => false

def minMaxEl (wantMax : Bool) (f : Fmt) (_rm _draw a b : Nat) : Res :=
  if f.isInt then
    (if (if wantMax then intOf f a < intOf f b else intOf f b < intOf f a) then b else a, 0)
  else
    let x := decodeF f a
    let y := decodeF f b
    if x.isNan || y.isNan then (f.nan, Nat.lor (sigFlag x) (sigFlag y))
    else (if (if wantMax then below f a b else below f b a) then b else a, 0)

/-- R125: the fused multiply-add and its subtracting form. -/
def macEl (f : Fmt) (rm draw d a b : Nat) : Res :=
  if f.isInt then wrapI f (intOf f d + intOf f a * intOf f b)
  else (fFma rm (decodeF f a) (decodeF f b) (decodeF f d)).round f rm draw

def nmacEl (f : Fmt) (rm draw d a b : Nat) : Res :=
  if f.isInt then wrapI f (intOf f d - intOf f a * intOf f b)
  else (fFma rm (decodeF f a).neg (decodeF f b) (decodeF f d)).round f rm draw

def execVadd (x : F2) (s : State) : Host.Outcome State Fault Refusal := chain x.len s (classB x inIF true false addEl)
def execVsub (x : F2) (s : State) : Host.Outcome State Fault Refusal := chain x.len s (classB x inIF true false subEl)
def execVmul (x : F2) (s : State) : Host.Outcome State Fault Refusal := chain x.len s (classB x inIF true true mulEl)
def execVmin (x : F2) (s : State) : Host.Outcome State Fault Refusal :=
  chain x.len s (classB x inIF false false (minMaxEl false))
def execVmax (x : F2) (s : State) : Host.Outcome State Fault Refusal :=
  chain x.len s (classB x inIF false false (minMaxEl true))
def execVabd (x : F2) (s : State) : Host.Outcome State Fault Refusal := chain x.len s (classB x inIF true false abdEl)
def execVmac (x : F2) (s : State) : Host.Outcome State Fault Refusal := chain x.len s (classA x inIF macEl)
def execVnmac (x : F2) (s : State) : Host.Outcome State Fault Refusal := chain x.len s (classA x inIF nmacEl)

/-! Logic (R127). -/

def bitEl (g : Nat → Nat → Nat) (_f : Fmt) (_rm _draw a b : Nat) : Res := (g a b, 0)

def execVand (x : F2) (s : State) : Host.Outcome State Fault Refusal :=
  chain x.len s (classB x inIF4 false false (bitEl Nat.land))
def execVor (x : F2) (s : State) : Host.Outcome State Fault Refusal :=
  chain x.len s (classB x inIF4 false false (bitEl Nat.lor))
def execVxor (x : F2) (s : State) : Host.Outcome State Fault Refusal :=
  chain x.len s (classB x inIF4 false false (bitEl Nat.xor))
def execVandn (x : F2) (s : State) : Host.Outcome State Fault Refusal :=
  chain x.len s (classB x inIF4 false false (bitEl fun a b => Nat.xor a (Nat.land a b)))

def sllEl (f : Fmt) (_rm _draw a b : Nat) : Res := (a * 2 ^ (b % f.width) % 2 ^ f.width, 0)
def srlEl (f : Fmt) (_rm _draw a b : Nat) : Res := (a / 2 ^ (b % f.width), 0)
/-- R127, R115: uint8 is read as unsigned, so that its fill is zero. -/
def sraEl (f : Fmt) (_rm _draw a b : Nat) : Res :=
  (patOf f.width (intOf f a / (2 ^ (b % f.width) : Nat)), 0)

def execVsll (x : F2) (s : State) : Host.Outcome State Fault Refusal := chain x.len s (classB x inI false false sllEl)
def execVsrl (x : F2) (s : State) : Host.Outcome State Fault Refusal := chain x.len s (classB x inI false false srlEl)
def execVsra (x : F2) (s : State) : Host.Outcome State Fault Refusal := chain x.len s (classB x inI false false sraEl)

def notEl (f : Fmt) (_rm _draw a : Nat) : Res := (2 ^ f.width - 1 - a, 0)

def execVnot (x : F2) (s : State) : Host.Outcome State Fault Refusal := chain x.len s (classU x inIF4 false notEl)

/-! Compares (R128). -/

/-- A relation of two elements with its exceptions. -/
def cmpEl (int : Int → Int → Bool) (num : Fl → Fl → Bool) (onNan ordered : Bool) (f : Fmt) (a b : Nat) : Bool × Nat :=
  if f.isInt then (int (intOf f a) (intOf f b), 0)
  else
    let x := decodeF f a
    let y := decodeF f b
    if x.isNan || y.isNan then (onNan, if ordered then fNv else Nat.lor (sigFlag x) (sigFlag y))
    else (num x y, 0)

/-- Order and equality of numbers and infinities, −0 equal to +0. -/
def flEq : Fl → Fl → Bool
  | .num x, .num y => Fx.eq x y
  | .inf n, .inf m => n == m
  | _, _ => false

def flLt : Fl → Fl → Bool
  | .num x, .num y => Fx.lt x y
  | .inf n, .inf m => n && !m
  | .inf n, _ => n
  | _, .inf m => !m
  | _, _ => false

/-- A predicate from bits by index. -/
def predOf (bs : List Bool) : PReg :=
  BitVec.ofNat 1024 (bs.foldr (fun b acc => b.toNat + 2 * acc) 0)

/-- R19, R128: the destination predicate: active bits as computed, inactive bits below vl by merging or zeroing. -/
def predResult (old : PReg) (z : Bool) (act : List Bool) (rs : List Bool) : PReg :=
  predOf (((List.range rs.length).zip (act.zip rs)).map fun (i, a, r) => if a then r else if z then false else old.getLsbD i)

/-- R326: the 64-bit words of a predicate in which a merging compare leaves a bit below vl as it was. -/
def predKept (z : Bool) (act : List Bool) : BitVec 16 :=
  if z then 0 else BitVec.ofNat 16 (pack 1 ((pieces 17 64 act).map fun p => (!p.all id).toNat))

/-- R114, R128: class C. -/
def classC (x : F2) (ok : Fmt → Bool) (f : Fmt → Nat → Nat → Bool × Nat) (s : Mach) : Try Done := do
  let fm ← s.needFmt ok
  let w := fm.width
  let ops := if x.w then [s.vop w 1 x.aN true false, s.vop w 2 x.eN true false] else [s.vop w 1 x.aN true false]
  checkGroups s.ctx.grp ops
  s.cleanGov x.pre
  let v ← s.sources ops w
  let n := s.ctx.vl
  let rs := ((readElems v x.aN w n).zip (readElems v (if x.w then x.eN else x.aN) w n)).map fun (a, b) => f fm a b
  let act := s.mask x.pre n
  let fls := ((List.range n).zip (act.zip rs)).filterMap fun (i, a, r) => if a then some (i, r.2) else none
  let s ← s.recordFlags fls
  let pd := predResult (s.p x.dN) (zeroing x.pre) act (rs.map (·.1))
  let s ← s.commit ops []
  .ok { m := s.setP x.dN pd (predKept (zeroing x.pre) act) }

def execVceq (x : F2) (s : State) : Host.Outcome State Fault Refusal :=
  chain x.len s (classC x inIF (cmpEl (fun a b => a == b) flEq false false))
def execVcne (x : F2) (s : State) : Host.Outcome State Fault Refusal :=
  chain x.len s (classC x inIF (cmpEl (fun a b => a != b) (fun a b => !flEq a b) true false))
def execVclt (x : F2) (s : State) : Host.Outcome State Fault Refusal :=
  chain x.len s (classC x inIF (cmpEl (fun a b => a < b) flLt false true))
def execVcle (x : F2) (s : State) : Host.Outcome State Fault Refusal :=
  chain x.len s (classC x inIF (cmpEl (fun a b => a ≤ b) (fun a b => !flLt b a) false true))
def execVcgt (x : F2) (s : State) : Host.Outcome State Fault Refusal :=
  chain x.len s (classC x inIF (cmpEl (fun a b => b < a) (fun a b => flLt b a) false true))
def execVcge (x : F2) (s : State) : Host.Outcome State Fault Refusal :=
  chain x.len s (classC x inIF (cmpEl (fun a b => b ≤ a) (fun a b => !flLt a b) false true))
def execVcltu (x : F2) (s : State) : Host.Outcome State Fault Refusal :=
  chain x.len s (classC x inI fun _ a b => (decide (a < b), 0))
def execVcun (x : F2) (s : State) : Host.Outcome State Fault Refusal :=
  chain x.len s (classC x inF (cmpEl (fun _ _ => false) (fun _ _ => false) true false))

/-! Functions (R135, R136). -/

/-- Guard and fraction bits of the fixed-point evaluations. -/
def fixBits : Nat := 320

/-- ln 2 in units of 2^-fixBits: twice the series of artanh 1/3. -/
def ln2Fix : Nat :=
  (List.range 110).foldl (fun acc k => acc + 2 * 2 ^ fixBits / ((2 * k + 1) * 3 ^ (2 * k + 1))) 0

/-- 2^f for a fraction f in units of 2^-fixBits: the exponential series of f × ln 2. -/
def exp2Fix (f : Nat) : Nat :=
  let t := f * ln2Fix / 2 ^ fixBits
  ((List.range 80).foldl (fun (acc, term) k => (acc + term, term * t / ((k + 1) * 2 ^ fixBits))) (0, 2 ^ fixBits)).1

/-- log2 of y in [1, 2), both in units of 2^-fixBits. -/
def log2Fix (y : Nat) : Nat :=
  let one := 2 ^ fixBits
  let z := (y - one) * one / (y + one)
  let sum := ((List.range 110).foldl (fun (acc, p) k => (acc + p / (2 * k + 1), p * z / one * z / one)) (0, z)).1
  2 * sum * one / ln2Fix

/-- Bits dropped from a fixed-point value before it is used as a truncation. -/
def guardBits : Nat := 40

/-- 2^x of a number, as its truncation with `st`, exact where x is an integer. DEDUCED: log entry 28. -/
def exp2Fx (x : Fx) : Fx :=
  let mag := x.e + bitLen x.m
  if x.isZero then { neg := false, m := 1, e := 0 }
  else if 14 < mag then { neg := false, m := 1, e := if x.neg then -100000 else 100000 }
  else if mag < -100 then
    if x.neg then { neg := false, m := 2 ^ 200 - 1, e := -200, st := true } else { neg := false, m := 2 ^ 200, e := -200, st := true }
  else
    let fix : Int := if 0 ≤ x.e + fixBits then x.at (-(fixBits : Int)) else 0
    let i := fix / (2 ^ fixBits : Nat)
    let f := (fix % (2 ^ fixBits : Nat)).toNat
    if f = 0 then { neg := false, m := 1, e := i }
    else { neg := false, m := exp2Fix f / 2 ^ guardBits, e := i - (fixBits - guardBits : Nat), st := true }

/-- log2 of a positive number. -/
def log2Fx (x : Fx) : Fx :=
  let l := bitLen x.m
  let e : Int := x.e + l - 1
  let y := x.m * 2 ^ fixBits / 2 ^ (l - 1)
  if x.m = 2 ^ (l - 1) then (if e = 0 then Fx.zero false else Fx.ofInt e)
  else
    let n : Int := e * (2 ^ (fixBits - guardBits) : Nat) + (log2Fix y / 2 ^ guardBits : Nat)
    let q : Int := -((fixBits - guardBits : Nat) : Int)
    if 0 ≤ n then { neg := false, m := n.toNat, e := q, st := true } else { neg := true, m := (-n - 1).toNat, e := q, st := true }

/-- R136, R76: fp64 results go through a truncation T to 66 significant bits; whatever differs from the exact value is inexact, and
with a subnormal T that is a result it is tiny too. -/
def roundFn (f : Fmt) (rm draw : Nat) (r : Ex) : Res := match f, r.v with
  | .fp64, .num x =>
    let k := bitLen x.m - 66
    let t : Fx := { neg := x.neg, m := x.m / 2 ^ k, e := x.e + k }
    let (c, fl) := ({ v := .num t, fl := r.fl } : Ex).round f rm draw
    let tiny := t.e + bitLen t.m ≤ f.emin + f.fw
    let more := if Nat.land fl fNx = 0 && tiny then Nat.lor fNx fUf else fNx
    (c, if x.st || x.m % 2 ^ k ≠ 0 then Nat.lor fl more else fl)
  | _, _ => r.round f rm draw

def exp2Ex (a : Fl) : Ex := match a with
  | .nan s => { v := .nan false, fl := sigFlag (.nan s) }
  | .inf true => { v := .num (Fx.zero false) }
  | .inf false => { v := .inf false }
  | .num x => { v := .num (exp2Fx x) }

def log2Ex (a : Fl) : Ex := match a with
  | .nan s => { v := .nan false, fl := sigFlag (.nan s) }
  | .inf true => nvNan
  | .inf false => { v := .inf false }
  | .num x => if x.isZero then { v := .inf true, fl := fDz } else if x.neg then nvNan else { v := .num (log2Fx x) }

def oneFl : Fl := .num (Fx.ofInt 1)

/-- R135: 1 / √x. -/
def rsqrtEx (a : Fl) : Ex := match a with
  | .nan s => { v := .nan false, fl := sigFlag (.nan s) }
  | .inf true => nvNan
  | .inf false => { v := .num (Fx.zero false) }
  | .num x =>
    if x.isZero then { v := .inf x.neg, fl := fDz }
    else if x.neg then nvNan
    else
      -- 1 / √(m 2^e) = √(2^k / m) × 2^(-(e + k) / 2), k making the exponent even
      let k : Nat := 400 + 2 * bitLen x.m + (x.e % 2).toNat
      let q := 2 ^ k / x.m
      let r := isqrt q
      { v := .num { neg := false, m := r, e := -((x.e + k) / 2), st := r * r * x.m != 2 ^ k } }

def fnEl (g : Fl → Ex) (f : Fmt) (rm draw a : Nat) : Res := (g (decodeF f a)).round f rm draw
def fnEl66 (g : Fl → Ex) (f : Fmt) (rm draw a : Nat) : Res := roundFn f rm draw (g (decodeF f a))

/-- R135: the class mask. -/
def classEl (f : Fmt) (_rm _draw a : Nat) : Res :=
  let top := a / 2 ^ f.fw % 2 ^ f.ew
  let m := match decodeF f a with
    | .nan s => 32 + s.toNat * 64
    | .inf n => n.toNat + 16
    | .num x => x.neg.toNat + (if x.m = 0 then 2 else if top = 0 then 4 else 8)
  (m, 0)

def absEl (f : Fmt) (_rm _draw a : Nat) : Res :=
  if f.isInt then wrapI f (intOf f a).natAbs
  else if (decodeF f a).isNan then (f.nan, 0) else (a % 2 ^ (f.width - 1), 0)

def execVdiv (x : F2) (s : State) : Host.Outcome State Fault Refusal :=
  chain x.len s (classB x inF true false (float2 fun _ a b => fDiv a b))
def execVsqrt (x : F2) (s : State) : Host.Outcome State Fault Refusal := chain x.len s (classU x inF true (fnEl fSqrt))
def execVrcp (x : F2) (s : State) : Host.Outcome State Fault Refusal :=
  chain x.len s (classU x inF true (fnEl fun a => fDiv oneFl a))
def execVrsqrt (x : F2) (s : State) : Host.Outcome State Fault Refusal := chain x.len s (classU x inF true (fnEl rsqrtEx))
def execVexp2 (x : F2) (s : State) : Host.Outcome State Fault Refusal := chain x.len s (classU x inF true (fnEl66 exp2Ex))
def execVlog2 (x : F2) (s : State) : Host.Outcome State Fault Refusal := chain x.len s (classU x inF true (fnEl66 log2Ex))
def execVclass (x : F2) (s : State) : Host.Outcome State Fault Refusal := chain x.len s (classU x inF false classEl)
def execVabs (x : F2) (s : State) : Host.Outcome State Fault Refusal := chain x.len s (classU x inIF false absEl)

/-! Page 1: saturating and averaging arithmetic (R137). -/

def clamp (lo hi i : Int) : Int := if i < lo then lo else if hi < i then hi else i

/-- Saturation to w bits, signed or unsigned. -/
def satS (w : Nat) (i : Int) : Nat := patOf w (clamp (-(2 ^ (w - 1) : Nat)) ((2 ^ (w - 1) : Nat) - 1) i)
def satU (w : Nat) (i : Int) : Nat := patOf w (clamp 0 ((2 ^ w : Nat) - 1) i)

/-- R137, R115: the operands read as the format says, the result saturated to the two's complement range. DEDUCED: log entry 29. -/
def satEl (g : Int → Int → Int) (f : Fmt) (_rm _draw a b : Nat) : Res := (satS f.width (g (intOf f a) (intOf f b)), 0)
def satuEl (g : Int → Int → Int) (f : Fmt) (_rm _draw a b : Nat) : Res := (satU f.width (g a b), 0)

/-- R137, R138: a right shift rounding to the nearest, halves up. -/
def roundShift (x : Int) (n : Nat) : Int := if n = 0 then x else (x + (2 ^ (n - 1) : Nat)) / (2 ^ n : Nat)

def execVsadd (x : F2) (s : State) : Host.Outcome State Fault Refusal :=
  chain x.len s (classB x inI false false (satEl (· + ·)))
def execVssub (x : F2) (s : State) : Host.Outcome State Fault Refusal :=
  chain x.len s (classB x inI false false (satEl (· - ·)))
def execVsaddu (x : F2) (s : State) : Host.Outcome State Fault Refusal :=
  chain x.len s (classB x inI false false (satuEl (· + ·)))
def execVssubu (x : F2) (s : State) : Host.Outcome State Fault Refusal :=
  chain x.len s (classB x inI false false (satuEl (· - ·)))
def execVavg (x : F2) (s : State) : Host.Outcome State Fault Refusal :=
  chain x.len s (classB x inI false false fun f _ _ a b => wrapI f ((intOf f a + intOf f b + 1) / 2))
def execVmulh (x : F2) (s : State) : Host.Outcome State Fault Refusal :=
  chain x.len s (classB x inI false false fun f _ _ a b => wrapI f (intOf f a * intOf f b / (2 ^ f.width : Nat)))
def execVmulhu (x : F2) (s : State) : Host.Outcome State Fault Refusal :=
  chain x.len s (classB x inI false false fun f _ _ a b => (a * b / 2 ^ f.width, 0))
def execVsrr (x : F2) (s : State) : Host.Outcome State Fault Refusal :=
  chain x.len s (classB x inI false false fun f _ _ a b => wrapI f (roundShift (intOf f a) (b % f.width)))

end Sys2Proof.Machine
end

