-- ==== Sys2Proof/Machine/VectorMove.lean ====
section
/-! DEFINITION. Vector lengths and strips (R119 to R123), predicates (R124), moves and permutes (R129, R130), reductions
(R131, R132), conversions (R133, R134) and the narrow and block instructions of page 1 (R138 to R141). -/

namespace Sys2Proof.Machine

/-! Vector length. -/

/-- R119: the keep mask of a .k chain: the first PX word's low byte; the type or offset is in the others. -/
def keepOf (p : Pre) : Option Byte := if p.sub == 1 then p.px.head?.map (·.truncate 8) else some 0
def restPx (p : Pre) : List (BitVec 10) := if p.sub == 1 then p.px.drop 1 else p.px
def pxValue (l : List (BitVec 10)) : Nat := l.foldl (fun acc w => acc * 1024 + w.toNat) 0

/-- R120: registers outside the keep mask and not in stream mode become zero. -/
def Ctx.killDead (c : Ctx) (keep : Byte) : Ctx :=
  { c with
    v := Vector.ofFn fun i : Fin 32 => if c.streamOn i || keep.getLsbD (i / 4) then c.v[i] else 0
    vBad := Vector.ofFn fun i : Fin 32 => if c.streamOn i || keep.getLsbD (i / 4) then c.vBad[i] else 0 }

/-- R120, R320: a pending request is taken before the grant; the process stops for the save sequencer. -/
def Mach.takeRequest (s : Mach) (keep : Byte) : Option Mach := match s.cur with
  | none => none
  | some k =>
    if (s.proc k).map (·.req) == some true then
      some (s.updProc k fun p => { p with st := .saving, stop := some { kind := 0, keep := keep } })
    else none

/-- The outcome of a pre-emption point: the stop where a request is pending, otherwise the chain. -/
def atPoint (len : Nat) (s : State) (f : Mach → Try (Byte × Done)) : Host.Outcome State Fault Refusal :=
  match f s.toMach with
  | .ok (keep, d) => match s.toMach.takeRequest keep with
    | some m => .next { s with toMach := m.tock }
    | none => .next { s with toMach := d.finish len }
  | .error (.trap t) => .next { s with toMach := s.toMach.takeTrap len t }
  | .error (.trapIn t m) => .next { s with toMach := m.takeTrap len t }
  | .error (.wait w m) => .next { s with toMach := m.block w }

/-- R119: SetVl. -/
def setVl (x : F2) (n : Nat) (s : Mach) : Try (Byte × Done) :=
  match keepOf x.pre with
  | none => illegal 0x0C s.unstated
  | some keep =>
    let t := pxValue (restPx x.pre)
    if 2 ^ 16 ≤ t || !vtypeOk t then illegal 0x0C (BitVec.ofNat 64 t)
    else
      let vm := vlmaxOf t
      let vl := min n vm
      let c := { s.ctx with vtype := BitVec.ofNat 16 t, vlmax := vm, vl := vl, keep := keep }
      .ok (keep, { m := { s with ctx := (c.setG x.dN (BitVec.ofNat 64 vl)).killDead keep } })

def execSetvl (x : F2) (s : State) : Host.Outcome State Fault Refusal :=
  atPoint x.len s fun m => setVl x (m.g x.aN).toNat m
def execSetvli (x : F2) (s : State) : Host.Outcome State Fault Refusal :=
  atPoint x.len s fun m => setVl x (x.pre.ah * 16 + x.a.toNat) m

/-- R25: slots in use, register and width code of a slot; slot 0 holds its register in the low bits, slots 1 to 3 hold
their width code there. -/
def stripCount (w : Word) : Nat := min (bitsAt w.toNat 28 3) 4
/-- DEDUCED: log entry 86. -/
def slotReg (w : Word) (i : Nat) : Nat := if i = 0 then bitsAt w.toNat 0 5 else bitsAt w.toNat (7 * i + 2) 5
def slotCode (w : Word) (i : Nat) : Nat := if i = 0 then bitsAt w.toNat 5 2 else bitsAt w.toNat (7 * i) 2

/-- R198: the checks of a counter: alignment, a tile space by windows, the global space by translation and the flag. -/
def Mach.counterAt (s : Mach) (a : Word) (add : Bool) (elem : Nat := 0) : Try Spot := do
  checkAligned a 8 elem
  let x ← s.resolve a 8 true add elem
  if x.tile.isNone && !x.e.counter then raise (memTrap 0x06 0x0A a elem)
  .ok x

/-- R200: an atomic read of a counter, behind the process's own stores to its home. -/
def Mach.readCounter (s : Mach) (x : Spot) (a : Word) (elem : Nat := 0) : Try (Word × Mach) := do
  let s ← match x.tile with
    | some t => .ok (if t = s.here then s else s.drainTiles s.self (some t))
    | none => s.orderMq1
  if x.tile.isNone && s.poisoned x.key 8 then
    .error (.trapIn (memTrap 0x16 0x01 a elem) (s.countServer (serverOf x.key) 7 1))
  s.clean x.key 8 a elem
  .ok (BitVec.ofNat 64 (s.readNat a x.key 8), s)

/-- R122: the wait on the watermark. -/
def Mach.watermark (s : Mach) (newP n c : Nat) : Try Mach := do
  let a := s.g (bitsAt s.ctx.stripset.toNat 32 5)
  s.globalFirst a
  let x ← s.counterAt a false
  let (v, s) ← s.readCounter x a
  if newP + n * 2 ^ c ≤ v.toNat then .ok s
  else await { kind := .read, code := 0x06, opnd := 5, val := a, goal := BitVec.ofNat 64 (newP + n * 2 ^ c), tile := s.here } s

/-- R121: Strip. R122's check of the watermark's registers stands before the wait, also where rem = 0 makes none.
DEDUCED: log entry 114. -/
def strip (x : F2) (s : Mach) : Try (Byte × Done) :=
  match keepOf x.pre with
  | none => illegal 0x0C s.unstated
  | some keep => do
    let ss := s.ctx.stripset
    let cnt := stripCount ss
    let wen := ss.getLsbD 31
    if wen && (cnt = 0 || slotReg ss 0 = 0) then illegal 0x0C ss
    let n := (s.g x.dN).toNat
    let rem := if s.ctx.vl ≤ n then n - s.ctx.vl else 0
    let nvl := min rem s.ctx.vlmax
    let p0 := (s.g (slotReg ss 0) + BitVec.ofNat 64 (s.ctx.vl * 2 ^ slotCode ss 0)).toNat
    let pend := (s.cur.bind s.proc).map (·.req) == some true
    let s ← if rem ≠ 0 && wen && !pend then s.watermark p0 nvl (slotCode ss 0) else .ok s
    let vl := s.ctx.vl
    let s := (List.range cnt).foldl (fun m i =>
      m.setG (slotReg ss i) (m.g (slotReg ss i) + BitVec.ofNat 64 (vl * 2 ^ slotCode ss i))) s
    let c := s.ctx.setG x.dN (BitVec.ofNat 64 rem)
    let s := { s with ctx := { c with vl := nvl, keep := keep }.killDead keep }
    let off := signed (10 * (restPx x.pre).length) (pxValue (restPx x.pre))
    .ok (keep, branch (rem != 0) (s.branchTo x.len off) s)

def execStrip (x : F2) (s : State) : Host.Outcome State Fault Refusal := atPoint x.len s (strip x)

/-- R123. -/
def execStripcfg (x : F2) (s : State) : Host.Outcome State Fault Refusal :=
  plain x.len s fun m => { m with ctx := m.ctx.setSpecial 0x04 (BitVec.ofNat 64 x.u) }

/-! Predicates (R124). -/

/-- Bits below vl of a predicate. -/
def lowBits (p : PReg) (n : Nat) : PReg := BitVec.ofNat 1024 (p.toNat % 2 ^ n)

def predBinary (x : F2) (f : PReg → PReg → PReg) (s : Mach) : Try Done := do
  s.cleanP (if x.w then x.aN else x.dN) (if x.w then 2 else 4)
  s.cleanP (if x.w then x.eN else x.aN) (if x.w then 3 else 2)
  let a := s.p (if x.w then x.aN else x.dN)
  let b := s.p (if x.w then x.eN else x.aN)
  .ok { m := s.setP x.dN (lowBits (f a b) s.ctx.vl) }

def execPand (x : F2) (s : State) : Host.Outcome State Fault Refusal := chain x.len s (predBinary x fun a b => a &&& b)
def execPor (x : F2) (s : State) : Host.Outcome State Fault Refusal := chain x.len s (predBinary x fun a b => a ||| b)
def execPxor (x : F2) (s : State) : Host.Outcome State Fault Refusal := chain x.len s (predBinary x fun a b => a ^^^ b)

/-- R124: index of the lowest set bit below vl, or vl. -/
def Mach.firstSet (s : Mach) (n : Nat) : Nat := (firstBelow s.ctx.vl fun i => (s.p n).getLsbD i).getD s.ctx.vl

def predUnary (x : F2) (f : Mach → PReg) (s : Mach) : Try Done := do
  s.cleanP x.aN 2
  .ok { m := s.setP x.dN (lowBits (f s) s.ctx.vl) }

def ones (n : Nat) : PReg := BitVec.ofNat 1024 (2 ^ n - 1)

def execPnot (x : F2) (s : State) : Host.Outcome State Fault Refusal := chain x.len s (predUnary x fun m => ~~~ (m.p x.aN))
def execPbrkb (x : F2) (s : State) : Host.Outcome State Fault Refusal :=
  chain x.len s (predUnary x fun m => ones (m.firstSet x.aN))
def execPbrki (x : F2) (s : State) : Host.Outcome State Fault Refusal :=
  chain x.len s (predUnary x fun m => ones (m.firstSet x.aN + 1))

def predScalar (x : F2) (f : Mach → Word) (s : Mach) : Try Done := do
  s.cleanP x.aN 2
  .ok { m := s.setG x.dN (f s) }

def execPfirst (x : F2) (s : State) : Host.Outcome State Fault Refusal :=
  chain x.len s (predScalar x fun m =>
    if m.firstSet x.aN = m.ctx.vl then BitVec.allOnes 64 else BitVec.ofNat 64 (m.firstSet x.aN))
def execPcount (x : F2) (s : State) : Host.Outcome State Fault Refusal :=
  chain x.len s (predScalar x fun m => BitVec.ofNat 64 (popCount m.ctx.vl (m.p x.aN).toNat))

/-! Moves (R129). -/

def execVmov (x : F2) (s : State) : Host.Outcome State Fault Refusal :=
  chain x.len s (classU x inM4 false fun _ _ _ a => (a, 0))

/-- Copies of bits into a destination group, from the active mask and the source values; moves and permutes write zero to the
block tail, as the element-wise instructions do (R116). DEDUCED: log entry 108. -/
def moveOut (x : F2) (w : Nat) (ops : List VOp) (rs : List (Option Nat)) (s : Mach) (skip : Nat := 0) : Try Done := do
  let outs := s.vecOut x.pre x.dN w s.ctx.vlmax (blockPad s.ctx.blk s.ctx.vl) rs skip
  let s ← s.commit ops outs
  .ok { m := s }

/-- Active results by index. -/
def Mach.activeOnly (s : Mach) (p : Pre) (n : Nat) (f : Nat → Nat) : List (Option Nat) :=
  (List.range n).map fun i => if s.admits p i then some (f i) else none

def vsplat (x : F2) (s : Mach) : Try Done := do
  let fm ← s.needFmt inM4
  let ops := [s.vop fm.width 0 x.dN false true]
  checkGroups s.ctx.grp ops
  s.cleanGov x.pre
  let _ ← s.sources ops fm.width
  moveOut x fm.width ops (s.activeOnly x.pre s.ctx.vl fun _ => (s.g x.aN).toNat % 2 ^ fm.width) s

def execVsplat (x : F2) (s : State) : Host.Outcome State Fault Refusal := chain x.len s (vsplat x)

/-- R129: extension of an element into a g register. -/
def extEl (f : Fmt) (a : Nat) : Word := if f.signedInt then sext f.width a else BitVec.ofNat 64 a

def vext (x : F2) (s : Mach) : Try Done := do
  let fm ← s.needFmt inM4
  let ops := [s.vop fm.width 1 x.aN true false]
  checkGroups s.ctx.grp ops
  if s.ctx.vlmax ≤ x.u then illegal 0x0C (BitVec.ofNat 64 x.u)
  let v ← s.sources ops fm.width
  let a := (readElems v x.aN fm.width s.ctx.vlmax)[x.u]?.getD 0
  let s ← s.commit ops []
  .ok { m := s.setG x.dN (extEl fm a) }

def execVext (x : F2) (s : State) : Host.Outcome State Fault Refusal := chain x.len s (vext x)

/-- One element of a group replaced. -/
def Mach.insertOut (s : Mach) (reg w i val : Nat) : VOut :=
  let n := regsFor w s.ctx.vlmax
  let img := groupImage s.ctx.v reg n
  { reg := reg, n := n, img := img / 2 ^ (w * (i + 1)) * 2 ^ (w * (i + 1)) + val % 2 ^ w * 2 ^ (w * i) + img % 2 ^ (w * i)
    words := wordsWritten w ((List.range (i + 64)).map (· == i)) }

def vins (x : F2) (s : Mach) : Try Done := do
  let fm ← s.needFmt inM4
  let ops := [s.vop fm.width 0 x.dN false true]
  checkGroups s.ctx.grp ops
  if s.ctx.vlmax ≤ x.u then illegal 0x0C (BitVec.ofNat 64 x.u)
  let _ ← s.sources ops fm.width
  let s ← s.commit ops [s.insertOut x.dN fm.width x.u (s.g x.aN).toNat]
  .ok { m := s }

def execVins (x : F2) (s : State) : Host.Outcome State Fault Refusal := chain x.len s (vins x)

/-- R129: `vmerge`: every element below vl is written. -/
def vmerge (x : F2) (s : Mach) : Try Done := do
  let fm ← s.needFmt inM4
  let w := fm.width
  let ops := classOps s w x true
  checkGroups s.ctx.grp ops
  s.cleanGov x.pre
  let v ← s.sources ops w
  let n := s.ctx.vl
  let one := readElems v x.aN w n
  let two := readElems v (if x.w then x.eN else x.dN) w n
  moveOut x w ops (((s.mask x.pre n).zip (one.zip two)).map fun (p, a, b) => some (if p then a else b)) s

def execVmerge (x : F2) (s : State) : Host.Outcome State Fault Refusal := chain x.len s (vmerge x)

def vid (x : F2) (s : Mach) : Try Done := do
  let fm ← s.needFmt inI
  let ops := [s.vop fm.width 0 x.dN false true]
  checkGroups s.ctx.grp ops
  s.cleanGov x.pre
  let _ ← s.sources ops fm.width
  moveOut x fm.width ops (s.activeOnly x.pre s.ctx.vl fun i => i % 2 ^ fm.width) s

def execVid (x : F2) (s : State) : Host.Outcome State Fault Refusal := chain x.len s (vid x)

def viota (x : F2) (s : Mach) : Try Done := do
  let fm ← s.needFmt inI
  let ops := [s.vop fm.width 0 x.dN false true]
  checkGroups s.ctx.grp ops
  s.cleanGov x.pre
  let _ ← s.sources ops fm.width
  s.cleanP x.aN 2
  let p := (s.p x.aN).toNat
  moveOut x fm.width ops (s.activeOnly x.pre s.ctx.vl fun i => popCount i p % 2 ^ fm.width) s

def execViota (x : F2) (s : State) : Host.Outcome State Fault Refusal := chain x.len s (viota x)

/-- R129: `vcompress`: the active elements packed downward, the rest below vl by merging or zeroing. -/
def vcompress (x : F2) (s : Mach) : Try Done := do
  let fm ← s.needFmt inM
  let w := fm.width
  let ops := [s.vop w 0 x.dN false true, s.vop w 1 x.aN true false]
  checkGroups s.ctx.grp ops
  s.cleanGov x.pre
  let v ← s.sources ops w
  let n := s.ctx.vl
  let kept := ((s.mask x.pre n).zip (readElems v x.aN w n)).filterMap fun (p, a) => if p then some a else none
  moveOut x w ops (kept.map some ++ List.replicate (n - kept.length) none) s

def execVcompress (x : F2) (s : State) : Host.Outcome State Fault Refusal := chain x.len s (vcompress x)

/-! Permutes (R130). -/

/-- R116, R130: a source group as permutes read it: the block tail and what lies at vlmax and beyond read as zero. -/
def Mach.permSource (s : Mach) (v : Vector VReg 32) (reg w : Nat) : List Nat :=
  let l := readElems v reg w s.ctx.vlmax
  let pad := blockPad s.ctx.blk s.ctx.vl
  l.take s.ctx.vl ++ List.replicate (min pad (s.ctx.vlmax - s.ctx.vl)) 0 ++ l.drop (s.ctx.vl + pad)

def nth (l : List Nat) (i : Nat) : Nat := l[i]?.getD 0

/-- A permute of one source group; `e` is a further vector operand. -/
def permute (x : F2) (e : Bool) (f : Mach → List Nat → List Nat → Nat → Nat) (keep : Nat) (s : Mach) : Try Done := do
  let fm ← s.needFmt inM
  let w := fm.width
  let ops := [s.vop w 0 x.dN false true, s.vop w 1 x.aN true false] ++ (if e then [s.vop w 2 x.eN true false] else [])
  checkGroups s.ctx.grp ops
  s.cleanGov x.pre
  let v ← s.sources ops w
  let as := s.permSource v x.aN w
  let es := if e then readElems v x.eN w s.ctx.vl else []
  let old := readElems s.ctx.v x.dN w s.ctx.vl
  let rs := (List.range s.ctx.vl).map fun i =>
    if i < keep then some (nth old i) else if s.admits x.pre i then some (f s as es i) else none
  moveOut x w ops rs s keep

def execVslup (x : F2) (s : State) : Host.Outcome State Fault Refusal :=
  chain x.len s (permute x false (fun _ as _ i => nth as (i - x.u)) x.u)
def execVsldn (x : F2) (s : State) : Host.Outcome State Fault Refusal :=
  chain x.len s (permute x false (fun _ as _ i => nth as (i + x.u)) 0)
def execVrgat (x : F2) (s : State) : Host.Outcome State Fault Refusal :=
  chain x.len s (permute x true (fun _ as es i => nth as (nth es i)) 0)
def execVrev (x : F2) (s : State) : Host.Outcome State Fault Refusal :=
  chain x.len s (permute x false (fun m as _ i => nth as (m.ctx.vl - 1 - i)) 0)

/-- A g operand cut to the element width. -/
def Mach.gElem (m : Mach) (n : Nat) : Nat := (m.g n).toNat % 2 ^ ((m.ctx.fmt.map Fmt.width).getD 64)

def execVsl1up (x : F2) (s : State) : Host.Outcome State Fault Refusal :=
  chain x.len s (permute x false (fun m as _ i => if i = 0 then m.gElem x.eN else nth as (i - 1)) 0)
def execVsl1dn (x : F2) (s : State) : Host.Outcome State Fault Refusal :=
  chain x.len s (permute x false (fun m as _ i => if i + 1 = m.ctx.vl then m.gElem x.eN else nth as (i + 1)) 0)

/-- A permute of the two sources of class B. -/
def permuteB (x : F2) (f : Nat → List Nat → List Nat → Nat → Nat) (s : Mach) : Try Done := do
  let fm ← s.needFmt inM
  let w := fm.width
  let ops := classOps s w x true
  checkGroups s.ctx.grp ops
  s.cleanGov x.pre
  let v ← s.sources ops w
  let n := s.ctx.vl
  let xs := readElems v (if x.w then x.aN else x.dN) w n
  let ys := readElems v (if x.w then x.eN else x.aN) w n
  moveOut x w ops (s.activeOnly x.pre n fun i => f n xs ys i) s

def execVzip (x : F2) (s : State) : Host.Outcome State Fault Refusal :=
  chain x.len s (permuteB x fun _ xs ys i => if i % 2 = 0 then nth xs (i / 2) else nth ys ((i - 1) / 2))
def execVunzip (x : F2) (s : State) : Host.Outcome State Fault Refusal :=
  chain x.len s (permuteB x fun _ xs ys i => nth (xs ++ ys) (2 * i + x.pre.sub))

/-! Reductions (R131, R132). -/

/-- One level of the tree: pairs of nodes, with the draw of each; flags gather. -/
def treeLevel (f : Nat → Nat → Nat → Res) : List (Option Nat) → Nat → List (Option Nat) × Nat × Nat
  | l :: h :: r, k =>
    let (rest, k', fl) := treeLevel f r (k + 1)
    match l, h with
    | none, _ => (h :: rest, k', fl)
    | _, none => (l :: rest, k', fl)
    | some a, some b => let (c, g) := f k a b; (some c :: rest, k', Nat.lor fl g)
  | l, k => (l, k, 0)

def treeSum (f : Nat → Nat → Nat → Res) : Nat → List (Option Nat) → Nat → Option Nat × Nat × Nat
  | 0, l, k => (l.head?.join, k, 0)
  | n + 1, l, k =>
    let (l', k', fl) := treeLevel f l k
    let (r, k'', fl') := treeSum f n l' k'
    (r, k'', Nat.lor fl fl')

/-- The smallest power of two at or above n, as an exponent. -/
def log2Up (n : Nat) : Nat := if n ≤ 1 then 0 else bitLen (n - 1)

/-- R131: a reduction from its start value and the participants; the elements above the first follow ta with vl = 0 too, as
R131 says of them, and not as R116 says of a tail. DEDUCED: log entry 109. -/
def reduce (x : F2) (ok : Fmt → Bool) (draws : Nat → Nat)
    (f : Fmt → Nat → (Nat → Nat) → Nat → List (Option Nat) → Res) (s : Mach) : Try Done := do
  let fm ← s.needFmt ok
  let w := fm.width
  let ops := if x.w then [s.vop w 0 x.dN false true, s.vop w 1 x.aN true false, s.vop w 2 x.eN true false]
    else [s.vop w 0 x.dN true true, s.vop w 1 x.aN true false]
  checkGroups s.ctx.grp ops
  s.cleanGov x.pre
  let v ← s.sources ops w
  let n := s.ctx.vl
  let nd := if fm.isFloat then draws n else 0
  s.checkOutputs (s.ctx.rsrOutputs nd)
  let parts := ((s.mask x.pre n).zip (readElems v x.aN w n)).map fun (p, a) => if p then some a else none
  let init := nth (readElems v (if x.w then x.eN else x.dN) w 1) 0
  let (r, fl) := f fm s.ctx.rm s.ctx.draw init parts
  let k := regsFor w s.ctx.vlmax
  let old := elems w s.ctx.vlmax (groupImage s.ctx.v x.dN k)
  let new := r :: tailElems s.ctx.ta 0 (old.drop 1)
  let rest := groupImage s.ctx.v x.dN k / 2 ^ (w * s.ctx.vlmax) * 2 ^ (w * s.ctx.vlmax)
  let wrote := (List.range s.ctx.vlmax).map fun i => i == 0 || s.ctx.ta
  let out : VOut := { reg := x.dN, n := k, img := rest + pack w new, words := wordsWritten w wrote }
  let outs := s.ctx.rsrOutputs nd
  let s ← s.recordFlags [(0, fl)]
  let s ← (s.advanceRng outs).commit ops [out]
  .ok { m := s }

/-- R132; without a participant r is init with its bits as they are, a NaN too. DEDUCED: log entry 110. -/
def redTree (f : Fmt) (rm : Nat) (draw : Nat → Nat) (init : Nat) (l : List (Option Nat)) : Res :=
  let depth := log2Up (max l.length 1)
  let full := l ++ List.replicate (2 ^ depth - l.length) none
  let (root, _, fl) := treeSum (fun k a b => addEl f rm (draw k) a b) depth full 0
  match root with
  | none => (init, fl)
  | some a => let (c, g) := addEl f rm (draw (2 ^ depth - 1)) init a; (c, Nat.lor fl g)

def redSeq (f : Fmt) (rm : Nat) (draw : Nat → Nat) (init : Nat) (l : List (Option Nat)) : Res :=
  ((List.range l.length).zip l).foldl (fun (acc, fl) (i, a) => match a with
    | none => (acc, fl)
    | some a => let (c, g) := addEl f rm (draw i) acc a; (c, Nat.lor fl g)) (init, 0)

def redFold (g : Fmt → Nat → Nat → Nat → Nat → Res) (f : Fmt) (rm : Nat) (_draw : Nat → Nat) (init : Nat)
    (l : List (Option Nat)) : Res :=
  l.foldl (fun (acc, fl) a => match a with
    | none => (acc, fl)
    | some a => let (c, h) := g f rm 0 acc a; (c, Nat.lor fl h)) (init, 0)

/-- R131: a floating maximum or minimum is canonical when init alone is a NaN. -/
def redMinMax (wantMax : Bool) (f : Fmt) (rm : Nat) (draw : Nat → Nat) (init : Nat) (l : List (Option Nat)) : Res :=
  let (c, fl) := redFold (minMaxEl wantMax) f rm draw init l
  if f.isFloat && (decodeF f c).isNan then (f.nan, Nat.lor fl (sigFlag (decodeF f c))) else (c, fl)

def execVredsum (x : F2) (s : State) : Host.Outcome State Fault Refusal :=
  chain x.len s (reduce x inIF (fun n => 2 ^ log2Up (max n 1)) redTree)
def execVredosum (x : F2) (s : State) : Host.Outcome State Fault Refusal :=
  chain x.len s (reduce x inIF (fun n => max n 1) redSeq)
def execVredmax (x : F2) (s : State) : Host.Outcome State Fault Refusal :=
  chain x.len s (reduce x inIF (fun _ => 0) (redMinMax true))
def execVredmin (x : F2) (s : State) : Host.Outcome State Fault Refusal :=
  chain x.len s (reduce x inIF (fun _ => 0) (redMinMax false))
def execVredand (x : F2) (s : State) : Host.Outcome State Fault Refusal :=
  chain x.len s (reduce x inI (fun _ => 0) (redFold (bitEl Nat.land)))
def execVredor (x : F2) (s : State) : Host.Outcome State Fault Refusal :=
  chain x.len s (reduce x inI (fun _ => 0) (redFold (bitEl Nat.lor)))
def execVredxor (x : F2) (s : State) : Host.Outcome State Fault Refusal :=
  chain x.len s (reduce x inI (fun _ => 0) (redFold (bitEl Nat.xor)))

/-! Conversions (R133, R134). -/

/-- R116: the size of a destination group of another width, at most 8, with the alignment of its register. -/
def Mach.destGroup (s : Mach) (reg w wd total : Nat) : Try Unit :=
  if wd = w then checkGroup reg s.ctx.grp 1
  else
    let size := regsFor wd total
    if 8 < size then illegal 0x0D s.unstated else checkGroup reg size 1

/-- Class U into a destination of width wd; `bad`: its operand code is refused, behind the alignment (R117 step 1). -/
def convert (x : F2) (fm : Fmt) (wd nd : Nat) (f : Nat → Nat → Nat → Res) (s : Mach) (bad : Bool := false) : Try Done := do
  let w := fm.width
  s.destGroup x.dN w wd s.ctx.vlmax
  checkGroup x.aN s.ctx.grp 2
  if bad then illegal 0x0C (BitVec.ofNat 64 x.u)
  let ops : List VOp := [{ pos := 0, reg := x.dN, n := regsFor wd s.ctx.vlmax, src := false, dst := true, span := if wd = w then s.ctx.grp else 0 },
    s.vop w 1 x.aN true false]
  s.cleanGov x.pre
  let v ← s.sources ops w
  let n := s.ctx.vl
  let rs := ((List.range n).zip (readElems v x.aN w n)).map fun (i, a) => f s.ctx.rm (s.ctx.draw i) a
  s.elementwise x.pre ops x.dN wd s.ctx.vlmax (blockPad s.ctx.blk n) nd (s.mask x.pre n) rs

/-- R133: one element converted; `sat` is false for the non-saturating fp8e4. -/
def cvtEl (src dst : Fmt) (sat : Bool) (rm draw a : Nat) : Res :=
  if src.isInt then
    if dst.isInt then (patOf dst.width (clamp dst.intMin dst.intMax (intOf src a)), 0)
    else
      let (c, fl) := roundTo dst rm draw (Fx.ofInt (intOf src a))
      if !sat && Nat.land fl fOf ≠ 0 then (0x7F, fl) else (c, fl)
  else
    let x := decodeF src a
    if dst.isInt then toIntFmt dst rm draw x
    else
      let (c, fl) := ({ v := x, fl := sigFlag x } : Ex).round dst rm draw
      if !sat && Nat.land fl fOf ≠ 0 then (0x7F, fl) else (c, fl)

/-- R133: the target of a sub code. -/
def cvtTarget (sub : Nat) : Fmt := if sub = 13 then .fp8e4 else (Fmt.ofCode sub).getD .int8

/-- R133, R74: a draw for each element wherever one of the two formats is a floating one, the same format too. DEDUCED: log entry 111. -/
def vcvt (x : F2) (s : Mach) : Try Done := do
  let fm ← s.needFmt inM4
  let dst := cvtTarget x.pre.sub
  let nd := if fm.isInt && dst.isInt then 0 else s.ctx.vl
  convert x fm dst.width nd (cvtEl fm dst (x.pre.sub != 13)) s

def execVcvt (x : F2) (s : State) : Host.Outcome State Fault Refusal := chain x.len s (vcvt x)

/-- R134: the result formats of `vwiden` and `vnarrow`. -/
def widerFmt : Fmt → Option Fmt
  | .int8 => some .int16
  | .uint8 => some .int16
  | .int16 => some .int32
  | .int32 => some .int64
  | .fp4 => some .fp8e4
  | .fp8e4 => some .bf16
  | .fp8e5 => some .fp16
  | .bf16 => some .fp32
  | .fp16 => some .fp32
  | .fp32 => some .fp64
  | _ => none

def narrowerFmt : Fmt → Option Fmt
  | .int16 => some .int8
  | .int32 => some .int16
  | .int64 => some .int32
  | .fp64 => some .fp32
  | .fp32 => some .bf16
  | .bf16 => some .fp8e4
  | .fp16 => some .fp8e5
  | .fp8e4 => some .fp4
  | .fp8e5 => some .fp4
  | _ => none

def vwiden (x : F2) (s : Mach) : Try Done := do
  let fm ← s.needFmt fun f => (widerFmt f).isSome
  let dst := (widerFmt fm).getD fm
  convert x fm dst.width 0 (fun _ _ a => cvtEl fm dst true 0 0 a) s

def execVwiden (x : F2) (s : State) : Host.Outcome State Fault Refusal := chain x.len s (vwiden x)

def vnarrow (x : F2) (s : Mach) : Try Done := do
  let fm ← s.needFmt fun f => (narrowerFmt f).isSome
  let dst := (narrowerFmt fm).getD fm
  if fm.isInt then convert x fm dst.width 0 (fun _ _ a => (a % 2 ^ dst.width, 0)) s
  else convert x fm dst.width s.ctx.vl (cvtEl fm dst true) s

def execVnarrow (x : F2) (s : State) : Host.Outcome State Fault Refusal := chain x.len s (vnarrow x)

/-- R134: an integral value in the element's own format. -/
def rintEl (f : Fmt) (rm draw a : Nat) : Res := match decodeF f a with
  | .nan s => (f.nan, sigFlag (.nan s))
  | .inf n => (f.infCode n, 0)
  | .num x =>
    let (n, inex) := roundAt rm draw x 0
    if 0 ≤ x.e then (a, 0)
    else ((roundTo f 0 0 { neg := x.neg, m := n, e := 0 }).1, if inex then fNx else 0)

def execVrint (x : F2) (s : State) : Host.Outcome State Fault Refusal := chain x.len s (classU x inF true rintEl)

/-! Page 1: narrowing, widening sums, blocks, pruning. -/

def halfWide (f : Fmt) : Bool := f == .int16 || f == .int32 || f == .int64

/-- R138. -/
def vnclip (x : F2) (sg : Bool) (s : Mach) : Try Done := do
  let fm ← s.needFmt halfWide
  let w := fm.width
  convert x fm (w / 2) 0 (fun _ _ a =>
    if sg then (satS (w / 2) (roundShift (signed w a) x.u), 0) else (satU (w / 2) (roundShift a x.u), 0)) s (w ≤ x.u)

def execVnclip (x : F2) (s : State) : Host.Outcome State Fault Refusal := chain x.len s (vnclip x true)
def execVnclipu (x : F2) (s : State) : Host.Outcome State Fault Refusal := chain x.len s (vnclip x false)

/-- R139: the destinations of the widening instructions. -/
def macwDest : Fmt → Option Fmt
  | .int8 => some .int16
  | .uint8 => some .int16
  | .int16 => some .int32
  | .int32 => some .int64
  | .bf16 => some .fp32
  | .fp16 => some .fp32
  | .fp32 => some .fp64
  | _ => none

def dotwDest : Fmt → Option Fmt
  | .int8 => some .int32
  | .uint8 => some .int32
  | .fp8e4 => some .fp32
  | .fp8e5 => some .fp32
  | _ => none

/-- R139, R116: a class A instruction into a wider destination, whose group is that of vlmax elements, `n` of them below its
length; its block tail counts from there. DEDUCED: log entry 112. -/
def widening (x : F2) (fm dst : Fmt) (n : Nat) (act : List Bool)
    (f : Nat → Nat → Nat → List Nat → List Nat → Res) (s : Mach) : Try Done := do
  let w := fm.width
  let wd := dst.width
  let total := s.ctx.vlmax
  s.destGroup x.dN w wd total
  checkGroup x.aN s.ctx.grp 2
  if x.w then checkGroup x.eN s.ctx.grp 3
  let ops : List VOp := [{ pos := 0, reg := x.dN, n := regsFor wd total, src := true, dst := true, ew := some wd }, s.vop w 1 x.aN true false] ++
    (if x.w then [s.vop w 2 x.eN true false] else [])
  s.cleanGov x.pre
  let v ← s.sources ops w
  let ds := readElems v x.dN wd n
  let xs := readElems v x.aN w s.ctx.vl
  let ys := readElems v (if x.w then x.eN else x.aN) w s.ctx.vl
  let rs := ((List.range n).zip ds).map fun (i, d) => f (s.ctx.draw i) i d xs ys
  s.elementwise x.pre ops x.dN wd total (blockPad s.ctx.blk s.ctx.vl) (if dst.isFloat then n else 0) act rs

def vmacw (x : F2) (s : Mach) : Try Done := do
  let fm ← s.needFmt fun f => (macwDest f).isSome
  let dst := (macwDest fm).getD fm
  let n := s.ctx.vl
  widening x fm dst n (s.mask x.pre n) (fun draw i d xs ys =>
    if fm.isInt then wrapI dst (intOf dst d + intOf fm (nth xs i) * intOf fm (nth ys i))
    else (fFma s.ctx.rm (decodeF fm (nth xs i)) (decodeF fm (nth ys i)) (decodeF dst d)).round dst s.ctx.rm draw) s

def execVmacw (x : F2) (s : State) : Host.Outcome State Fault Refusal := chain x.len s (vmacw x)

/-- R139: the exact sum of a destination element and its active products. -/
def dotSum (rm : Nat) (fm : Fmt) (d : Fl) (ps : List (Nat × Nat)) : Ex :=
  ps.foldl (fun acc (a, b) =>
    let r := fFma rm (decodeF fm a) (decodeF fm b) acc.v
    { v := r.v, fl := Nat.lor acc.fl r.fl }) { v := d, fl := sigFlag d }

def vdotw (x : F2) (s : Mach) : Try Done := do
  let fm ← s.needFmt fun f => (dotwDest f).isSome
  let dst := (dotwDest fm).getD fm
  let n := (s.ctx.vl + 3) / 4
  let on := fun k => k < s.ctx.vl && s.admits x.pre k
  let act := (List.range n).map fun i => (List.range 4).any fun j => on (4 * i + j)
  widening x fm dst n act (fun draw i d xs ys =>
    let ks := (List.range 4).filterMap fun j => if on (4 * i + j) then some (nth xs (4 * i + j), nth ys (4 * i + j)) else none
    if fm.isInt then wrapI dst (ks.foldl (fun acc (a, b) => acc + intOf fm a * intOf fm b) (intOf dst d))
    else (dotSum s.ctx.rm fm (decodeF dst d) ks).round dst s.ctx.rm draw) s

def execVdotw (x : F2) (s : State) : Host.Outcome State Fault Refusal := chain x.len s (vdotw x)

/-! Blocks of eight (R72, R140). -/

def blockFmt (f : Fmt) : Bool := f == .bf16 || f == .fp16 || f == .fp32 || f == .fp8e4 || f == .fp8e5
def deqFmt (f : Fmt) : Bool := f == .bf16 || f == .fp16 || f == .fp32

def Mach.needBlocks (s : Mach) (ok : Fmt → Bool) : Try Fmt := do
  let fm ← s.needFmt ok
  if s.ctx.blk ≠ 8 then illegal 0x0D s.unstated
  .ok fm

/-- R72 step 4: the smallest scale whose six-fold reaches the largest magnitude. -/
def scaleFor (m : Fx) : Nat :=
  ((List.range 256).find? fun c => !(Fx.lt ((scaleFx c).mul (Fx.ofInt 6)) m)).getD 255

/-- R72 steps 1, 2 and 4 for the elements of one block; inactive ones are none. -/
def blockScale (f : Fmt) (l : List (Option Nat)) : Nat :=
  let vs := l.filterMap fun a => a.map (decodeF f)
  if vs.any Fl.isNan then 0
  else if vs.any (fun v => match v with | .inf _ => true | _ => false) then 255
  else
    let m := vs.foldl (fun acc v => match v with
      | .num x => if Fx.lt acc { x with neg := false } then { x with neg := false } else acc
      | _ => acc) (Fx.zero false)
    if m.isZero then 0 else scaleFor m

def nanFlags (f : Fmt) (l : List (Nat × Option Nat)) : List (Nat × Nat) :=
  l.filterMap fun (i, a) => match a with
    | some a => if (decodeF f a).isNan then some (i, fNv) else none
    | none => none

def vbmax (x : F2) (s : Mach) : Try Done := do
  let fm ← s.needBlocks blockFmt
  let w := fm.width
  checkGroup x.aN s.ctx.grp 2
  let ops : List VOp := [{ pos := 0, reg := x.dN, n := 1, src := false, dst := true }, s.vop w 1 x.aN true false]
  s.cleanGov x.pre
  let v ← s.sources ops w
  let n := s.ctx.vl
  let xs := ((s.mask x.pre n).zip (readElems v x.aN w n)).map fun (p, a) => if p then some a else none
  let codes := (pieces (n + 1) 8 xs).map (blockScale fm)
  let old := elems 8 512 (groupImage s.ctx.v x.dN 1)
  let outs : List VOut := if n = 0 then [] else
    [{ reg := x.dN, n := 1, img := pack 8 (codes ++ tailElems s.ctx.ta 0 (old.drop codes.length))
       words := wordsWritten 8 ((List.range 512).map fun i => i < codes.length || s.ctx.ta) }]
  let s ← s.recordFlags (nanFlags fm ((List.range n).zip xs))
  let s ← s.commit ops outs
  .ok { m := s }

def execVbmax (x : F2) (s : State) : Host.Outcome State Fault Refusal := chain x.len s (vbmax x)

/-- R72 step 5, R140: one code, by the block's scale and whether the block holds a NaN; a quotient beyond ±6 overflows in
every rounding mode. -/
def scaleEl (f : Fmt) (nan : Bool) (sigma : Nat) (rm draw a : Nat) : Res :=
  let x := decodeF f a
  if nan then (0, if x.isNan then fNv else 0)
  else if sigma = 0 then (x.isNeg.toNat * 8, 0)
  else match x with
    | .num y =>
      if y.isZero then (y.neg.toNat * 8, 0)
      else if Fx.lt ((scaleFx sigma).mul (Fx.ofInt 6)) { y with neg := false } then (y.neg.toNat * 8 + 7, Nat.lor fOf fNx)
      else roundTo .fp4 rm draw (y.div (scaleFx sigma))
    | _ => (x.isNeg.toNat * 8 + 7, Nat.lor fOf fNx)

/-- R140; from vl to the end of its block, the codes are the zeros of the block tail (R116), which R72 step 1 does not count as
elements. DEDUCED: log entry 113. -/
def vbscale (x : F2) (s : Mach) : Try Done := do
  let fm ← s.needBlocks blockFmt
  let w := fm.width
  s.destGroup x.dN w 4 s.ctx.vlmax
  checkGroup x.aN s.ctx.grp 2
  let ops : List VOp := [{ pos := 0, reg := x.dN, n := regsFor 4 s.ctx.vlmax, src := false, dst := true },
    s.vop w 1 x.aN true false, { pos := 2, reg := x.eN, n := 1, src := true, dst := false, ew := some 8 }]
  s.cleanGov x.pre
  let v ← s.sources ops w
  let n := s.ctx.vl
  let act := s.mask x.pre n
  let xs := readElems v x.aN w n
  let sc := readElems v x.eN 8 512
  let nanBlock := fun b => ((List.range 8).any fun j =>
    (act[8 * b + j]?.getD false) && (decodeF fm (nth xs (8 * b + j))).isNan)
  let rs := ((List.range n).zip xs).map fun (i, a) => scaleEl fm (nanBlock (i / 8)) (nth sc (i / 8)) s.ctx.rm (s.ctx.draw i) a
  s.elementwise x.pre ops x.dN 4 s.ctx.vlmax (blockPad 8 n) n act rs

def execVbscale (x : F2) (s : State) : Host.Outcome State Fault Refusal := chain x.len s (vbscale x)

/-- R140: a code times its scale, rounded once. -/
def deqEl (f : Fmt) (sigma rm draw code : Nat) : Res := match decodeF .fp4 code with
  | .num x => roundTo f rm draw (let p := x.mul (scaleFx sigma); if p.m = 0 then Fx.zero x.neg else p)
  | _ => (0, 0)

/-- R140, R116: the destination is wider than the codes, so vd is held to its own group's size and va to G. -/
def vbdeq (x : F2) (s : Mach) : Try Done := do
  let fm ← s.needBlocks deqFmt
  let w := fm.width
  checkGroup x.dN (regsFor w s.ctx.vlmax) 1
  checkGroup x.aN s.ctx.grp 2
  let ops : List VOp := [{ pos := 0, reg := x.dN, n := regsFor w s.ctx.vlmax, src := false, dst := true }, s.vop 4 1 x.aN true false,
    { pos := 2, reg := x.eN, n := 1, src := true, dst := false, ew := some 8 }]
  s.cleanGov x.pre
  let v ← s.sources ops 4
  let n := s.ctx.vl
  let sc := readElems v x.eN 8 512
  let rs := ((List.range n).zip (readElems v x.aN 4 n)).map fun (i, a) =>
    deqEl fm (nth sc (i / 8)) s.ctx.rm (s.ctx.draw i) a
  s.elementwise x.pre ops x.dN w s.ctx.vlmax (blockPad 8 n) n (s.mask x.pre n) rs

def execVbdeq (x : F2) (s : State) : Host.Outcome State Fault Refusal := chain x.len s (vbdeq x)

/-- R141: is a ranked above b: the magnitudes, a NaN above every number. -/
def aboveMag (f : Fmt) (a b : Nat) : Bool :=
  if f.isInt then (intOf f b).natAbs < (intOf f a).natAbs
  else match decodeF f a, decodeF f b with
    | .nan _, .nan _ => false
    | .nan _, _ => true
    | _, .nan _ => false
    | x, y => flLt y.abs x.abs

/-- R141: pruning of a group of up to four elements; none is inactive. -/
def pruneGroup (f : Fmt) (l : List (Option Nat)) : List (Option Nat) :=
  let ix := (List.range l.length).zip l
  ix.map fun (i, a) => a.map fun a =>
    let better := (ix.filter fun (j, b) => match b with
      | some b => aboveMag f b a || (j < i && !aboveMag f a b)
      | none => false).length
    if better < 2 then a else 0

def vsparse (x : F2) (s : Mach) : Try Done := do
  let fm ← s.needFmt inIF
  let w := fm.width
  let ops := [s.vop w 0 x.dN false true, s.vop w 1 x.aN true false]
  checkGroups s.ctx.grp ops
  s.cleanGov x.pre
  let v ← s.sources ops w
  let n := s.ctx.vl
  let xs := ((s.mask x.pre n).zip (readElems v x.aN w n)).map fun (p, a) => if p then some a else none
  moveOut x w ops ((pieces (n + 1) 4 xs).flatMap (pruneGroup fm)) s

def execVsparse (x : F2) (s : State) : Host.Outcome State Fault Refusal := chain x.len s (vsparse x)

end Sys2Proof.Machine
end

