-- ==== Sys2Proof/Machine/Sync.lean ====
section
/-! DEFINITION. Counters (R197 to R201) and barriers (R202, R203), with the steps of the barrier root and of the time-out of
`vwait`. -/

namespace Sys2Proof.Machine

/-! Counters. -/

/-- R187: counter j of a `cpydist` descriptor. -/
def partCtr (desc : Nat) (j : Nat) : Nat := bitsAt desc (8 * (72 + 16 * j)) 64
def noCtr : Nat := 0xFFFFFFFFFFFFFFFF

/-- R189: does a copy in progress name a counter. -/
def Copy.names (c : Copy) (a : Word) : Bool :=
  c.ctr == a || (c.kind == 3 && (List.range (bitsAt c.desc.toNat 136 8)).any fun j =>
    partCtr c.desc.toNat j == a.toNat && a.toNat != noCtr)

/-- R189: the copy-fault rule of a wait: the earliest fault recorded for the counter, when nothing of the context that
names it is still in progress; its delivery clears the entry. -/
def Mach.counterFault (s : Mach) (a : Word) (elem : Nat := 0) : Try Unit :=
  let mine := s.ctx.faults.filter fun f => f.ctr == some a
  if mine.any (·.live) || s.copies.any (fun c => c.proc == s.self && c.names a) then .ok ()
  else match mine.head? with
    | none => .ok ()
    | some f => .error (.trapIn { cause := 0x1C, reason := f.cause, opnd := 5, value := f.addr, ref := f.desc.toNat, elem := elem }
        { s with ctx := { s.ctx with faults := s.ctx.faults.filter fun y => y.key != f.key } })

/-- R200. -/
def waitge (x : F2) (s : Mach) : Try Done := do
  let a := s.g x.dN
  s.globalFirst a
  let spot ← s.counterAt a false
  let (v, s) ← s.readCounter spot a
  if (s.g x.aN).toNat ≤ v.toNat then .ok { m := s }
  else
    s.counterFault a
    await { kind := .read, code := 0x05, opnd := 5, val := a, goal := s.g x.aN, tile := s.here, ctrs := [a] } s

def execWaitge (x : F2) (s : State) : Host.Outcome State Fault Refusal := chain x.len s (waitge x)

/-- R198, R199, R185: a saturating add at a counter's owner, behind what its server has accepted; a mark falls on a
watched source (R168). -/
def Mach.addCounter (s : Mach) (x : Spot) (a v : Word) : Try Mach := do
  let s := if x.tile.isNone then (s.settle.countServer (serverOf x.key) 2 1).markStale x.key 8 else s
  s.clean x.key 8 a
  .ok (s.putNat x.key 8 (satAdd (BitVec.ofNat 64 (s.readNat a x.key 8)) v).toNat)

def cadd (x : F2) (s : Mach) : Try Done := do
  let a := s.g x.dN
  s.globalFirst a
  let spot ← s.counterAt a true
  let s ← s.release
  let s ← s.addCounter spot a (s.g x.aN)
  .ok { m := s }

def execCadd (x : F2) (s : State) : Host.Outcome State Fault Refusal := chain x.len s (cadd x)

/-- R201: the active elements of `vwait` that are unmet, each checked and read in ascending order. -/
def unmet (check : Bool) : List (Nat × Word × Word) → Mach → List (Nat × Word × Word) → Try (List (Nat × Word × Word) × Mach)
  | [], s, acc => .ok (acc, s)
  | (i, a, t) :: r, s, acc => do
    let x ← s.counterAt a false i
    if check then unmet check r s acc
    else
      let (v, s) ← s.readCounter x a i
      if t.toNat ≤ v.toNat then unmet check r s acc
      else
        s.counterFault a i
        unmet check r s (acc ++ [(i, a, t)])

/-- R201. -/
def vwait (x : F2) (s : Mach) : Try Done := do
  if !(s.ctx.fmt == some .int64 && s.ctx.grp == 1) then illegal 0x0D s.unstated
  if x.aN % 2 ≠ 0 then illegal 0x0B (BitVec.ofNat 64 x.aN) 2
  let ops : List VOp := [{ pos := 1, reg := x.aN, n := 2, src := true, dst := false, anew := some 64 }]
  s.cleanGov x.pre
  let v ← s.sources ops 64
  let n := s.ctx.vl
  let rows := (List.range n).zip ((readElems v x.aN 64 n).zip (readElems v (x.aN + 1) 64 n))
  let act := rows.filterMap fun (i, a, t) =>
    if s.admits x.pre i then some (i, BitVec.ofNat 64 a, BitVec.ofNat 64 t) else none
  let _ ← unmet true act s []
  let (left, s) ← unmet false act s []
  let finish : Try Done := do
    let s ← s.commit ops []
    let bits := left.foldl (fun acc y => acc + 2 ^ y.1) 0
    .ok { m := s.setP (x.dN % 8) (BitVec.ofNat 1024 bits) }
  match left with
  | [] => finish
  | (i, a, t) :: _ =>
    if s.ctx.issued.fired then
      if s.ctx.lapLen ≠ 0 then raise { cause := 0x1A, opnd := 5, value := a, elem := i }
      else finish
    else
      let timed := x.w && s.g x.eN != 0
      await { kind := .read, code := 0x05, opnd := 5, val := a, goal := t, tile := s.here, ctrs := left.map (·.2.1) }
        { s with ctx := { s.ctx with issued := { s.ctx.issued with started := timed } } }

def execVwait (x : F2) (s : State) : Host.Outcome State Fault Refusal := chain x.len s (vwait x)

/-- R201: the time-out of a `vwait` that waits with one expires; the chain finds it expired when it goes on. -/
def execVwaitTimeout (proc : Nat) (s : State) : Host.Outcome State Fault Refusal :=
  let m := s.toMach
  let c := m.ctxOf proc
  if ((m.proc proc).map fun p => p.st == .blocked && !p.held).getD false && c.issued.started then
    .next { s with toMach := (m.setCtxOf proc { c with issued := { c.issued with fired := true } }).tock }
  else .next s

/-! Barriers. -/

def Net.barrier (x : Net) (n : Nat) : Option Barrier := x.bars.find? fun b => b.id == n
def Net.updBarrier (x : Net) (n : Nat) (f : Barrier → Barrier) : Net :=
  { x with bars := x.bars.map fun b => if b.id == n then f b else b, active := true }

/-- R202: the declared barrier that a chain names. -/
def Mach.barrierAt (s : Mach) (n : Nat) : Try Barrier :=
  match if 63 < n then none else s.curNet.bind fun x => x.barrier n with
  | some b => .ok b
  | none => illegal 0x0C (BitVec.ofNat 64 n)

/-- R202: where the pending arrival of the context stands: none, not yet complete, or complete. -/
inductive Arrival where
  | none | open | complete
  deriving DecidableEq, Repr

def Mach.arrival (s : Mach) (b : Barrier) : Arrival :=
  if b.flight.any fun f => f.1 == s.self then .open
  else match s.ctx.pending.find? fun p => p.1 == b.id with
    | some (_, g) => if g < b.gen then .complete else .open
    | .none => .none

def Ctx.clearPending (c : Ctx) (n : Nat) : Ctx := { c with pending := c.pending.filter fun p => p.1 != n }

/-- R301: the wait on a barrier. -/
def barWait {α : Type} (b : Barrier) (s : Mach) : Try α :=
  await { kind := .read, code := 0x04, ref := b.id, val := BitVec.ofNat 64 b.here.length } s

/-- R202: Arrive: the release, and the arrival sent to the barrier root. -/
def Mach.arriveAt (s : Mach) (b : Barrier) (ss : Bool) : Try Mach := do
  let s ← s.release
  let s := { s with ctx := { s.ctx.clearPending b.id with issued := { s.ctx.issued with arrived := some b.id } } }
  .ok (s.updCur fun x => x.updBarrier b.id fun b => { b with flight := b.flight ++ [(s.self, ss)] })

/-- R202, R203: `bar` and `sstep`. -/
def bar (ss : Bool) (x : F2) (s : Mach) : Try Done := do
  let b ← s.barrierAt x.aImm
  if s.ctx.issued.arrived = some b.id then
    match s.arrival b with
    | .open => barWait b s
    | _ => .ok { m := { s with ctx := s.ctx.clearPending b.id } }
  else match s.arrival b with
    | .open => barWait b s
    | _ =>
      let s ← s.arriveAt b ss
      barWait b s

def execBar (x : F2) (s : State) : Host.Outcome State Fault Refusal := chain x.len s (bar false x)
def execSstep (x : F2) (s : State) : Host.Outcome State Fault Refusal := chain x.len s (bar true x)

def bararr (x : F2) (s : Mach) : Try Done := do
  let b ← s.barrierAt x.aImm
  match s.arrival b with
  | .open => barWait b s
  | _ => .ok { m := ← s.arriveAt b false }

def execBararr (x : F2) (s : State) : Host.Outcome State Fault Refusal := chain x.len s (bararr x)

def barwait (x : F2) (s : Mach) : Try Done := do
  let b ← s.barrierAt x.aImm
  match s.arrival b with
  | .open => barWait b s
  | _ => .ok { m := { s with ctx := s.ctx.clearPending b.id } }

def execBarwait (x : F2) (s : State) : Host.Outcome State Fault Refusal := chain x.len s (barwait x)

/-! The barrier root. -/

/-- R202: a generation completes. -/
def Barrier.finish (b : Barrier) : Barrier :=
  { b with gen := b.gen + 1, here := [], sstep := false, due := false }

/-- R202: the oldest arrival in flight is counted; a generation of K arrivals completes, or waits for the condition of R203. -/
def Barrier.receive (b : Barrier) (ss : Bool) (k : Nat) : Barrier :=
  let b := { b with flight := b.flight.drop 1, here := b.here ++ [k], sstep := b.sstep || ss }
  if b.here.length = b.count then (if b.sstep then { b with due := true } else b.finish) else b

def execBarrierArrival (net n : Nat) (s : State) : Host.Outcome State Fault Refusal :=
  let m := s.toMach
  match (m.net net).bind fun x => x.barrier n with
  | none => .next s
  | some b => match b.flight, b.due with
    | (k, ss) :: _, false =>
      let c := m.ctxOf k
      let m := m.setCtxOf k { c.clearPending n with pending := insertBy (·.1) (n, b.gen) (c.clearPending n).pending }
      .next { s with toMach := (m.updNet net fun x => x.updBarrier n fun b => b.receive ss k).tock }
    | _, _ => .next s

/-- R203: every token that a participant pushed has arrived, and every store that it issued is performed. -/
def Mach.delivered (s : Mach) (x : Net) (ks : List Nat) : Bool :=
  ks.all fun k =>
    let idx := (s.proc k).map (·.index)
    x.chans.all (fun c => some c.decl.wproc != idx || c.flight.isEmpty) &&
    s.tileReqs.all (fun r => r.proc != k) && s.reqs.all (fun r => r.proc != k || r.written.isEmpty || r.reached)

def execSstepGenerationComplete (net n : Nat) (s : State) : Host.Outcome State Fault Refusal :=
  let m := s.toMach
  match m.net net with
  | none => .next s
  | some x => match x.barrier n with
    | none => .next s
    | some b =>
      if b.due && m.delivered x b.here then
        .next { s with toMach := (m.updNet net fun x => x.updBarrier n Barrier.finish).tock }
      else .next s

end Sys2Proof.Machine
end

