-- ==== Sys2Proof/Machine/Copy.lean ====
section
/-! DEFINITION. Copies (R181 to R189): descriptors, issue, the elements that the copy unit moves, their counter adds and
the copy-fault table; and the push through a queue register, which can issue a copy (R109, R110, R188). -/

namespace Sys2Proof.Machine

/-! What an engine reads and writes at a generic address, for the process that set it to work. -/

/-- A trap with its operand code replaced. -/
def reop {α : Type} (o : Nat) : Try α → Try α
  | .error (.trap t) => .error (.trap { t with opnd := o })
  | x => x

/-- R99 steps 2, 4 and 5 for an element of n bytes that moves in pieces of p bytes, each at one home (R279). -/
def Mach.homes (s : Mach) (ea : Word) (n p : Nat) (rd wr : Bool) : Try (List Spot) := do
  let x ← s.resolve ea n rd wr
  if n ≤ p then .ok [x]
  else (List.range (n / p)).foldlM (fun acc i => do
    let x ← s.resolve (ea + BitVec.ofNat 64 (p * i)) p rd wr
    .ok (acc ++ [x])) []

/-- R268, R275: the bytes that an engine's access takes at once: a bank word of a tile, an ECC word of a server. -/
def Spot.unit (x : Spot) : Nat := if x.tile.isSome then 16 else if x.host then 64 else 32

/-- R268, R275: pieces of p bytes joined to accesses, while they adjoin within one unit: where each begins, and its bytes. -/
def joinSpots (p : Nat) : List Spot → List (Spot × Nat)
  | [] => []
  | x :: r => match joinSpots p r with
    | (y, n) :: l =>
      if x.key + p = y.key && x.key / x.unit = y.key / x.unit then (x, p + n) :: l else (x, p) :: (y, n) :: l
    | [] => [(x, p)]

/-- R282: an engine's access to host memory fails while the host does not answer. -/
def Mach.hostPath (s : Mach) (x : Spot) (ea : Word) : Try Unit :=
  if x.host && !s.hostUp then raise (memTrap 0x07 0 ea) else .ok ()

/-- R230, R276: what a server counts of n bytes that an engine or a record reads there: the read, and each poisoned word. -/
def Mach.countRead (s : Mach) (x : Spot) (n : Nat) : Mach :=
  if x.tile.isSome || x.host then s
  else
    let s := s.countServer (serverOf x.key) 0 1
    if s.badCount x.key n = 0 then s else s.countServer (serverOf x.key) 7 (s.badCount x.key n)

/-- R99 step 6, R276: accesses read, from `pos` bytes behind the address ea on; poison is never read onward. DESIGN CHOICE: log entry 35. -/
def Mach.engineRead (ea : Word) (pos : Nat) : List (Spot × Nat) → Mach → Try (List Byte × Mach)
  | [], s => .ok ([], s)
  | (x, n) :: r, s => do
    s.hostPath x ea
    let s := (if x.tile.isNone then s.settle else s).countRead x n
    if s.poisoned x.key n then
      .error (.trapIn (memTrap 0x16 (if x.tile.isNone then 0x01 else 0x02) ea) s)
    let (bs, s') ← s.engineRead ea (pos + n) r
    .ok (s.readBytes (ea + BitVec.ofNat 64 pos) x.key n ++ bs, s')

/-- An element of n bytes in pieces of p read at its homes; a fault comes with the machine that its reading leaves. -/
def Mach.fetchBytes (s : Mach) (ea : Word) (n p : Nat) : Except (Trap × Mach) (List Byte × Mach) :=
  match (do s.engineRead ea 0 (joinSpots p (← s.homes ea n p true false)) : Try (List Byte × Mach)) with
  | .ok r => .ok r
  | .error (.trap t) => .error (t, s)
  | .error (.trapIn t m) => .error (t, m)
  | .error (.wait _ m) => .error (memTrap 0x04 0x02 ea, m)

/-- R276, R326: n bytes written at a server: the ECC words that they cover are replaced, a part of another is a
read-modify-write, which a poisoned word refuses. -/
def Mach.serverWrite (s : Mach) (key n : Nat) (bs : List Byte) (ea : Word) : Try Mach :=
  let s := (s.settle.countServer (serverOf key) 1 1).markStale key n
  let (full, part) := (unitsOf key n).partition fun u => key ≤ u && u + 32 ≤ key + n
  let s := if part.isEmpty then s else s.countServer (serverOf key) 2 part.length
  let s := full.foldl (fun s u => s.cleanse u 32) s
  if s.poisoned key n then raise (memTrap 0x16 0x01 ea) else .ok (s.put key bs)

/-- R99 step 6: bytes written by the accesses given, as a server or a tile takes them. -/
def Mach.engineWrite (ea : Word) : List (Spot × Nat) → List Byte → Mach → Try Mach
  | [], _, s => .ok s
  | (x, n) :: r, bs, s => do
    let part := bs.take n
    s.hostPath x ea
    let s ← if x.host then .ok (s.put x.key part)
      else if x.tile.isSome then
        if s.narrowBad x.key n then raise (memTrap 0x16 0x02 ea) else .ok (s.put x.key part)
      else s.serverWrite x.key n part ea
    s.engineWrite ea r (bs.drop n)

/-! Descriptors. -/

/-- Bytes lo up to lo + n - 1 of a descriptor. -/
def fieldAt (d lo n : Nat) : Nat := bitsAt d (8 * lo) (8 * n)

def copyEc (d : Nat) : Nat := fieldAt d 16 1
def copyDims (d : Nat) : Nat := fieldAt d 17 1
def copyKind (d : Nat) : Nat := fieldAt d 18 1
def copyProg (d : Nat) : Bool := fieldAt d 19 1 % 2 == 1
def dimCount (d i : Nat) : Nat := fieldAt d (32 + 24 * i) 4
def dimSrc (d i : Nat) : Nat := fieldAt d (40 + 24 * i) 8
def dimDst (d i : Nat) : Nat := fieldAt d (48 + 24 * i) 8

/-- R182: elements of a copy, and of a `cpydist` (doublewords). -/
def product (n : Nat) (f : Nat → Nat) : Nat := ((List.range n).map f).foldl (· * ·) 1
def copyCount (d : Nat) : Nat :=
  if copyKind d = 3 then fieldAt d 20 4 / 8 * fieldAt d 24 4 else product (copyDims d) (dimCount d)
def copySize (d : Nat) : Nat := if copyKind d = 3 then 8 else 2 ^ copyEc d

/-- R183 step 2. -/
def copyFields (d kind : Nat) : Bool :=
  let nd := copyDims d
  copyKind d == kind && 1 ≤ nd && nd ≤ 9 && copyEc d ≤ 6 && fieldAt d 19 1 < 2 && fieldAt d 20 4 == 0 &&
  (kind == 1 || fieldAt d 24 8 == 0) &&
  allBelow nd (fun i => dimCount d i != 0 && fieldAt d (36 + 24 * i) 4 == 0) &&
  bitsAt d (8 * (32 + 24 * nd)) (24 * 8 * (9 - nd)) == 0 &&
  product nd (dimCount d) * 2 ^ copyEc d ≤ 2 ^ 40

/-- R187: the fields of a `cpydist`. -/
def distFields (d : Nat) : Bool :=
  let p := fieldAt d 17 1
  let l := fieldAt d 20 4
  fieldAt d 16 1 == 0 && copyKind d == 3 && fieldAt d 19 1 < 2 && 1 ≤ p && p ≤ 8 && 8 ≤ l && l ≤ 2 ^ 24 && l % 8 == 0 &&
  1 ≤ fieldAt d 24 4 && 1 ≤ fieldAt d 28 4 && fieldAt d 40 24 == 0 && bitsAt d (8 * (64 + 16 * p)) (8 * (184 - 16 * p)) == 0 &&
  l * fieldAt d 24 4 ≤ 2 ^ 40

/-- R183 step 3, R187: the values that must be aligned, to what, and whether they are strides. -/
def copyAligned (d kind : Nat) : List (Nat × Nat × Bool) :=
  if kind = 3 then
    [(fieldAt d 0 8, 8, false), (fieldAt d 8 8, 8, true), (fieldAt d 32 8, 8, true)] ++
      (List.range (fieldAt d 17 1)).map fun j => (fieldAt d (64 + 16 * j) 8, 8, false)
  else
    let a := min (2 ^ copyEc d) 8
    let nd := copyDims d
    ((if kind = 2 then [] else [(fieldAt d 0 8, a, false)]) ++ [(fieldAt d 8 8, a, false)] ++
      (if kind = 1 then [(fieldAt d 24 8, 4, false)] else []) ++
      (List.range nd).flatMap fun i => [(dimSrc d i, a, true), (dimDst d i, a, true)])

/-- R183 step 3: the first value that is not aligned is reported. -/
def copyChecksAlign (d kind : Nat) : Try Unit := match (copyAligned d kind).find? fun y => y.1 % y.2.1 != 0 with
  | some y => raise { cause := 0x03, opnd := 5, value := BitVec.ofNat 64 y.1, raw := y.2.2 }
  | none => .ok ()

/-- R183: the checks of a copy at issue, and its counters: that of the whole and those of the parts. -/
def Mach.checkCopy (s : Mach) (a : Word) (kind : Option Nat) (ctr : Option Word) : Try (Nat × Nat × Word) := do
  let key ← s.ownLocal a 64 256 true false
  s.clean key 256 a
  let d := s.readNat a key 256
  let k := kind.getD (copyKind d)
  let ok := if k = 3 then distFields d else k < 3 && copyFields d k
  if !ok then illegal 0x0C a 5
  copyChecksAlign d k
  let c := ctr.getD (BitVec.ofNat 64 (fieldAt d 248 8))
  let _ ← s.counterAt c true
  if k = 3 then
    (List.range (fieldAt d 17 1)).foldlM (fun () j => do
      if partCtr d j ≠ noCtr then
        let _ ← s.counterAt (BitVec.ofNat 64 (partCtr d j)) true) ()
  .ok (d, k, c)

/-- R189: an entry of the copy-fault table: the wait for one, or the delivery of the earliest fault. -/
def Mach.needEntry (s : Mach) : Try Unit :=
  if s.ctx.faults.length < Config.faultEntries then .ok ()
  else if s.ctx.faults.any (·.live) then engineWait s
  else match s.ctx.faults with
    | f :: r => .error (.trapIn { cause := 0x1C, reason := f.cause, opnd := 5, value := f.addr, ref := f.desc.toNat }
        { s with ctx := { s.ctx with faults := r } })
    | [] => .ok ()

/-- R183, R189, R286: the waits of a copy, and its hand-over to the copy unit behind the process's earlier accesses. -/
def Mach.startCopy (s : Mach) (a : Word) (d k : Nat) (ctr : Word) : Try Mach := do
  s.needEntry
  if 16 ≤ (s.copies.filter fun c => c.tile == s.here).length then engineWait s
  let s ← s.release
  let (key, s) := s.takeKey
  let copy : Copy := { key := key, proc := s.self, tile := s.here, kind := k, desc := BitVec.ofNat 2048 d, off := a, ctr := ctr }
  let entry : CopyFault := { key := key, live := true, ctr := some ctr, desc := a }
  .ok { s with copies := s.copies ++ [copy], ctx := { s.ctx with faults := s.ctx.faults ++ [entry] } }

def copyIssue (kind : Nat) (x : F2) (s : Mach) : Try Done := do
  let (d, k, c) ← s.checkCopy (s.g x.aN) (some kind) (some (s.g x.dN))
  .ok { m := ← s.startCopy (s.g x.aN) d k c }

def execCpy (x : F2) (s : State) : Host.Outcome State Fault Refusal := chain x.len s (copyIssue 0 x)
def execCpyx (x : F2) (s : State) : Host.Outcome State Fault Refusal := chain x.len s (copyIssue 1 x)
def execCpyz (x : F2) (s : State) : Host.Outcome State Fault Refusal := chain x.len s (copyIssue 2 x)
def execCpydist (x : F2) (s : State) : Host.Outcome State Fault Refusal := chain x.len s (copyIssue 3 x)

/-- R188: a command of engine port 0. -/
def portPush (w : Word) (s : Mach) : Try Done := do
  let (d, k, c) ← reop 6 (s.checkCopy w none none)
  .ok { m := ← s.startCopy w d k c }

/-- R109, R110. -/
def qpush (x : F2) (s : Mach) : Try Done := match s.ctx.qb x.dN with
  | some ⟨.chan, true, id, _⟩ => do .ok { m := ← pushTok id (.scalar (s.g x.aN)) (closedTrap 6 id) s }
  | some ⟨.pool, true, id, _⟩ => poolPut id (s.g x.aN) s
  | some ⟨.port, true, _, _⟩ => portPush (s.g x.aN) s
  | _ => queueFault 0x01 x.dN

def execQpush (x : F2) (s : State) : Host.Outcome State Fault Refusal := chain x.len s (qpush x)

/-! The copy unit (R184 to R189). -/

/-- R182: the indices of element e, dimension 0 first. -/
def indices (d : Nat) : Nat → Nat → List Nat
  | 0, _ => []
  | k + 1, e => e % dimCount d (copyDims d - (k + 1)) :: indices d k (e / dimCount d (copyDims d - (k + 1)))

/-- R182, R186: source and destination of element e; `i0` is the index that the source uses in dimension 0. -/
def copyAddrs (d e i0 : Nat) : Word × Word :=
  let is := indices d (copyDims d) e
  let off (f : Nat → Nat) (first : Nat) : Nat :=
    sumBelow (copyDims d) fun k => (if k = 0 then first else is[k]?.getD 0) * f k
  (BitVec.ofNat 64 (fieldAt d 0 8 + off (dimSrc d) i0), BitVec.ofNat 64 (fieldAt d 8 8 + off (dimDst d) (is[0]?.getD 0)))

/-- R187: source and destination of doubleword e, and its row. -/
def distAddrs (d e : Nat) : Word × Word × Nat :=
  let per := fieldAt d 20 4 / 8
  let q := e / per
  let b := fieldAt d 28 4
  let p := fieldAt d 17 1
  let j := q / b % p
  let l := q / (b * p) * b + q % b
  (BitVec.ofNat 64 (fieldAt d 0 8 + q * fieldAt d 8 8 + 8 * (e % per)),
   BitVec.ofNat 64 (fieldAt d (64 + 16 * j) 8 + l * fieldAt d 32 8 + 8 * (e % per)), j)

/-- R186: the first index and the number of entries of the strip of the index list that element `next` uses. -/
def Copy.strip (c : Copy) : Nat × Nat :=
  let n0 := dimCount c.desc.toNat 0
  let i0 := c.next % n0 / 128 * 128
  (i0, min 128 (n0 - i0))

/-- R186: the copy stands before a strip of the index list that is not read whole. -/
def Copy.needsList (c : Copy) : Bool := c.kind == 1 && c.list.length < c.strip.2

/-- R185, R187: the counter adds that follow element e. -/
def copyAdds (c : Copy) : List (Word × Word) :=
  let d := c.desc.toNat
  let last := c.next + 1 = copyCount d
  if c.kind = 3 then
    let per := fieldAt d 20 4 / 8
    let (_, _, j) := distAddrs d c.next
    (if (c.next + 1) % per = 0 && partCtr d j ≠ noCtr then
      [(BitVec.ofNat 64 (partCtr d j), if copyProg d then BitVec.ofNat 64 (fieldAt d 20 4) else 1)] else []) ++
    (if last then [(c.ctr, 1)] else [])
  else if copyProg d then
    (if (c.next + 1) % dimCount d 0 = 0 then [(c.ctr, BitVec.ofNat 64 (dimCount d 0 * 2 ^ copyEc d))] else [])
  else if last then [(c.ctr, 1)] else []

/-- The next access among the homes of pieces of p bytes of which k bytes are done. -/
def nextAccess (p k : Nat) (xs : List Spot) : List (Spot × Nat) := (joinSpots p (xs.drop (k / p))).take 1

/-- R189: the fault of a copy shows the element's address. -/
def reAddr {α : Type} (ea : Word) : Try α → Try α
  | .error (.trap t) => .error (.trap { t with value := ea })
  | .error (.trapIn t m) => .error (.trapIn { t with value := ea } m)
  | x => x

/-- R186, R268: the next access at a strip of the index list, which brings the next index and those beside it in its word. Nothing is
stated of one that fails: the index's address is shown. DEDUCED: log entry 129. -/
def Mach.readList (s : Mach) (c : Copy) : Try (Copy × Mach) := do
  let at' (i : Nat) : Word := BitVec.ofNat 64 (fieldAt c.desc.toNat 24 8 + 4 * (c.strip.1 + c.list.length + i))
  let x ← s.resolve (at' 0) 4 true false
  let more := (List.range (min 8 (c.strip.2 - c.list.length) - 1)).filterMap fun i => match s.resolve (at' (i + 1)) 4 true false with
    | .ok y => some y
    | .error _ => none
  let (bs, s) ← s.engineRead (at' 0) 0 ((joinSpots 4 (x :: more)).take 1)
  .ok ({ c with list := c.list ++ (pieces 128 4 bs).map fun b => BitVec.ofNat 32 (natOfBytes b) }, s)

/-- R184, R268, R275: the next accesses of element `next` of a copy: one at its source, while it is not read whole, and, when it is,
one at its destination. -/
def Mach.moveElement (s : Mach) (c : Copy) : Try (Copy × Mach) := do
  let d := c.desc.toNat
  let n := copySize d
  let p := min n 8
  let i0 := c.next % dimCount d 0
  let (src, dst) := if c.kind = 3 then ((distAddrs d c.next).1, (distAddrs d c.next).2.1)
    else copyAddrs d c.next (if c.kind = 1 then ((c.list[i0 % 128]?).map (·.toNat)).getD 0 else i0)
  let (got, s) ← if c.kind = 2 then .ok (bytesOfNat n 0, s)
    else if n ≤ c.got.length then .ok (c.got, s)
    else do
      let xs ← reAddr src (s.homes src n p true false)
      let (bs, s) ← reAddr src (s.engineRead src c.got.length (nextAccess p c.got.length xs))
      .ok (c.got ++ bs, s)
  let c := { c with got := got }
  if got.length < n then .ok (c, s)
  else do
    let ys ← reAddr dst (s.homes dst n p false true)
    let now := nextAccess p c.put ys
    let s ← reAddr dst (s.engineWrite dst now (got.drop c.put))
    .ok ({ c with put := c.put + (now.map (·.2)).sum }, s)

/-- The counter adds of an element, in order. -/
def addAll : List (Word × Word) → Mach → Try Mach
  | [], s => .ok s
  | (a, v) :: r, s => do
    let x ← s.counterAt a true
    let s ← s.addCounter x a v
    addAll r s

/-- R189: the copy ends: its entry is freed, or holds the fault. -/
def Mach.endCopy (s : Mach) (c : Copy) (t : Option Trap) : Mach :=
  let ctx := s.ctxOf c.proc
  let faults := match t with
    | none => ctx.faults.filter fun f => f.key != c.key
    | some t => ctx.faults.map fun f =>
        if f.key == c.key then { f with live := false, cause := t.cause, reason := t.reason, addr := t.value } else f
  { s with copies := s.copies.filter fun y => y.key != c.key }.setCtxOf c.proc { ctx with faults := faults }

/-- Copy c as it stands now. -/
def Mach.setCopy (s : Mach) (c : Copy) : Mach := { s with copies := s.copies.map fun y => if y.key == c.key then c else y }

/-- An element of a copy has been written: its counter adds, and the next element. A counter that no longer passes R198 ends the copy
with a fault at the counter's address. DESIGN CHOICE: log entry 130. -/
def Mach.elementDone (s : Mach) (c : Copy) : Mach := match addAll (copyAdds c) s with
  | .error (.trap t) => s.endCopy c (some t)
  | .error (.trapIn t m) => m.endCopy c (some t)
  | .error (.wait _ m) => m
  | .ok s =>
    let s := s.countTile c.tile 1 (copySize c.desc.toNat)
    if c.next + 1 = copyCount c.desc.toNat then s.endCopy c none
    else
      let c := { c with next := c.next + 1, got := [], put := 0 }
      s.setCopy (if c.next % dimCount c.desc.toNat 0 % 128 = 0 then { c with list := [] } else c)

def Mach.copyStep (s : Mach) (c : Copy) : Mach :=
  let s := s.select c.proc
  match if c.needsList then s.readList c else s.moveElement c with
  | .error (.trap t) => s.endCopy c (some t)
  | .error (.trapIn t m) => m.endCopy c (some t)
  | .error (.wait _ m) => m
  | .ok (c', s) => if copySize c'.desc.toNat ≤ c'.put then s.elementDone c' else s.setCopy c'

/-- R184: the copy unit goes on with the next element of copy k; an element of several words and a strip of an index list take a step for
each access (R268). -/
def execCopyElement (k : Nat) (s : State) : Host.Outcome State Fault Refusal :=
  match s.toMach.copies.find? fun c => c.key == k with
  | none => .next s
  | some c => .next { s with toMach := (s.toMach.copyStep c).tock.stir }

end Sys2Proof.Machine
end

