-- ==== Sys2Proof/Machine/Hash.lean ====
section
/-! DEFINITION. SHA-512 (R227 to R229, R329, R334, R335), the named standard FIPS 180-4, whose words and length are
big-endian. -/

namespace Sys2Proof.Machine

/-- The first 64 bits of the fractions of the cube roots of the first 80 primes. -/
def shaRound : List Word :=
  [
   0x428A2F98D728AE22, 0x7137449123EF65CD, 0xB5C0FBCFEC4D3B2F, 0xE9B5DBA58189DBBC,
   0x3956C25BF348B538, 0x59F111F1B605D019, 0x923F82A4AF194F9B, 0xAB1C5ED5DA6D8118,
   0xD807AA98A3030242, 0x12835B0145706FBE, 0x243185BE4EE4B28C, 0x550C7DC3D5FFB4E2,
   0x72BE5D74F27B896F, 0x80DEB1FE3B1696B1, 0x9BDC06A725C71235, 0xC19BF174CF692694,
   0xE49B69C19EF14AD2, 0xEFBE4786384F25E3, 0x0FC19DC68B8CD5B5, 0x240CA1CC77AC9C65] ++
  [
   0x2DE92C6F592B0275, 0x4A7484AA6EA6E483, 0x5CB0A9DCBD41FBD4, 0x76F988DA831153B5,
   0x983E5152EE66DFAB, 0xA831C66D2DB43210, 0xB00327C898FB213F, 0xBF597FC7BEEF0EE4,
   0xC6E00BF33DA88FC2, 0xD5A79147930AA725, 0x06CA6351E003826F, 0x142929670A0E6E70,
   0x27B70A8546D22FFC, 0x2E1B21385C26C926, 0x4D2C6DFC5AC42AED, 0x53380D139D95B3DF,
   0x650A73548BAF63DE, 0x766A0ABB3C77B2A8, 0x81C2C92E47EDAEE6, 0x92722C851482353B] ++
  [
   0xA2BFE8A14CF10364, 0xA81A664BBC423001, 0xC24B8B70D0F89791, 0xC76C51A30654BE30,
   0xD192E819D6EF5218, 0xD69906245565A910, 0xF40E35855771202A, 0x106AA07032BBD1B8,
   0x19A4C116B8D2D0C8, 0x1E376C085141AB53, 0x2748774CDF8EEB99, 0x34B0BCB5E19B48A8,
   0x391C0CB3C5C95A63, 0x4ED8AA4AE3418ACB, 0x5B9CCA4F7763E373, 0x682E6FF3D6B2B8A3,
   0x748F82EE5DEFB2FC, 0x78A5636F43172F60, 0x84C87814A1F0AB72, 0x8CC702081A6439EC] ++
  [
   0x90BEFFFA23631E28, 0xA4506CEBDE82BDE9, 0xBEF9A3F7B2C67915, 0xC67178F2E372532B,
   0xCA273ECEEA26619C, 0xD186B8C721C0C207, 0xEADA7DD6CDE0EB1E, 0xF57D4F7FEE6ED178,
   0x06F067AA72176FBA, 0x0A637DC5A2C898A6, 0x113F9804BEF90DAE, 0x1B710B35131C471B,
   0x28DB77F523047D84, 0x32CAAB7B40C72493, 0x3C9EBE0A15C9BEBC, 0x431D67C49C100D4C,
   0x4CC5D4BECB3E42B6, 0x597F299CFC657E2A, 0x5FCB6FAB3AD6FAEC, 0x6C44198C4A475817]

/-- Those of the square roots of the first eight. -/
def shaStart : List Word := [
   0x6A09E667F3BCC908, 0xBB67AE8584CAA73B, 0x3C6EF372FE94F82B, 0xA54FF53A5F1D36F1,
   0x510E527FADE682D1, 0x9B05688C2B3E6C1F, 0x1F83D9ABFB41BD6B, 0x5BE0CD19137E2179]

def rotr (x : Word) (n : Nat) : Word := (x >>> n) ||| (x <<< (64 - n))

/-- Bytes as words, most significant byte first. -/
def wordsBig (b : List Byte) : List Word := (pieces (b.length / 8 + 1) 8 b).map fun l => BitVec.ofNat 64 (natOfBytes l.reverse)

/-- The message with its padding: one bit, zeros, the length in bits in 16 bytes, to blocks of 128 bytes. -/
def shaPadded (l : List Byte) : List Byte :=
  l ++ [0x80] ++ List.replicate ((239 - l.length % 128) % 128) 0 ++ (bytesOfNat 16 (8 * l.length)).reverse

/-- The schedule: n more words behind the sixteen last ones, which stand latest first. -/
def shaWords : Nat → List Word → List Word
  | 0, w => w
  | n + 1, w =>
    let at0 := fun i => w[i]?.getD 0
    let a := at0 14
    let b := at0 1
    shaWords n ((at0 15 + (rotr a 1 ^^^ rotr a 8 ^^^ (a >>> 7)) + at0 6 + (rotr b 19 ^^^ rotr b 61 ^^^ (b >>> 6))) :: w)

/-- One round for a round constant and a word of the schedule. -/
def shaStep (h : List Word) (kw : Word × Word) : List Word := match h with
  | [a, b, c, d, e, f, g, x] =>
    let t := x + (rotr e 14 ^^^ rotr e 18 ^^^ rotr e 41) + ((e &&& f) ^^^ (~~~e &&& g)) + kw.1 + kw.2
    let u := (rotr a 28 ^^^ rotr a 34 ^^^ rotr a 39) + ((a &&& b) ^^^ (a &&& c) ^^^ (b &&& c))
    [t + u, a, b, c, d + t, e, f, g]
  | l => l

/-- One block. -/
def shaBlock (h : List Word) (block : List Byte) : List Word :=
  let ws := (shaWords 64 (wordsBig block).reverse).reverse
  List.zipWith (· + ·) h ((shaRound.zip ws).foldl shaStep h)

/-- The digest as the bytes 0 to 63, byte 0 lowest. -/
def sha512 (l : List Byte) : BitVec 512 :=
  let p := shaPadded l
  let h := (pieces (p.length / 128 + 1) 128 p).foldl shaBlock shaStart
  BitVec.ofNat 512 (natOfBytes (h.flatMap fun w => (bytesOfNat 8 w.toNat).reverse))

end Sys2Proof.Machine
end

