-- ==== Sys2Proof/Machine/VectorMemory.lean ====
section
/-! DEFINITION. Vector loads and stores of the tile spaces (R142 to R147) and of global memory (R196). -/

namespace Sys2Proof.Machine

/-- Bytes of an element in memory: one for the nibbles of fp4. -/
def memSize (w : Nat) : Nat := if w < 8 then 1 else w / 8

/-- R143, R196: the space that an address must lie in; the trap shows `shown`. -/
def spaceCheck (glob : Bool) (a : Word) (elem : Nat) (shown : Word := a) : Try Unit :=
  if glob && !isGlobal a then raise (memTrap 0x06 0x05 shown elem)
  else if !glob && isGlobal a then raise (memTrap 0x06 0x04 shown elem)
  else .ok ()

/-- R143, R196: the base, g(a), lies in the wrong space; that is reported for element 0, behind the alignment of its address where it
is active. DEDUCED: log entry 128. -/
def Mach.baseCheck (s : Mach) (glob : Bool) (x : F2) (n : Nat) (adr : List (Nat × Word)) : Try Unit := match adr with
  | (0, ea) :: _ => do
    checkAligned ea n
    spaceCheck glob (s.g x.aN) 0 ea
  | _ => spaceCheck glob (s.g x.aN) 0 (s.ea x)

/-- R144: an element checked for a load or a store of n bytes. -/
def Mach.elemSpot (s : Mach) (glob rd wr : Bool) (n : Nat) (ea : Word) (elem : Nat) : Try Spot := do
  checkAligned ea n elem
  spaceCheck glob ea elem
  let x ← s.resolve ea n rd wr elem
  if rd && !glob then s.clean x.key n ea elem
  .ok x

/-- An active element with its address and its home. -/
structure Elem where
  i    : Nat
  ea   : Word
  spot : Spot
  deriving DecidableEq, Repr

/-- R144, R145: the elements with their homes, in ascending order; with `ff` the first failing element that is not the
first active one ends the list and is given. -/
def elemSpots (check : Word → Nat → Try Spot) (ff : Bool) : List (Nat × Word) → List Elem → Try (List Elem × Option Nat)
  | [], acc => .ok (acc, none)
  | (i, ea) :: r, acc => match check ea i with
    | .ok x => elemSpots check ff r (acc ++ [{ i := i, ea := ea, spot := x }])
    | .error (.trap t) => if ff && !acc.isEmpty then .ok (acc, some i) else .error (.trap t)
    | .error e => .error e

/-- R282: an element of a host-shared range, read once; what was read before the chain waited is in the context. -/
def Mach.hostElem (s : Mach) (e : Elem) (n skip : Nat) : Try (Nat × Mach) :=
  let seen := s.ctx.issued.hostVal.drop skip
  if n ≤ seen.length then .ok (natOfBytes (seen.take n), s)
  else do
    let (v, s) ← s.hostRead e.ea e.spot n e.i
    .ok (v, { s with ctx := { s.ctx with issued := { s.ctx.issued with hostVal := s.ctx.issued.hostVal ++ bytesOfNat n v } } })

/-- R196, R145: the elements read in ascending order: index and value, the first that fails where `ff` trims at it. -/
def readAll (n : Nat) (ff : Bool) : List Elem → Nat → List (Nat × Nat) → Mach → Try (List (Nat × Nat) × Option Nat × Mach)
  | [], _, acc, s => .ok (acc, none, s)
  | e :: r, skip, acc, s =>
    match if e.spot.host then s.hostElem e n skip else s.readHome e.spot e.ea n e.i with
    | .ok (v, s) => readAll n ff r (if e.spot.host then skip + n else skip) (acc ++ [(e.i, v)]) s
    | .error (.trap t) => if ff && !acc.isEmpty then .ok (acc, some e.i, s) else .error (.trap t)
    | .error (.trapIn t m) => if ff && !acc.isEmpty then .ok (acc, some e.i, m) else .error (.trapIn t m)
    | .error x => .error x

/-- R100: the process's earlier stores to the tiles that addresses lie on are performed. DEDUCED: log entry 94. -/
def Mach.drainFor (s : Mach) : List (Nat × Word) → Mach
  | [] => s
  | (_, ea) :: r => match tileTarget s.here ea 0 with
    | .ok (t, _) => (if t = s.here || isGlobal ea then s else s.drainTiles s.self (some t)).drainFor r
    | .error _ => s.drainFor r

/-- What a load makes of an element's bytes. -/
def elemBits (w i v : Nat) : Nat := if w < 8 then v / 16 ^ (i % 2) % 16 else v

/-- R142: an address from the base by element, from the e operand of the E forms. -/
inductive AddrForm where
  | unit | strided | indexed | single
  deriving DecidableEq, Repr

def Mach.elemAddrs (s : Mach) (x : F2) (form : AddrForm) (w : Nat) (v : Vector VReg 32) : List (Nat × Word) :=
  let ea := s.ea x
  let idx := match form with
    | .indexed => readElems v x.eN 32 s.ctx.vl
    | _ => []
  let l := (List.range s.ctx.vl).filterMap fun i =>
    if s.admits x.pre i then some (i, match form with
      | .unit => ea + BitVec.ofNat 64 (if w < 8 then i / 2 else i * (w / 8))
      | .strided => ea + BitVec.ofNat 64 i * s.g x.eN
      | .indexed => ea + BitVec.ofNat 64 (idx[i]?.getD 0)
      | .single => ea) else none
  match form with
  | .single => l.take 1
  | _ => l

/-- R142: the index group of the indexed forms. -/
def Mach.indexOps (s : Mach) (x : F2) (form : AddrForm) : List VOp := match form with
  | .indexed => [{ pos := 2, reg := x.eN, n := regsFor 32 s.ctx.vlmax, src := true, dst := false, ew := some 32 }]
  | _ => []

def Mach.checkIndex (s : Mach) (x : F2) (form : AddrForm) : Try Unit := match form with
  | .indexed => checkGroup x.eN (regsFor 32 s.ctx.vlmax) 3
  | _ => .ok ()

/-- Vector loads. -/
def vload (x : F2) (form : AddrForm) (ok : Fmt → Bool) (glob ff : Bool) (s : Mach) : Try Done := do
  let fm ← s.needFmt ok
  let w := fm.width
  let n := memSize w
  let ops := s.vop w 0 x.dN false true :: s.indexOps x form
  checkGroup x.dN s.ctx.grp 1
  s.checkIndex x form
  s.cleanGov x.pre
  let v ← s.sources ops w
  if glob then s.heldError
  let adr := s.elemAddrs x form w v
  s.baseCheck glob x n adr
  let s := if glob then s else s.drainFor adr
  let (es, k1) ← elemSpots (s.elemSpot glob true false n) ff adr []
  let (got, k2, s) ← readAll n ff es 0 [] s
  let vl := (k2.or k1).getD s.ctx.vl
  let at0 := (got.head?.map (·.2)).getD 0
  let rs := (List.range vl).map fun i =>
    if form = .single then (if s.admits x.pre i then some (elemBits w 0 at0) else none)
    else (got.find? fun y => y.1 == i).map fun y => elemBits w i y.2
  let outs := s.vecOut x.pre x.dN w s.ctx.vlmax (blockPad s.ctx.blk vl) rs
  let s ← s.commit ops outs
  .ok { m := { s with ctx := { s.ctx with vl := vl } } }

def execVld (x : F2) (s : State) : Host.Outcome State Fault Refusal := chain x.len s (vload x .unit inM4 false false)
def execVlds (x : F2) (s : State) : Host.Outcome State Fault Refusal := chain x.len s (vload x .strided inM false false)
def execVldx (x : F2) (s : State) : Host.Outcome State Fault Refusal := chain x.len s (vload x .indexed inM false false)
def execVldff (x : F2) (s : State) : Host.Outcome State Fault Refusal := chain x.len s (vload x .unit inM4 false true)
def execVldbc (x : F2) (s : State) : Host.Outcome State Fault Refusal := chain x.len s (vload x .single inM false false)
def execVldg (x : F2) (s : State) : Host.Outcome State Fault Refusal := chain x.len s (vload x .unit inM4 true false)
def execVldgff (x : F2) (s : State) : Host.Outcome State Fault Refusal := chain x.len s (vload x .unit inM4 true true)

/-! Stores. -/

/-- A piece of a store: where it goes, its bytes, and the nibble that alone is written. -/
structure Piece where
  i     : Nat
  ea    : Word
  spot  : Spot
  bytes : List Byte
  half  : Option Bool := none
  deriving DecidableEq, Repr

/-- R143: the two nibbles of one byte are written as a byte. -/
def joinPieces : List Piece → List Piece
  | [] => []
  | p :: r => match joinPieces r with
    | q :: qs =>
      if p.half = some false && q.half = some true && q.ea = p.ea then
        { p with bytes := [(p.bytes.headD 0 &&& 0x0F) ||| (q.bytes.headD 0 &&& 0xF0)], half := none } :: qs
      else p :: q :: qs
    | [] => [p]

def Piece.unit (p : Piece) : Nat := if p.spot.tile.isSome then 8 else 32

/-- R195, R326: the pieces of a unit-stride store joined while they adjoin within one ECC word of a server, or one poisoned
word of a tile (8 bytes), so that a word that its elements cover is written as a whole; other elements leave for their tile one by one
(R147). -/
def Mach.joinWords (s : Mach) : List Piece → List Piece
  | [] => []
  | p :: r => match s.joinWords r with
    | q :: qs =>
      if (p.spot.tile.isNone || s.poisoned p.spot.key 1) && p.half.isNone && q.half.isNone && !p.spot.host && p.ea + BitVec.ofNat 64 p.bytes.length = q.ea &&
          p.ea.toNat / p.unit = q.ea.toNat / p.unit then { p with bytes := p.bytes ++ q.bytes } :: qs
      else p :: q :: qs
    | [] => [p]

/-- R326: a piece that covers a poisoned word of a tile in part. DEDUCED: log entry 89. -/
def Mach.pieceBad (s : Mach) (p : Piece) : Bool :=
  p.spot.tile.isSome && (if p.half.isSome then s.poisoned p.spot.key 1 else s.narrowBad p.spot.key p.bytes.length)

/-- R147: one piece of a chain's store leaves for its home, its own tile too: until the process's next chain another agent may see any
of them. -/
def Mach.storePiece (group : Nat) (s : Mach) (p : Piece) : Mach := match p.spot.tile, p.half with
  | some _, half => s.sendStore group p.spot.key p.bytes half
  | none, none => (s.issueReq 1 none (.write p.bytes) p.spot p.ea).2
  | none, some high => (s.issueReq 1 none (.nibble high (p.bytes.headD 0)) p.spot p.ea).2

/-- The piece of an element with its value. -/
def pieceOf (w : Nat) (vals : List Nat) (e : Elem) : Piece :=
  let v := vals[e.i]?.getD 0
  if w < 8 then { i := e.i, ea := e.ea, spot := e.spot, bytes := [BitVec.ofNat 8 (v * 17)], half := some (e.i % 2 == 1) }
  else { i := e.i, ea := e.ea, spot := e.spot, bytes := bytesOfNat (w / 8) v }

def Mach.checkPieces (s : Mach) : List Piece → Try Unit
  | [] => .ok ()
  | p :: r => if s.pieceBad p then raise (memTrap 0x16 0x02 p.ea p.i) else s.checkPieces r

/-- R144, R326: the lowest element at fault: the elements are checked and each run of pieces is looked at for poison up
to the first that fails. -/
def storeElems (s : Mach) (glob unit : Bool) (w : Nat) (vals : List Nat) (adr : List (Nat × Word)) : Try (List Piece) :=
  match elemSpots (s.elemSpot glob false true (memSize w)) true adr [] with
  | .error e => .error e
  | .ok (es, bad) => do
    let ps := es.map (pieceOf w vals)
    let ps := if unit then s.joinWords (joinPieces ps) else ps
    s.checkPieces ps
    match bad with
    | none => .ok ps
    | some i => match adr.find? fun y => y.1 == i with
      | none => .ok ps
      | some (i, ea) => do
        let _ ← s.elemSpot glob false true (memSize w) ea i
        .ok ps

/-- R196, R271, R272: a `vstg` retires when its requests have left: when each of them has its slot at the gateway. -/
def Mach.leaveAll (s : Mach) : Try Mach :=
  if s.unaccepted 1 ≤ 8 then .ok s
  else engineWait { s with ctx := { s.ctx with issued := { s.ctx.issued with sent := true } } }

/-- Vector stores. -/
def vstore (x : F2) (form : AddrForm) (ok : Fmt → Bool) (glob : Bool) (s : Mach) : Try Done := do
  let fm ← s.needFmt ok
  let w := fm.width
  let ops := s.vop w 0 x.dN true false :: s.indexOps x form
  checkGroup x.dN s.ctx.grp 4
  s.checkIndex x form
  s.cleanGov x.pre
  let v ← s.sources ops w
  let s ← if glob && s.ctx.issued.sent then .ok s else do
    if glob then s.heldError
    let adr := s.elemAddrs x form w v
    s.baseCheck glob x (memSize w) adr
    let ps ← storeElems s glob (form = .unit) w (readElems v x.dN w s.ctx.vl) adr
    if glob then s.waitSlot 1
    .ok (ps.foldl (Mach.storePiece s.fresh) s)
  let s ← if glob then s.leaveAll else .ok s
  .ok { m := ← s.commit ops [] }

def execVst (x : F2) (s : State) : Host.Outcome State Fault Refusal := chain x.len s (vstore x .unit inM4 false)
def execVsts (x : F2) (s : State) : Host.Outcome State Fault Refusal := chain x.len s (vstore x .strided inM false)
def execVstx (x : F2) (s : State) : Host.Outcome State Fault Refusal := chain x.len s (vstore x .indexed inM false)
def execVstg (x : F2) (s : State) : Host.Outcome State Fault Refusal := chain x.len s (vstore x .unit inM4 true)

end Sys2Proof.Machine
end

