-- ==== Sys2Proof/Machine/Figure.lean ====
section
/-! DEFINITION. Figures (R231 to R237): the micro-operation word, the verifier, the figure store with its start marks,
loading, binding, and the invocation by `fig`. -/

namespace Sys2Proof.Machine

/-! The micro-operation word (R234). -/

structure MicroOp where
  op  : Nat
  dst : Nat
  s1  : Nat
  s2  : Nat
  ctl : Nat
  imm : Nat
  deriving DecidableEq, Repr

def microOf (w : Word) : MicroOp :=
  let x := w.toNat
  { op := bitsAt x 58 6, dst := bitsAt x 52 6, s1 := bitsAt x 46 6, s2 := bitsAt x 40 6, ctl := bitsAt x 32 8, imm := bitsAt x 0 32 }

/-- The immediate, sign-extended where it is added or compared. -/
def MicroOp.simm (m : MicroOp) : Int := signed 32 m.imm

/-- Which file a register field names. -/
inductive Spec where
  | none | scalar | vector
  deriving DecidableEq, Repr

/-- R235: how an operation uses its fields: dst, s1, s2, the bits of ctl that it may set, whether it uses imm. -/
structure MicroUse where
  dst : Spec
  s1  : Spec
  s2  : Spec
  ctl : Nat
  imm : Bool
  deriving DecidableEq, Repr

/-- R234, R235: the fields that an operation uses; `uvext` and `uvins` take no predicate. DEDUCED: log entry 136. -/
def microUse (m : MicroOp) : Option MicroUse :=
  if 0x08 ≤ m.op && m.op ≤ 0x15 then
    some (if m.ctl % 2 = 1 then ⟨.scalar, .scalar, .none, 1, true⟩ else ⟨.scalar, .scalar, .scalar, 1, false⟩)
  else if 0x20 ≤ m.op && m.op ≤ 0x27 then some ⟨.vector, .vector, .vector, 0x1F, false⟩
  else match m.op with
    | 0x00 => some ⟨.none, .none, .none, 0, false⟩
    | 0x01 => some ⟨.scalar, .scalar, .none, 0, false⟩
    | 0x02 => some ⟨.scalar, .none, .none, 0, true⟩
    | 0x03 => some ⟨.scalar, .scalar, .none, 0, true⟩
    | 0x04 => some ⟨.scalar, .none, .none, 0, true⟩
    | 0x05 => some ⟨.scalar, .none, .none, 0, true⟩
    | 0x16 => some ⟨.scalar, .scalar, .none, 0, false⟩
    | 0x17 => some ⟨.scalar, .scalar, .none, 0, false⟩
    | 0x18 => some ⟨.scalar, .scalar, .none, 0, true⟩
    | 0x19 => some ⟨.scalar, .scalar, .none, 0, true⟩
    | 0x28 => some ⟨.vector, .vector, .none, 0x1F, false⟩
    | 0x29 => some ⟨.vector, .scalar, .none, 0x1F, false⟩
    | 0x2A => some ⟨.scalar, .vector, .scalar, 0, false⟩
    | 0x2B => some ⟨.vector, .scalar, .scalar, 0, false⟩
    | 0x30 => some ⟨.scalar, .scalar, .none, 7, true⟩
    | 0x31 => some ⟨.none, .scalar, .scalar, 3, true⟩
    | 0x32 => some ⟨.vector, .scalar, .none, 0x1F, true⟩
    | 0x38 => some (if m.ctl % 8 = 6 then ⟨.none, .none, .none, 7, true⟩ else ⟨.none, .scalar, .scalar, 7, true⟩)
    | 0x39 => some ⟨.none, .none, .none, 0, true⟩
    | 0x3A => some ⟨.none, .none, .none, 0, true⟩
    | 0x3B => some ⟨.none, .scalar, .none, 0, false⟩
    | 0x3F => some ⟨.none, .none, .none, 0, false⟩
    | _ => none

/-- R234: is a specifier one of its file. -/
def Spec.ok (k : Spec) (x : Nat) : Bool := match k with
  | .none => x == 0
  | .scalar => x ≤ 0x2A
  | .vector => x ≤ 0x21 || (0x28 ≤ x && x ≤ 0x2A)

/-! The verifier (R236). -/

def deviceOp (op : Nat) : Bool := op == 0x3D || op == 0x3E

/-- Rule 0x03 for a word that passes the rules before it. -/
def MicroOp.fieldsOk (m : MicroOp) : Bool := match microUse m with
  | none => true
  | some u =>
    u.dst.ok m.dst && u.s1.ok m.s1 && u.s2.ok m.s2 && Nat.lor m.ctl u.ctl == u.ctl && (u.imm || m.imm == 0) &&
    (m.op != 0x04 || m.imm ≤ 10) && (m.op != 0x38 || m.ctl % 8 ≤ 6) &&
    (!(m.op == 0x18 || m.op == 0x19) || bitsAt m.imm 0 6 + bitsAt m.imm 7 6 + 1 ≤ 64)

def MicroOp.branches (m : MicroOp) : Bool := m.op == 0x38 || m.op == 0x39

/-- The words of a figure with their indices, as the rules look at them. -/
abbrev Micros := List (Nat × MicroOp)

/-- Rule 0x07: the bodies, from a `uloop`'s target to the `uloop`. -/
def bodiesOf (ms : Micros) : List (Nat × Nat) := ms.filterMap fun (i, m) =>
  if m.op = 0x39 then some (((i : Int) + m.simm).toNat, i) else none

def inBody (b : Nat × Nat) (i : Nat) : Bool := b.1 ≤ i && i ≤ b.2

/-- Rule 0x07 at word i; where two bodies overlap, the later `uloop` is the word that breaks it. DESIGN CHOICE: log entry 135. -/
def loopsOk (ms : Micros) (bs : List (Nat × Nat)) (i : Nat) (m : MicroOp) : Bool :=
  let t := ((i : Int) + m.simm).toNat
  (m.op != 0x38 || 0 < m.simm) && (m.op != 0x39 || m.simm ≤ 0) &&
  (m.op != 0x39 || (ms.all fun (j, y) => y.op != 0x39 || i ≤ j || ((j : Int) < (i : Int) + m.simm))) &&
  (!m.branches || bs.all fun b => !inBody b t || inBody b i) &&
  (m.op != 0x3A || (bs.all (fun b => !inBody b i) && 1 ≤ m.imm && m.imm ≤ 4096))

/-- Rule 0x08: the bound on the steps. -/
def stepBound (ms : Micros) (bs : List (Nat × Nat)) : Nat :=
  let inside := sumBelow bs.length fun k => match bs[k]? with
    | some b => b.2 + 1 - b.1
    | none => 0
  let c := ms.foldl (fun acc x => if x.2.op = 0x3A then max acc x.2.imm else acc) 1
  ms.length - inside + inside * c

/-- R236: the reason and the word of the first rule that a figure at a store word breaks. DEDUCED: log entry 37. -/
def verifyFigure (ws : List Word) (at0 : Nat) : Option (Nat × Nat) :=
  let ms := (List.range ws.length).zip (ws.map microOf)
  let first (f : Nat → MicroOp → Bool) : Option Nat := (ms.find? fun x => f x.1 x.2).map (·.1)
  let bs := bodiesOf ms
  let n := ws.length
  let lastOk := match ms.getLast? with
    | some (_, m) => m.op == 0x3F || m.op == 0x3B || (m.op == 0x38 && m.ctl % 8 == 6)
    | none => false
  match first fun _ m => (microUse m).isNone && !deviceOp m.op with
  | some i => some (0x01, i)
  | none => match first fun _ m => deviceOp m.op with
    | some i => some (0x02, i)
    | none => match first fun _ m => !m.fieldsOk with
      | some i => some (0x03, i)
      | none => match first fun i m => m.branches && ((i : Int) + m.simm < 0 || (n : Int) ≤ (i : Int) + m.simm) with
        | some i => some (0x04, i)
        | none =>
          if n = 0 || 256 < n || at0 / 256 ≠ (at0 + n - 1) / 256 then some (0x05, 0)
          else if !lastOk then some (0x06, n - 1)
          else match first fun i m => !loopsOk ms bs i m with
            | some i => some (0x07, i)
            | none => if 4096 < stepBound ms bs then some (0x08, 0) else none

/-! The figure store and its start marks (R34, R231). A mark is a tile × 4,096 + word and a length. -/

def markKey (tile word : Nat) : Nat := tile * 4096 + word
def Mach.markAt (s : Mach) (tile word : Nat) : Option Nat := (s.marks.find? fun y => y.1 == markKey tile word).map (·.2)

/-- R231: words replaced, the marks that they touch cleared, a mark at the first. -/
def Mach.installFigure (s : Mach) (tile at0 : Nat) (ws : List Word) : Mach :=
  let lo := markKey tile at0
  let hi := lo + ws.length
  let s := s.put (Key.figure tile at0 0) (ws.flatMap fun w => bytesOfNat 8 w.toNat)
  { s with marks := insertBy (·.1) (lo, ws.length) (s.marks.filter fun y => hi ≤ y.1 || y.1 + y.2 ≤ lo) }

/-- DESIGN CHOICE: log entry 51. -/
def fgload (x : F2) (s : Mach) : Try Done := do
  needTenant s
  if !x.w then illegal 0x0C s.unstated
  let desc := (s.g x.eN).toNat
  let at0 := bitsAt desc 0 12
  let n := bitsAt desc 12 9
  if desc / 2 ^ 21 ≠ 0 || n = 0 || 256 < n then illegal 0x0C (s.g x.eN)
  let a := s.g x.aN
  let key ← s.ownLocal a 8 (8 * n) true false
  s.clean key (8 * n) a
  let ws := (List.range n).map fun i => BitVec.ofNat 64 (s.readNat (a + BitVec.ofNat 64 (8 * i)) (key + 8 * i) 8)
  match verifyFigure ws at0 with
  | some (r, i) => raise { cause := 0x11, reason := r, value := s.unstated, ref := i }
  | none => .ok { m := s.installFigure s.here at0 ws }

def execFgload (x : F2) (s : State) : Host.Outcome State Fault Refusal := chain x.len s (fgload x)

/-- R232. -/
def fgsel (x : F2) (s : Mach) : Try Done :=
  if 15 < x.aImm then illegal 0x0C (BitVec.ofNat 64 x.aImm)
  else .ok { m := { s with ctx := { s.ctx with part := BitVec.ofNat 4 x.aImm } } }

def execFgsel (x : F2) (s : State) : Host.Outcome State Fault Refusal := chain x.len s (fgsel x)

def bindFigure (c : Ctx) (num word : Nat) : Ctx := { c with figs := c.figs.setIfInBounds num (some (BitVec.ofNat 12 word)) }

/-- R232. -/
def fgbind (x : F2) (s : Mach) : Try Done := do
  if !x.w then illegal 0x0C s.unstated
  let num := (s.g x.aN).toNat
  let off := (s.g x.eN).toNat
  if 63 < num then illegal 0x0C (s.g x.aN)
  if 255 < off then illegal 0x0C (s.g x.eN)
  let word := s.ctx.part.toNat * 256 + off
  if (s.markAt s.here word).isNone then raise { cause := 0x0F, reason := 0x02, value := s.g x.aN }
  .ok { m := { s with ctx := bindFigure s.ctx num word } }

def execFgbind (x : F2) (s : State) : Host.Outcome State Fault Refusal := chain x.len s (fgbind x)

/-- R233: a partition zeroed, with its marks. -/
def Mach.clearPart (s : Mach) (tile n : Nat) : Mach :=
  let lo := Key.figure tile (256 * n) 0
  let m0 := markKey tile (256 * n)
  { s with
    mem := Mem.clear s.mem lo 2048
    bad := s.bad.filter fun u => u < lo || lo + 2048 ≤ u
    marks := s.marks.filter fun y => y.1 < m0 || m0 + 256 ≤ y.1 }

def fgclr (x : F2) (s : Mach) : Try Done := do
  needTenant s
  if 15 < x.aImm then illegal 0x0C (BitVec.ofNat 64 x.aImm)
  .ok { m := s.clearPart s.here x.aImm }

def execFgclr (x : F2) (s : State) : Host.Outcome State Fault Refusal := chain x.len s (fgclr x)

/-! Invocation (R237). The machine of the run holds the pending writes and stores, as the figure's own loads see them; a fault drops it
whole. -/

structure FigRun where
  m      : Mach
  h      : Vector Word 8 := Vector.replicate 8 0
  hv     : Vector VReg 2 := Vector.replicate 2 0
  lc     : Nat := 0
  stores : List (Nat × List Byte) := []
  flags  : Nat := 0
  deriving DecidableEq, Repr

/-- The parameters that a `fig` chain gives (R235). -/
structure FigPar where
  d   : Nat
  a   : Nat
  e   : Nat
  sel : List Word
  deriving DecidableEq, Repr

def figPar (x : F2) (f num pc : Nat) : FigPar :=
  { d := x.dN, a := x.aN, e := x.eN
    sel := [BitVec.ofNat 64 x.dN, BitVec.ofNat 64 x.aN, BitVec.ofNat 64 x.eN, BitVec.ofNat 64 f, BitVec.ofNat 64 x.w.toNat,
      wordOfInt x.s, BitVec.ofNat 64 x.u, BitVec.ofNat 64 x.pre.px.length, BitVec.ofNat 64 num, BitVec.ofNat 64 pc,
      BitVec.ofNat 64 x.len] }

/-- R237: the trap of a figure at word i. -/
def figFault {α : Type} (i reason : Nat) (v : Word) (elem : Nat := 0) : Try α :=
  raise { cause := 0x10, reason := reason, opnd := 8, value := v, elem := elem, ref := i }

/-- A specifier as a register number: 32 and up are the figure's own. -/
def FigPar.reg (p : FigPar) (x : Nat) : Nat := match x with
  | 0x28 => p.d
  | 0x29 => p.a
  | 0x2A => p.e
  | _ => x

def FigRun.g (r : FigRun) (n : Nat) : Word := if 32 ≤ n then r.h[n - 32]?.getD 0 else r.m.g n
def FigRun.setG (r : FigRun) (n : Nat) (w : Word) : FigRun :=
  if 32 ≤ n then { r with h := r.h.setIfInBounds (n - 32) w } else { r with m := r.m.setG n w }
def FigRun.v (r : FigRun) (n : Nat) : Nat := if 32 ≤ n then (r.hv[n - 32]?.getD 0).toNat else (r.m.ctx.vr n).toNat
def FigRun.setV (r : FigRun) (n img words : Nat) : FigRun :=
  if 32 ≤ n then { r with hv := r.hv.setIfInBounds (n - 32) (BitVec.ofNat 4096 img) }
  else { r with m := r.m.writeV { reg := n, n := 1, img := img, words := words } }

/-- R235: scalar arithmetic, codes 0x08 to 0x15. -/
def microAlu (op : Nat) (x y : Word) : Word := match op with
  | 0x08 => x + y
  | 0x09 => x - y
  | 0x0A => x &&& y
  | 0x0B => x ||| y
  | 0x0C => x ^^^ y
  | 0x0D => x <<< (y.toNat % 64)
  | 0x0E => x >>> (y.toNat % 64)
  | 0x0F => x.sshiftRight (y.toNat % 64)
  | 0x10 => x * y
  | 0x11 => BitVec.ofNat 64 (x.toNat * y.toNat / 2 ^ 64)
  | 0x12 => if x.toInt < y.toInt then 1 else 0
  | 0x13 => if x.toNat < y.toNat then 1 else 0
  | 0x14 => minS x y
  | _ => maxS x y

def microCond (c : Nat) (x y : Word) : Bool := match c with
  | 0 => x == y
  | 1 => x != y
  | 2 => x.toInt < y.toInt
  | 3 => x.toNat < y.toNat
  | 4 => y.toInt ≤ x.toInt
  | 5 => y.toNat ≤ x.toNat
  | _ => true

/-- R237: n bytes at a local offset in the process's own windows. DEDUCED: log entry 39. -/
def FigRun.place (r : FigRun) (i : Nat) (a : Word) (n : Nat) (wr : Bool) (elem : Nat := 0) : Try Nat :=
  if a.toNat % n ≠ 0 then figFault i 0x03 a elem
  else if a.toNat / 2 ^ 24 ≠ 0 || Config.localBytes < a.toNat + n || !r.m.ctx.ownWindow a.toNat n (!wr) wr false then
    figFault i 0x04 a elem
  else
    let key := Key.tile r.m.here a.toNat
    if (if wr then r.m.narrowBad key n else r.m.poisoned key n) then figFault i 0x16 a elem else .ok key

/-- The format of a vector micro-operation, or the fault 0xF2. -/
def FigRun.fmt (r : FigRun) (i : Nat) (ok : Fmt → Bool) : Try Fmt :=
  let c := r.m.ctx
  let bad : Try Fmt := figFault i 0xF2 (c.vtype.zeroExtend 64)
  match c.fmt with
  | some f => if ok f && c.grp == 1 && c.rm != 5 then .ok f else bad
  | none => bad

/-- R327: poison read by the word i of a figure, in the register's word that `bad` names first; the operand is the figure word.
DEDUCED: log entry 115. -/
def figPoison (i n w word : Nat) : Try Unit :=
  raise { cause := 0x16, reason := 0x03, opnd := 8, value := BitVec.ofNat 64 n, elem := word * 64 / w, ref := i }

/-- A vector specifier: in ordinary mode, and clean where it is read as elements of width w. -/
def FigRun.vreg (r : FigRun) (i n : Nat) (src : Bool) (w : Nat := 64) : Try Unit :=
  if 32 ≤ n then .ok ()
  else if r.m.ctx.streamOn n then figFault i 0x08 (BitVec.ofNat 64 n)
  else match src, firstBelow 64 (r.m.ctx.vBad[n]?.getD 0).getLsbD with
    | true, some k => figPoison i n w k
    | _, _ => .ok ()

/-- R327, R234: the governing predicate of ctl, clean. -/
def FigRun.govern (r : FigRun) (i ctl : Nat) : Try Unit :=
  match firstBelow 16 (r.m.ctx.pBad[ctl % 8]?.getD 0).getLsbD with
  | some k => if ctl % 8 = 0 then .ok () else figPoison i (ctl % 8) 1 k
  | none => .ok ()

/-- R234: does the governing predicate of ctl admit element j. -/
def FigRun.admits (r : FigRun) (ctl j : Nat) : Bool := (r.m.p (ctl % 8)).getLsbD j != (ctl / 8 % 2 == 1)

/-- R116 for a vector micro-operation: results below vl over what the destination held. -/
def FigRun.merge (r : FigRun) (ctl n w : Nat) (rs : List Nat) : FigRun :=
  let c := r.m.ctx
  if c.vl = 0 then r else
    let shown := ((List.range rs.length).zip rs).map fun (j, y) => if r.admits ctl j then some y else none
    let img := pack w (mergeElems (ctl / 16 % 2 == 1) c.ta (blockPad c.blk c.vl) shown (elems w c.vlmax (r.v n)))
    let rest := r.v n / 2 ^ (w * c.vlmax) * 2 ^ (w * c.vlmax)
    { r with m := r.m.countDiag 3 8 }.setV n (rest + img)
      (wordsWritten w (elemsWritten (ctl / 16 % 2 == 1) c.ta c.vlmax (blockPad c.blk c.vl) 0 shown))

/-- R77: flags of the active elements: an enabled one is a fault, the rest wait for the figure's end. -/
def FigRun.flag (r : FigRun) (i ctl : Nat) (fls : List Nat) : Try FigRun :=
  let act := ((List.range fls.length).zip fls).filter fun y => r.admits ctl y.1
  match act.find? fun y => Nat.land y.2 r.m.ctx.fptrap.toNat != 0 with
  | some (j, _) => figFault i 0x12 r.m.unstated j
  | none => .ok { r with flags := act.foldl (fun acc y => Nat.lor acc y.2) r.flags }

/-- R235: the element operation of codes 0x20 to 0x27 and the formats that it takes. -/
def microVec (op : Nat) : (Fmt → Bool) × (Fmt → Nat → Nat → Nat → Nat → Res) := match op with
  | 0x20 => (inIF, addEl)
  | 0x21 => (inIF, subEl)
  | 0x22 => (inIF, mulEl)
  | 0x23 => (inIF4, bitEl Nat.land)
  | 0x24 => (inIF4, bitEl Nat.lor)
  | 0x25 => (inIF4, bitEl Nat.xor)
  | 0x26 => (inIF, minMaxEl false)
  | _ => (inIF, minMaxEl true)

/-- A vector micro-operation. -/
def FigRun.vector (r : FigRun) (p : FigPar) (i : Nat) (o : MicroOp) : Try FigRun := do
  let c := r.m.ctx
  let d := p.reg o.dst
  let a := p.reg o.s1
  let b := p.reg o.s2
  if o.op ≤ 0x27 then
    let (ok, f) := microVec o.op
    let fm ← r.fmt i ok
    let w := fm.width
    r.govern i o.ctl
    r.vreg i d false
    r.vreg i a true w
    r.vreg i b true w
    let rs := ((elems w c.vl (r.v a)).zip (elems w c.vl (r.v b))).map fun (x, y) => f fm c.rm 0 x y
    let r ← r.flag i o.ctl (rs.map (·.2))
    .ok (r.merge o.ctl d w (rs.map (·.1)))
  else
    let fm ← r.fmt i inM4
    let w := fm.width
    match o.op with
    | 0x28 =>
      r.govern i o.ctl
      r.vreg i d false
      r.vreg i a true w
      .ok (r.merge o.ctl d w (elems w c.vl (r.v a)))
    | 0x29 =>
      r.govern i o.ctl
      r.vreg i d false
      .ok (r.merge o.ctl d w (List.replicate c.vl ((r.g a).toNat % 2 ^ w)))
    | 0x2A =>
      r.vreg i a true w
      let k := (r.g b).toNat
      if c.vlmax ≤ k then figFault i 0xF3 (r.g b)
      .ok ({ r with m := r.m.countDiag 3 8 }.setG d (extEl fm (r.v a / 2 ^ (w * k) % 2 ^ w)))
    | 0x2B =>
      r.vreg i d false
      let k := (r.g b).toNat
      if c.vlmax ≤ k then figFault i 0xF3 (r.g b)
      let img := r.v d
      let img := img / 2 ^ (w * (k + 1)) * 2 ^ (w * (k + 1)) + (r.g a).toNat % 2 ^ w * 2 ^ (w * k) + img % 2 ^ (w * k)
      .ok ({ r with m := r.m.countDiag 3 8 }.setV d img (wordsWritten w ((List.range (k + 64)).map (· == k))))
    | _ =>
      r.govern i o.ctl
      r.vreg i d false
      let base := r.g a + wordOfInt o.simm
      let n := memSize w
      let vals ← (List.range c.vl).foldlM (fun (acc : List Nat) j => do
        let ea := base + BitVec.ofNat 64 (w * j / 8)
        if r.admits o.ctl j then
          let key ← r.place i ea n false j
          .ok (acc ++ [elemBits w j (r.m.readNat ea key n)])
        else .ok (acc ++ [0])) []
      .ok (r.merge o.ctl d w vals)

/-- R235: one micro-operation that is neither `uend` nor a branch. DEDUCED: log entry 127. -/
def FigRun.micro (r : FigRun) (p : FigPar) (i : Nat) (o : MicroOp) : Try FigRun :=
  let d := p.reg o.dst
  let x := r.g (p.reg o.s1)
  let y := if o.ctl % 2 = 1 then wordOfInt o.simm else r.g (p.reg o.s2)
  let lo := bitsAt o.imm 0 6
  let n := bitsAt o.imm 7 6 + 1
  let ea := x + wordOfInt o.simm
  let size := 2 ^ (o.ctl % 4)
  if 0x08 ≤ o.op && o.op ≤ 0x15 then .ok (r.setG d (microAlu o.op x y))
  else if (0x20 ≤ o.op && o.op ≤ 0x2B) || o.op = 0x32 then r.vector p i o
  else match o.op with
    | 0x01 => .ok (r.setG d x)
    | 0x02 => .ok (r.setG d (BitVec.ofNat 64 o.imm))
    | 0x03 => .ok (r.setG d (BitVec.ofNat 64 (x.toNat % 2 ^ 32 + o.imm * 2 ^ 32)))
    | 0x04 => .ok (r.setG d (p.sel[o.imm % 16]?.getD 0))
    | 0x05 => .ok (r.setG d ((r.m.ctx.special (o.imm % 32)).getD 0))
    | 0x16 => .ok (r.setG d (BitVec.ofNat 64 (64 - bitLen x.toNat)))
    | 0x17 => .ok (r.setG d (BitVec.ofNat 64 (popCount 64 x.toNat)))
    | 0x18 => .ok (r.setG d (BitVec.ofNat 64 (x.toNat / 2 ^ lo % 2 ^ n)))
    | 0x19 =>
      let old := (r.g d).toNat
      .ok (r.setG d (BitVec.ofNat 64 (old / 2 ^ (lo + n) * 2 ^ (lo + n) + x.toNat % 2 ^ n * 2 ^ lo + old % 2 ^ lo)))
    | 0x30 => do
      let key ← r.place i ea size false
      let v := r.m.readNat ea key size
      .ok (r.setG d (if o.ctl / 4 % 2 = 1 then sext (8 * size) v else BitVec.ofNat 64 v))
    | 0x31 => do
      if 16 ≤ r.stores.length then figFault i 0xF1 ea
      let key ← r.place i ea size true
      let bs := bytesOfNat size (r.g (p.reg o.s2)).toNat
      .ok { r with m := r.m.put key bs, stores := r.stores ++ [(key, bs)] }
    | 0x3A => .ok { r with lc := o.imm }
    | 0x3B => figFault i 0xF0 x
    | _ => .ok r

/-- R237: the words from i on; the first argument bounds the micro-operations (R236: at most 4,096). DEDUCED: log entries 36, 38. -/
def FigRun.run (base : Nat) (p : FigPar) : Nat → Nat → FigRun → Try FigRun
  | 0, i, r => figFault i (Config.unstatedReason i) r.m.unstated
  | fuel + 1, i, r =>
    let key := Key.figure r.m.here (base + i) 0
    if r.m.poisoned key 8 then raise { cause := 0x16, reason := 0x05, opnd := 8, value := BitVec.ofNat 64 i, ref := i }
    else
      let o := microOf (BitVec.ofNat 64 (Mem.nat r.m.mem key 8))
      let t := ((i : Int) + o.simm).toNat
      if o.op = 0x3F then .ok r
      else if o.op = 0x38 then
        FigRun.run base p fuel (if microCond (o.ctl % 8) (r.g (p.reg o.s1)) (r.g (p.reg o.s2)) then t else i + 1) r
      else if o.op = 0x39 then
        if 1 < r.lc then FigRun.run base p fuel t { r with lc := r.lc - 1 }
        else FigRun.run base p fuel (i + 1) { r with lc := 0 }
      else match r.micro p i o with
        | .ok r => FigRun.run base p fuel (i + 1) r
        | .error e => .error e

/-- R237: the end of a figure: its registers are written, and its stores leave for the own tile in buffer order; until the process goes
on, another agent may have seen the first of them only. DEDUCED: log entry 94. -/
def FigRun.commit (r : FigRun) (s : Mach) : Mach :=
  r.stores.foldl (fun m y => m.sendStore m.fresh y.1 y.2)
    { r.m with mem := s.mem, bad := s.bad, ctx := { r.m.ctx with fpflags := r.m.ctx.fpflags ||| BitVec.ofNat 5 r.flags } }

/-- R57, R237. -/
def fig (x : F2) (op : BitVec 5) (f : BitVec 3) (s : Mach) : Try Done := do
  let num := x.pre.sub % 2 * 32 + op.toNat
  match s.ctx.fig num with
  | none => raise { cause := 0x0F, reason := 0x01, value := BitVec.ofNat 64 num }
  | some word =>
    if (s.markAt s.here word.toNat).isNone then raise { cause := 0x0F, reason := 0x02, value := BitVec.ofNat 64 num }
    let r ← FigRun.run word.toNat (figPar x f.toNat num s.ctx.pc.toNat) 4097 0 { m := s }
    .ok { m := (r.commit s).countDiag 4 1 }

def execFig (x : F2) (op : BitVec 5) (f : BitVec 3) (s : State) : Host.Outcome State Fault Refusal :=
  chain x.len s (fig x op f)

end Sys2Proof.Machine
end

