-- ==== Sys2Proof/Machine/Cipher.lean ====
section
/-! DEFINITION. AES-256-GCM (R329), the named standards FIPS 197 and SP 800-38D, with a nonce of 96 bits and a tag of 16 bytes. -/

namespace Sys2Proof.Machine

/-! The field of 2^8 elements and the substitution of bytes. -/

/-- One byte times x, modulo x^8 + x^4 + x^3 + x + 1. -/
def xtime (b : Byte) : Byte := (b <<< 1) ^^^ (if b.getLsbD 7 then 0x1B else 0)

def fieldMul : Nat → Byte → Byte → Byte
  | 0, _, _ => 0
  | n + 1, a, b => (if b.getLsbD 0 then a else 0) ^^^ fieldMul n (xtime a) (b >>> 1)

/-- The inverse, a to the power 254, and 0 for 0. -/
def fieldInv (a : Byte) : Byte := (List.replicate 6 ()).foldl (fun p _ => let q := fieldMul 8 p a; fieldMul 8 q q) (fieldMul 8 a a)

def subByte (b : Byte) : Byte :=
  let y := fieldInv b
  y ^^^ y.rotateLeft 1 ^^^ y.rotateLeft 2 ^^^ y.rotateLeft 3 ^^^ y.rotateLeft 4 ^^^ 0x63

def xorBytes (a b : List Byte) : List Byte := List.zipWith (· ^^^ ·) a b

/-! The block cipher. -/

/-- The words of the key schedule, latest first, from number i on; `rc` is the round constant. -/
def keyWords : Nat → Nat → Byte → List (List Byte) → List (List Byte)
  | 0, _, _, w => w
  | n + 1, i, rc, w =>
    let last := w.headD []
    let turned : List Byte := (last.drop 1 ++ last.take 1).map subByte
    let t : List Byte :=
      if i % 8 = 0 then xorBytes turned [rc, 0, 0, 0]
      else if i % 8 = 4 then last.map subByte else last
    keyWords n (i + 1) (if i % 8 = 0 then xtime rc else rc) (xorBytes (w[7]?.getD []) t :: w)

/-- The fifteen round keys. -/
def roundKeys (key : List Byte) : List (List Byte) :=
  (pieces 15 4 (keyWords 52 8 1 (pieces 8 4 key).reverse).reverse).map List.flatten

def shiftRows (s : List Byte) : List Byte := (List.range 16).map fun i => s[(i + 4 * (i % 4)) % 16]?.getD 0

def mixColumn : List Byte → List Byte
  | [a, b, c, d] =>
    let f := fun (w x y z : Byte) => xtime w ^^^ (xtime x ^^^ x) ^^^ y ^^^ z
    [f a b c d, f b c d a, f c d a b, f d a b c]
  | l => l

def aesRounds : List (List Byte) → List Byte → List Byte
  | [], s => s
  | [k], s => xorBytes (shiftRows (s.map subByte)) k
  | k :: r, s => aesRounds r (xorBytes ((pieces 4 4 (shiftRows (s.map subByte))).flatMap mixColumn) k)

def aesBlock (keys : List (List Byte)) (b : List Byte) : List Byte := match keys with
  | [] => b
  | k :: r => aesRounds r (xorBytes b k)

/-! Counter mode and the tag. -/

/-- Bytes as one number, most significant first, and back. -/
def natBig (l : List Byte) : Nat := natOfBytes l.reverse
def bytesMost (n x : Nat) : List Byte := (bytesOfNat n x).reverse

/-- The product in the field of 2^128 elements; bit 127 of a number is the coefficient of 1. -/
def ghashMul : Nat → Nat → Nat → Nat → Nat
  | 0, _, _, z => z
  | n + 1, x, v, z =>
    ghashMul n (x * 2 % 2 ^ 128) (v / 2 ^^^ (if v % 2 = 1 then 0xE1 * 2 ^ 120 else 0)) (if x / 2 ^ 127 = 1 then z ^^^ v else z)

def ghash (h : Nat) (l : List Byte) : Nat :=
  (pieces (l.length / 16 + 1) 16 l).foldl (fun y b => ghashMul 128 (y ^^^ natBig b) h 0) 0

/-- Zeros up to a whole block. -/
def padBlock (l : List Byte) : List Byte := padTo ((l.length + 15) / 16 * 16) l

def counterBlock (nonce : List Byte) (i : Nat) : List Byte := nonce ++ bytesMost 4 i

def gcmStream (keys : List (List Byte)) (nonce : List Byte) : Nat → List (List Byte) → List Byte
  | _, [] => []
  | i, b :: r => xorBytes b (aesBlock keys (counterBlock nonce i)) ++ gcmStream keys nonce (i + 1) r

def gcmCrypt (key nonce text : List Byte) : List Byte :=
  gcmStream (roundKeys key) nonce 2 (pieces (text.length / 16 + 1) 16 text)

def gcmTag (key nonce aad cipher : List Byte) : List Byte :=
  let keys := roundKeys key
  let h := natBig (aesBlock keys (List.replicate 16 0))
  let s := ghash h (padBlock aad ++ padBlock cipher ++ bytesMost 8 (8 * aad.length) ++ bytesMost 8 (8 * cipher.length))
  xorBytes (bytesMost 16 s) (aesBlock keys (counterBlock nonce 1))

/-- A sealed text: the ciphertext and its tag. -/
def gcmSeal (key nonce aad text : List Byte) : List Byte :=
  let c := gcmCrypt key nonce text
  c ++ gcmTag key nonce aad c

/-- The text behind a ciphertext with its tag, where the tag holds. -/
def gcmOpen (key nonce aad sealed : List Byte) : Option (List Byte) :=
  let c := sealed.take (sealed.length - 16)
  if 16 ≤ sealed.length && sealed.drop (sealed.length - 16) == gcmTag key nonce aad c then some (gcmCrypt key nonce c) else none

end Sys2Proof.Machine
end

