-- ==== Sys2Proof/Machine/Record.lean ====
section
/-! DEFINITION. The layout of a completion record (R240). -/

namespace Sys2Proof.Machine

/-- R240: the 128 bytes of a completion record. -/
def Record.bytes (r : Record) : List Byte :=
  padTo 64 (bytesOfNat 1 r.status ++ bytesOfNat 1 r.level ++ bytesOfNat 2 r.index ++ bytesOfNat 4 r.nid ++ bytesOfNat 4 r.discarded ++
    bytesOfNat 4 r.members ++ bytesOfNat 8 r.wmark.toNat ++ bytesOfNat 4 r.queue) ++ padTo 64 (r.fault.flatMap fun w => bytesOfNat 8 w.toNat)

end Sys2Proof.Machine
end

