-- ==== Sys2Proof/Machine/Port.lean ====
section
/-! DEFINITION. The hub's side of the Swius Queue Protocol (R329 to R331): messages to the host, keys, events and the error
log (R337, R338), and the soft errors of a die (R340). -/

namespace Sys2Proof.Machine

/-! Queues. -/

def SqpQueue.isAt (q : SqpQueue) (mgmt : Bool) (n : Nat) : Bool := q.mgmt == mgmt && q.queue == n
def Port.queueOf (p : Port) (mgmt : Bool) (n : Nat) : Option SqpQueue := p.queues.find? fun q => q.isAt mgmt n
def Port.updQueue (p : Port) (mgmt : Bool) (n : Nat) (f : SqpQueue → SqpQueue) : Port :=
  { p with queues := p.queues.map fun q => if q.isAt mgmt n then f q else q }

/-- R331: messages that the hub keeps unacknowledged for a queue. -/
def keptMessages : Nat := 4096

def SqpQueue.send (q : SqpQueue) (m : OutMsg) : SqpQueue :=
  { q with unacked := q.unacked ++ [(q.nextOut, m)], nextOut := q.nextOut + 1 }

def OutBody.isAnswer : OutBody → Bool
  | .answer _ _ _ => true
  | .data _ _ => true
  | .teardown => true
  | .ack _ => true
  | _ => false

/-! Datagrams (R329). -/

/-- R329: the 96 bits of a nonce; `out`: from the device to the host. -/
def SqpQueue.nonce (q : SqpQueue) (out : Bool) (seq : Nat) : List Byte :=
  bytesOfNat 2 q.queue ++ bytesOfNat 1 q.mgmt.toNat ++ bytesOfNat 1 out.toNat ++ bytesOfNat 8 seq

/-- R329: the header of a message. -/
def SqpQueue.header (q : SqpQueue) (type seq len : Nat) : List Byte :=
  bytesOfNat 2 0x5153 ++ bytesOfNat 1 1 ++ bytesOfNat 1 type ++ bytesOfNat 2 q.queue ++ bytesOfNat 1 q.mgmt.toNat ++ [0] ++
    bytesOfNat 8 seq ++ bytesOfNat 4 len ++ bytesOfNat 4 q.tenant ++ bytesOfNat 8 0

/-- R329: the key that the queue's opening derived; management queue 0, which is open from the start, has the owner's. -/
def SqpQueue.keyBytes (q : SqpQueue) : List Byte :=
  bytesOfNat 32 (if q.mgmt && q.queue == 0 && q.pub == 0 then Config.ownerKey q.epoch else q.key).toNat

/-- R330: type and payload of a message to the host. DESIGN CHOICE: log entry 120. -/
def OutBody.payload (queue : Nat) : OutBody → Nat × List Byte
  | .answer seq code detail => (0x80, bytesOfNat 8 seq ++ bytesOfNat 8 code ++ bytesOfNat 8 detail)
  | .data seq bytes => (0x80, bytesOfNat 8 seq ++ bytes)
  | .completion r => (0x81, r.bytes)
  | .event code => (0x82, bytesOfNat 8 code)
  | .teardown => (0x83, bytesOfNat 8 queue)
  | .ack seq => (0x84, bytesOfNat 8 seq)

/-- R329: a message as the host receives it: header, ciphertext, tag. -/
def SqpQueue.datagram (q : SqpQueue) (seq : Nat) (m : OutMsg) : List Byte :=
  let (type, text) := m.body.payload q.queue
  let head := q.header type seq text.length
  head ++ gcmSeal q.keyBytes (q.nonce true seq) head text

/-- R331: a message is sent, or held back while the queue's store is full; a closed queue sends answers only. -/
def Port.post (acc : Port × List OutMsg) (m : OutMsg) : Port × List OutMsg := match acc.1.queueOf m.mgmt m.queue with
  | none => acc
  | some q =>
    if !q.isOpen && !m.body.isAnswer then acc
    else if q.unacked.length < keptMessages then
      ({ acc.1.updQueue m.mgmt m.queue (fun q => q.send m) with sent := acc.1.sent ++ [q.datagram q.nextOut m] }, acc.2)
    else (acc.1, acc.2 ++ [m])

/-- R338: an event that concerns a tenant goes to management queue 0 and to the tenant's management queues. -/
def Port.targets (p : Port) (m : OutMsg) : List OutMsg := match m.tenant with
  | none => [m]
  | some t => { m with tenant := none } ::
      (p.queues.filter fun q => q.mgmt && q.queue != 0 && q.tenant == t).map fun q => { m with queue := q.queue, tenant := none }

/-- What waits in the hub is sent as far as there is room. -/
def State.flush (s : State) : State :=
  let (p, rest) := (s.outbox.flatMap s.port.targets).foldl Port.post (s.port, [])
  { s with port := p, outbox := rest }

def State.send (s : State) (m : OutMsg) : State := { s with outbox := s.outbox ++ [m] }

/-- R338: an event, to management queue 0 and to the tenant concerned. -/
def State.event (s : State) (code : Nat) (tenant : Option Nat := none) : State :=
  s.send { mgmt := true, queue := 0, tenant := tenant, body := .event code }

/-- R338: an event that concerns several tenants. -/
def State.eventFor (s : State) (code : Nat) (concerns : Tenant → Bool) : State :=
  let ids := (s.tenants.filter fun t => !t.gone && concerns t).map (·.id)
  (s.port.queues.filter fun q => q.mgmt && q.queue != 0 && ids.contains q.tenant).foldl
    (fun s q => s.send { mgmt := true, queue := q.queue, body := .event code }) (s.event code)

/-- R337: an entry of the error log; when it is full the oldest is overwritten and event 0x02 is posted. -/
def State.logError (s : State) (source code spot detail place : Nat) : State :=
  let e : LogEntry := { starts := s.port.starts, source := source, code := code, spot := spot, detail := detail, place := place }
  if s.port.log.length < Config.logEntries then { s with port := { s.port with log := s.port.log ++ [e] } }
  else { s with port := { s.port with log := s.port.log.drop 1 ++ [e] } }.event 0x02

/-! Keys (R329): HKDF over SHA-512 with one block of output. -/

def bytesBig (n x : Nat) : List Byte := (bytesOfNat n x).reverse
def hashBytes (l : List Byte) : List Byte := bytesOfNat 64 (sha512 l).toNat

/-- HMAC over SHA-512, whose blocks have 128 bytes. DESIGN CHOICE: log entry 10. -/
def hmac (key text : List Byte) : List Byte :=
  let k := padTo 128 (if 128 < key.length then hashBytes key else key)
  hashBytes (k.map (· ^^^ 0x5C) ++ hashBytes (k.map (· ^^^ 0x36) ++ text))

/-- The info bytes: class, zero, queue number, tenant, key epoch. -/
def SqpQueue.info (q : SqpQueue) : List Byte :=
  bytesOfNat 1 q.mgmt.toNat ++ [0] ++ bytesOfNat 2 q.queue ++ bytesOfNat 4 q.tenant ++ bytesOfNat 4 q.epoch

def SqpQueue.derive (q : SqpQueue) : SqpQueue :=
  let salt := bytesBig 133 q.pub ++ bytesBig 133 q.hub
  let okm := hmac (hmac salt (bytesBig 66 (Config.sharedX q.pub q.hub))) (q.info ++ [1])
  { q with key := BitVec.ofNat 256 (natOfBytes (okm.take 32)) }

/-- R329, R331: seq starts from 0 in both directions; what was sent under the old key stays unacknowledged. -/
def SqpQueue.fresh (q : SqpQueue) : SqpQueue :=
  { q with isOpen := true, tearing := false, torn := false, nextIn := 0, held := [], skip := [], nextOut := 0
           past := q.past ++ q.unacked, unacked := [], interval := 100 }

/-- R329: a reset: the next key epoch. -/
def SqpQueue.reopen (q : SqpQueue) : SqpQueue := ({ q with epoch := q.epoch + 1 }.fresh).derive

/-! Soft errors (R340). The hub's clock is the count of its power samples, one every millisecond. -/

def dayMs : Nat := 86400000

def State.updDie (s : State) (d : Nat) (f : Die → Die) : State :=
  { s with port := { s.port with dies := s.port.dies.setIfInBounds d (f (s.port.dies[d]?.getD {})) } }

/-- The die's count of one kind of soft error. -/
def Die.count (d : Die) (kind n : Nat) : Die := { d with soft := d.soft.setIfInBounds kind (d.soft[kind]?.getD 0 + n) }

/-- R338: does a tenant hold tiles or memory of a die. -/
def Tenant.onDie (t : Tenant) (d : Nat) : Bool :=
  t.tiles.any (fun k => dieOf k == d) || t.stackNos.any (fun k => k / 3 == d) || !t.rows.isEmpty

/-- R340: more than 16 uncorrectable errors of a die within 24 hours post event 0x05 and log the die. -/
def State.uncorrectable (s : State) (d kind : Nat) : State :=
  let s := s.updDie d fun y =>
    { y.count kind 1 with errs := (y.errs.filter fun t => s.port.sample < t + dayMs) ++ [s.port.sample] }
  if 16 < ((s.port.dies[d]?).map (·.errs.length)).getD 0 then (s.logError 5 0x05 d 0 0).eventFor 0x05 (·.onDie d) else s

end Sys2Proof.Machine
end

