-- ==== Sys2Proof/Machine/Packet.lean ====
section
/-! DEFINITION. Memory-server packets (R191 to R195) and the steps of gateways, servers, replies and the host bridge
(R270 to R282, R343). -/

namespace Sys2Proof.Machine

/-! Requests. -/

/-- R191: PO.sub [3] is the channel, [2:0] the size or the operation. -/
def packetChan (x : F2) : Nat := x.pre.sub / 8
def packetCode (x : F2) : Nat := x.pre.sub % 8
def packetSize (x : F2) : Nat := 8 * 2 ^ packetCode x

inductive Packet where
  | rd | wr | wrm | atom
  deriving DecidableEq, Repr

/-- Does a request carry an answer that `mrsp` takes. -/
def Req.replies (r : Req) : Bool := match r.op with
  | .read _ _ => true
  | .atomic _ _ _ => true
  | _ => false

/-- Is a read or an atomic of the running process on its way on a tag. -/
def Mach.tagReads (s : Mach) (n t : Nat) : Bool :=
  s.reqs.any fun r => r.proc == s.self && r.chan == n && r.tag == some t && r.replies

/-- R192: the tag of the next request: not consumed, in use by a write, or carrying an error to deliver. -/
def Mach.freeTag (s : Mach) (n t : Nat) : Try Unit :=
  let tag := (s.ctx.mq n).tag t
  let unconsumed : Try Unit := raise { cause := 0x08, reason := 0x07, opnd := 1, value := BitVec.ofNat 64 t }
  match tag.kind with
  | .read => unconsumed
  | .atomic => unconsumed
  | .waiting => if s.tagReads n t then unconsumed else engineWait s
  | .held => .error (.trapIn (memTrap tag.cause tag.reason tag.value)
      { s with ctx := s.ctx.setMq n ((s.ctx.mq n).setTag t {}) })
  | _ => .ok ()

/-- R192, R193. -/
def request (k : Packet) (x : F2) (s : Mach) : Try Done := do
  if !x.w then illegal 0x0C s.unstated
  let n := packetChan x
  let sz := if k == .atom then 8 else packetSize x
  let a := s.g x.aN
  let b := s.g x.eN
  if !isGlobal a then raise { cause := 0x06, reason := 0x06, opnd := 2, value := a }
  if a.toNat % sz ≠ 0 then raise { cause := 0x03, opnd := 2, value := a }
  let spot ← s.resolve a sz true (k != .rd)
  if k == .atom && spot.host then raise { cause := 0x06, reason := 0x07, opnd := 2, value := a }
  if k == .atom && packetCode x == 6 && x.eN % 2 == 1 then illegal 0x0B (BitVec.ofNat 64 x.eN) 3
  let op ← match k with
    | .atom => .ok (ReqOp.atomic (packetCode x) b (s.g (x.eN + 1)))
    | .rd => do
      let _ ← s.ownLocal b (min sz 16) sz false true
      .ok (ReqOp.read sz b.toNat)
    | .wr => do
      let key ← s.ownLocal b (min sz 16) sz true false
      s.clean key sz b
      .ok (ReqOp.write (s.readBytes b key sz))
    | .wrm => do
      let key ← s.ownLocal b (min sz 16) (sz + sz / 8) true false
      s.clean key (sz + sz / 8) b
      .ok (ReqOp.masked ((List.range sz).map fun i =>
        if (s.readNat (b + BitVec.ofNat 64 (sz + i / 8)) (key + sz + i / 8) 1).testBit (i % 8) then
          some (BitVec.ofNat 8 (s.readNat (b + BitVec.ofNat 64 i) (key + i) 1))
        else none))
  let t := (s.ctx.mq n).seq % 8
  s.freeTag n t
  s.waitSlot n
  let s := (s.issueReq n (some t) op spot a).2
  let q := (s.ctx.mq n).setTag t { kind := .waiting }
  .ok { m := { s with ctx := s.ctx.setMq n { q with seq := q.seq + 1 } }.setG x.dN (BitVec.ofNat 64 t) }

def execMrd (x : F2) (s : State) : Host.Outcome State Fault Refusal := chain x.len s (request .rd x)
def execMwr (x : F2) (s : State) : Host.Outcome State Fault Refusal := chain x.len s (request .wr x)
def execMwrm (x : F2) (s : State) : Host.Outcome State Fault Refusal := chain x.len s (request .wrm x)
def execMatom (x : F2) (s : State) : Host.Outcome State Fault Refusal := chain x.len s (request .atom x)

/-- R194. DEDUCED: log entry 31. -/
def mrsp (x : F2) (s : Mach) : Try Done :=
  let n := packetChan x
  let t := (s.g x.aN).toNat
  if 7 < t then illegal 0x0C (s.g x.aN)
  else
    let tag := (s.ctx.mq n).tag t
    let freed : Mach := { s with ctx := s.ctx.setMq n ((s.ctx.mq n).setTag t {}) }
    let fault := Stop.trapIn (memTrap tag.cause tag.reason tag.value) freed
    match tag.kind with
    | .free => raise { cause := 0x08, reason := 0x08, opnd := 2, value := s.g x.aN }
    | .waiting => engineWait s
    | .acked => .ok { m := s.setG x.dN 0 }
    | .held => .error fault
    | .read => if tag.cause ≠ 0 then .error fault else .ok { m := freed.setG x.dN 0 }
    | .atomic => if tag.cause ≠ 0 then .error fault else .ok { m := freed.setG x.dN tag.value }

def execMrsp (x : F2) (s : State) : Host.Outcome State Fault Refusal := chain x.len s (mrsp x)

/-! The steps of a request. Each takes place when it can; otherwise the state stays. -/

def Mach.req (s : Mach) (k : Nat) : Option Req := s.reqs.find? fun r => r.key == k
def Mach.setReq (s : Mach) (r : Req) : Mach := { s with reqs := s.reqs.map fun y => if y.key == r.key then r else y }

/-- R271: a request goes from its context to one of the eight slots that the gateway holds for its channel, in issue order. -/
def execGatewayForward (k : Nat) (s : State) : Host.Outcome State Fault Refusal :=
  match s.toMach.req k with
  | some r =>
    if r.stage = .issued && !r.host && (s.toMach.earlier r).all (fun y => y.stage != .issued) &&
        ((s.toMach.earlier r).filter fun y => y.stage == .gateway).length < 8 then
      .next { s with toMach := (s.toMach.setReq { r with stage := .gateway }).tock }
    else .next s
  | none => .next s

/-- R274, R271: the server has room for 128 requests; the requests of one channel reach their homes in issue order. -/
def Mach.acceptStep (s : Mach) (r : Req) : Mach :=
  let (s, r') := s.acceptReq r
  { s with reqs := (s.reqs.filter fun (y : Req) => y.key != r.key) ++ [r'] }

def Mach.canAccept (s : Mach) (r : Req) : Bool :=
  r.stage = .gateway && !r.host && s.isNext r &&
  (s.reqs.filter fun y => y.stage = .accepted && serverOf y.loc == serverOf r.loc).length < 128

def execServerAccept (k : Nat) (s : State) : Host.Outcome State Fault Refusal :=
  match s.toMach.req k with
  | some r => if s.toMach.canAccept r then .next { s with toMach := (s.toMach.acceptStep r).tock } else .next s
  | none => .next s

/-- R275, R343: the bytes from which on a request still holds its ECC words: a read-modify-write holds all of them until they are
recoded. -/
def Req.holds (y : Req) : Nat := if y.merges then y.loc else y.spot

/-- R275: does another request still touch the ECC word that r performs next. -/
def Req.meets (r y : Req) : Bool := r.spot / 32 * 32 < y.loc + y.bytes && y.holds / 32 * 32 < r.spot + r.span

/-- R275, R343: the next word of a request is performed after the requests accepted before it that still touch the word. -/
def Mach.mayPerform (s : Mach) (r : Req) : Bool :=
  r.stage = .accepted &&
  ((s.reqs.takeWhile fun y => y.key != r.key).all fun y => !y.atServer || !r.meets y)

/-- R276: what the ECC engine finds: corrected words are counted, an uncorrectable word becomes poison. -/
def Mach.eccFinds (s : Mach) (r : Req) : Ecc → Mach
  | .clean => s
  | .corrected n => s.countServer (serverOf r.loc) 6 n
  | .uncorrectable => s.poison r.spot

/-- R340: the die that a server's stack stands on counts it by stack: corrected from place 2, poisoned from place 5. -/
def State.eccCounts (s : State) (sv : Nat) : Ecc → State
  | .clean => s
  | .corrected n => s.updDie (sv % 24 / 3) fun d => d.count (2 + sv % 24 % 3) n
  | .uncorrectable => s.uncorrectable (sv % 24 / 3) (5 + sv % 24 % 3)

/-- R275: one ECC word of a request is performed. DEDUCED: log entry 98. -/
def execServerPerform (k : Nat) (ecc : Ecc) (s : State) : Host.Outcome State Fault Refusal :=
  match s.toMach.req k with
  | some r =>
    if s.toMach.mayPerform r then
      let (m, r') := (s.toMach.eccFinds r ecc).performWord r
      .next (({ s with toMach := (m.setReq r').tock } : State).eccCounts (serverOf r.loc) ecc)
    else .next s
  | none => .next s

/-- R343: the read-modify-write unit has merged and recoded the word; the acknowledgement leaves. -/
def execRmwMergeComplete (k : Nat) (s : State) : Host.Outcome State Fault Refusal :=
  match s.toMach.req k with
  | some r =>
    if r.stage = .merging then .next { s with toMach := (s.toMach.setReq { r with stage := .answered }).tock } else .next s
  | none => .next s

/-- R343: the acknowledgement of a full write leaves its server when the write is accepted. -/
def Req.acksEarly (r : Req) : Bool := r.stage == .accepted && r.tag.isSome && !r.host && !r.replies && !r.merges

/-- R192: what comes back for a request: the early acknowledgement of a full write, which the server has still to perform; or the
answer, the bytes of a read one doubleword a step (R193), and with the last of them the tag. -/
def Mach.replyStep (s : Mach) (r : Req) : Mach :=
  if r.acksEarly then
    let s := s.setReq { r with tag := none }
    let c := s.ctxOf r.proc
    s.setCtxOf r.proc (r.tag.elim c fun t => c.setMq r.chan ((c.mq r.chan).setTag t (r.tagAfter ((c.mq r.chan).tag t))))
  else if r.tag.isSome && r.fault.isNone && (match r.op with
      | .read n _ => decide (r.laid + 8 < n)
      | _ => false) then
    (s.lay r 8).setReq { r with laid := r.laid + 8 }
  else s.arrive r

/-- R192: an answer arrives at the context. -/
def execPacketReplyArrival (k : Nat) (s : State) : Host.Outcome State Fault Refusal :=
  match s.toMach.req k with
  | some r => if r.replied || r.acksEarly then .next { s with toMach := (s.toMach.replyStep r).tock } else .next s
  | none => .next s

/-- R285, R290: may a store to another tile be performed before those that were sent earlier. -/
def Mach.mayLand (s : Mach) (r : TileReq) : Bool :=
  (s.tileReqs.takeWhile fun y => y.key != r.key).all fun y => !s.landsFirst y r

/-- R270: a store is performed at its target tile. -/
def execRemoteTileAccess (k : Nat) (s : State) : Host.Outcome State Fault Refusal :=
  match s.toMach.tileReqs.find? fun r => r.key == k with
  | some r => if s.toMach.mayLand r then .next { s with toMach := (s.toMach.performTile r).tock } else .next s
  | none => .next s

/-! The host bridge (R282, R283). -/

/-- R282, R100: the requests of one channel are performed in issue order. -/
def Mach.bridgeTurn (s : Mach) (r : Req) : Bool := r.host && r.stage != .answered && s.hostUp && s.isNext r

/-- R282: the access in host memory. -/
def Mach.bridgePerform (s : Mach) (r : Req) : Mach × Req := match r.op with
  | .read n _ => (s, { r with stage := .answered, value := Mem.nat s.mem r.loc n })
  | .write bs => ({ s with mem := Mem.write s.mem r.loc bs }, { r with stage := .answered })
  | .masked bs => ({ s with mem := Mem.mask s.mem r.loc bs }, { r with stage := .answered })
  | .nibble high b =>
    ({ s with mem := Mem.set s.mem r.loc (nibbleMerge high b (Mem.get s.mem r.loc)) }, { r with stage := .answered })
  | .atomic _ _ _ => (s, { r with stage := .answered, fault := some (0x06, 0x07) })

def execHostBridgeCompletion (k : Nat) (s : State) : Host.Outcome State Fault Refusal :=
  match s.toMach.req k with
  | some r =>
    if s.toMach.bridgeTurn r then
      let (m, r') := s.toMach.bridgePerform r
      .next { s with toMach := (m.setReq r').tock }
    else .next s
  | none => .next s

def execHostPathTimeout (k : Nat) (s : State) : Host.Outcome State Fault Refusal :=
  match s.toMach.req k with
  | some r =>
    if r.host && r.stage != .answered then
      .next { s with toMach := (s.toMach.setReq { r with stage := .answered, fault := some (0x07, 0x00) }).tock }
    else .next s
  | none => .next s

end Sys2Proof.Machine
end

