-- ==== Sys2Proof/Machine/Matrix.lean ====
section
/-! DEFINITION. The matrix engine: matrix state (R148, R149), outer products (R151 to R153, R79 to R85), folds (R150, R82)
and the moves of accumulator slices and tiles (R154 to R156). -/

namespace Sys2Proof.Machine

/-! Accumulator tiles (R32). -/

def Ctx.zImg (c : Ctx) (k : Nat) : Nat := (c.z[k]?.getD 0).toNat
/-- Pair 32i + j: s in the low word, err in the high one. -/
def pairAt (img i : Nat) : Nat × Nat := (bitsAt img (64 * i) 32, bitsAt img (64 * i + 32) 32)
def packPairs (l : List (Nat × Nat)) : Nat := pack 64 (l.map fun p => p.1 + 2 ^ 32 * p.2)
def Ctx.setZ (c : Ctx) (k img : Nat) (clean : Bool) : Ctx :=
  { c with z := c.z.setIfInBounds k (BitVec.ofNat 65536 img), zBad := if clean then c.zBad.setIfInBounds k 0 else c.zBad }

/-- R326: pairs that have been written whole are clean. -/
def Ctx.cleanPairs (c : Ctx) (k : Nat) (ids : List Nat) : Ctx :=
  { c with zBad := c.zBad.setIfInBounds k ((c.zBad[k]?.getD 0) &&& ~~~ BitVec.ofNat 1024 (ids.foldl (fun acc i => acc ||| 2 ^ i) 0)) }

/-- R148; reason 0x01 names the instruction's z operand, if it has one. DEDUCED: log entry 137. -/
def Mach.matrixOn (s : Mach) (opnd : Nat := 0) : Try Unit :=
  if s.ctx.mOn then .ok () else raise { cause := 0x0B, reason := 0x01, opnd := opnd, value := s.unstated }

def Mach.checkZ (s : Mach) (k opnd : Nat) : Try Unit :=
  if k < s.ctx.mN then .ok () else raise { cause := 0x0B, reason := 0x02, opnd := opnd, value := BitVec.ofNat 64 k }

/-- R327: poison in the first of some pairs that are read. -/
def Mach.cleanZ (s : Mach) (k opnd : Nat) (ids : List Nat) : Try Unit :=
  let bad := s.ctx.zBad[k]?.getD 0
  if bad = 0 then .ok ()
  else match ids.find? fun i => bad.getLsbD i with
    | some i => raise { cause := 0x16, reason := 0x04, opnd := opnd, value := BitVec.ofNat 64 k, elem := i }
    | none => .ok ()

/-- R261, R264: a matrix instruction queued with the cycles it holds the array; tile k counts as register 32 + k. -/
def Mach.matHead (s : Mach) (cost : Nat) (reads writes : List Nat := []) : Mach :=
  (s.queueJob { matrix := true, cost := cost, reads := reads, writes := writes }).countTile s.here 0 cost

/-- R149. -/
def mxon (x : F2) (s : Mach) : Try Done :=
  let n := x.aImm
  if n < 1 || 32 < n then illegal 0x0C (BitVec.ofNat 64 n)
  else if s.ctx.mAllow < n then illegal 0x0F (BitVec.ofNat 64 n)
  else
    let old := if s.ctx.mOn then s.ctx.mN else 0
    let c := s.ctx
    .ok { m := { s with ctx := { c with
      mOn := true, mN := n
      z := Vector.ofFn fun k : Fin 32 => if k.val < old && k.val < n then c.z[k] else 0
      zBad := Vector.ofFn fun k : Fin 32 => if k.val < old && k.val < n then c.zBad[k] else 0 } } }

def execMxon (x : F2) (s : State) : Host.Outcome State Fault Refusal := chain x.len s (mxon x)

def Ctx.matrixOff (c : Ctx) : Ctx :=
  { c with mOn := false, mN := 0, z := Vector.replicate 32 0, zBad := Vector.replicate 32 0 }

def execMxoff (x : F2) (s : State) : Host.Outcome State Fault Refusal :=
  plain x.len s fun m => { m with ctx := m.ctx.matrixOff }

def execMzero (x : F2) (s : State) : Host.Outcome State Fault Refusal :=
  chain x.len s fun m => do
    m.matrixOn 1
    m.checkZ x.dN 1
    .ok { m := { m with ctx := m.ctx.setZ x.dN 0 true }.matHead 1 [] [32 + x.dN] }

/-- R150. -/
def mfold (x : F2) (s : Mach) : Try Done := do
  s.matrixOn 1
  s.checkZ x.dN 1
  if s.ctx.fmt == some .int8 || s.ctx.fmt == some .f64s then .ok { m := s.matHead 1 [32 + x.dN] [32 + x.dN] }
  else
    s.cleanZ x.dN 1 (List.range 1024)
    let img := s.ctx.zImg x.dN
    let new := (List.range 1024).map fun i => (fold32 (pairAt img i).1 (pairAt img i).2 % 2 ^ 32, 0)
    .ok { m := { s with ctx := s.ctx.setZ x.dN (packPairs new) false }.matHead 1 [32 + x.dN] [32 + x.dN] }

def execMfold (x : F2) (s : State) : Host.Outcome State Fault Refusal := chain x.len s (mfold x)

/-! Outer products. -/

/-- The operands of a k-step: the two elements, and for fp4 their block scales and the band scale. -/
structure Factors where
  a    : Nat
  b    : Nat
  sa   : Nat := 0
  sb   : Nat := 0
  beta : Nat := 0
  deriving DecidableEq, Repr

/-- R71, R70: the exact product. -/
def productEx (f : Fmt) (x : Factors) : Ex :=
  if f == .fp4 then
    match decodeF .bf16 x.beta, decodeF .fp4 x.a, decodeF .fp4 x.b with
    | .num y, .num a, .num b => { v := .num ((((a.mul (scaleFx x.sa)).mul b).mul (scaleFx x.sb)).mul y) }
    | _, _, _ => nvNan
  else fMul (decodeF f x.a) (decodeF f x.b)

def flipSign (p : Nat) : Nat := (p + 2 ^ 31) % 2 ^ 32
def maskNvOf (fl : Nat) : Nat := fl &&& (fNv ||| fOf)

/-- R80: the low part of a split product. -/
def lowPart (r : Ex) (hi : Nat) : Nat := match r.v, f32 hi with
  | .num p, .num h => (round32 { v := .num (p.add false { h with neg := !h.neg }) }).1
  | _, _ => 0

/-- R79, R80, R85: one k-step on a pair, with its exceptions (R81); `mopn` takes the negative of the whole product. -/
def kStep (f : Fmt) (slc : Nat) (neg : Bool) (p : Nat × Nat) (x : Factors) : (Nat × Nat) × Nat :=
  match f with
  | .int8 =>
    let v := intOf .int8 x.a * intOf .int8 x.b
    (((p.1 + patOf 32 (if neg then -v else v)) % 2 ^ 32, 0), 0)
  | .f64s =>
    let c := decodeF .fp64 (p.1 + 2 ^ 32 * p.2)
    let a := decodeF .fp64 x.a
    let b := decodeF .fp64 x.b
    let r := match a, b, c with
      | .num u, .num v, .num _ =>
        let q := Fl.num ((sliced slc u).mul (sliced slc v))
        fAdd 0 (if neg then q.neg else q) c
      | _, _, _ => fFma 0 (if neg then a.neg else a) b c
    let (bits, fl) := r.round .fp64 0 0
    ((bits % 2 ^ 32, bits / 2 ^ 32), maskNvOf fl)
  | _ =>
    let r := productEx f x
    let (hi, fl) := round32 r
    let (s, err, fl') := compAdd p.1 p.2 (if neg then flipSign hi else hi)
    let err := if f == .fp32 && finite32 s then
        (add32 err (if neg then flipSign (lowPart r hi) else lowPart r hi)).1 else err
    ((s, err), maskNvOf fl ||| fl')

/-- The k-steps of one pair in ascending order. -/
def kSteps (f : Fmt) (slc : Nat) (neg : Bool) : List Factors → Nat × Nat → Nat → (Nat × Nat) × Nat
  | [], p, fl => (p, fl)
  | x :: r, p, fl => let (p', fl') := kStep f slc neg p x; kSteps f slc neg r p' (fl ||| fl')

/-- R152: k-steps of a format, and cycles on the array. DEDUCED: log entry 92. -/
def kappa (f : Fmt) : Nat := 128 / f.width
def arrayCycles (f : Fmt) (slc : Nat) : Nat := match f with
  | .fp32 => 32
  | .f64s => 2 * slc * slc
  | _ => 16

/-- R153: is pair 32i + j enabled. -/
def Mach.pairOn (s : Mach) (p : Pre) (i : Nat) : Bool := s.admits p (i / 32) && s.admits p (32 + i % 32)

/-- R152: the factors of pair i for A and B images, the A scales and the B scales. -/
def factorsOf (f : Fmt) (a b sa sb beta i : Nat) : List Factors :=
  let n := kappa f
  let w := f.width
  (List.range n).map fun k =>
    { a := bitsAt a (w * (n * (i / 32) + k)) w, b := bitsAt b (w * (n * (i % 32) + k)) w
      sa := bitsAt sa (8 * (4 * (i / 32) + k / 8)) 8, sb := bitsAt sb (8 * (4 * (i % 32) + k / 8)) 8, beta := beta }

/-- R153: the accumulation of a block into z(d): new image and exceptions by pair. -/
def Mach.outer (s : Mach) (p : Pre) (f : Fmt) (d a b sa sb beta : Nat) (neg : Bool) : Nat × List (Nat × Nat) :=
  let img := s.ctx.zImg d
  let res := (List.range 1024).map fun i =>
    if s.pairOn p i then kSteps f s.ctx.slc neg (factorsOf f a b sa sb beta i) (pairAt img i) 0 else (pairAt img i, 0)
  (packPairs (res.map (·.1)), ((List.range 1024).zip res).filterMap fun (i, r) => if r.2 = 0 then none else some (i, r.2))

def matrixFmt (f : Fmt) : Bool :=
  f == .int8 || f == .fp8e4 || f == .fp8e5 || f == .bf16 || f == .fp32 || f == .f64s || f == .fp4

/-- The pairs that an instruction reads. -/
def Mach.enabledPairs (s : Mach) (p : Pre) : List Nat := (List.range 1024).filter fun i => s.pairOn p i

/-- R151, R153. -/
def mop (neg : Bool) (x : F2) (s : Mach) : Try Done := do
  s.matrixOn 1
  s.checkZ x.dN 1
  let f ← s.needFmt matrixFmt
  match f == .fp4, x.pre.px with
  | false, w :: _ => illegal 0x08 (BitVec.ofNat 64 (0xF800 + w.toNat))
  | true, [] => illegal 0x0C 0
  | _, _ => .ok ()
  if f == .fp4 && 32 ≤ x.u then illegal 0x0C (BitVec.ofNat 64 x.u)
  if f == .fp4 && x.aN % 2 = 1 then illegal 0x0B (BitVec.ofNat 64 x.aN) 2
  let na := if f == .fp4 then 2 else 1
  let ops : List VOp := { pos := 1, reg := x.aN, n := na, src := true, dst := false, anew := some 8 } ::
    (if x.w then [{ pos := 2, reg := x.eN, n := 1, src := true, dst := false }] else [])
  s.cleanGov x.pre
  let v ← s.sources ops f.width
  s.cleanZ x.dN 1 (s.enabledPairs x.pre)
  let a := (v[x.aN]?.getD 0).toNat
  let b := if x.w then (v[x.eN]?.getD 0).toNat else a
  let sc := if f == .fp4 then (v[x.aN + 1]?.getD 0).toNat else 0
  let beta := (s.g (x.u % 32)).toNat % 2 ^ 16
  let (img, fls) := s.outer x.pre f x.dN a b sc (sc / 2 ^ 1024) beta neg
  let s ← s.recordFlags fls
  let s ← s.commitRegs ops []
  .ok { m := { s with ctx := s.ctx.setZ x.dN img false }.matHead (arrayCycles f s.ctx.slc) ((32 + x.dN) :: ops.flatMap VOp.regs) [32 + x.dN] }

def execMop (x : F2) (s : State) : Host.Outcome State Fault Refusal := chain x.len s (mop false x)
def execMopn (x : F2) (s : State) : Host.Outcome State Fault Refusal := chain x.len s (mop true x)

/-! Slices. -/

/-- R154: the pairs of row or column n. -/
def sliceIds (row : Bool) (n : Nat) : List Nat := (List.range 32).map fun m => if row then 32 * n + m else 32 * m + n

/-- R154: a slice into a vector register. -/
def readSlice (row : Bool) (x : F2) (s : Mach) : Try Done := do
  s.matrixOn 2
  s.checkZ x.aN 2
  let n := x.u
  let part := x.pre.sub
  if 32 ≤ n then illegal 0x0C (BitVec.ofNat 64 n)
  let ops : List VOp := [{ pos := 0, reg := x.dN, n := 1, src := false, dst := true }]
  let _ ← s.sources ops 32
  s.cleanZ x.aN 2 (sliceIds row n)
  let img := s.ctx.zImg x.aN
  let w := if part = 3 then 64 else 32
  let vals := (sliceIds row n).map fun i =>
    let p := pairAt img i
    match part with
    | 0 => fold32 p.1 p.2
    | 1 => p.1
    | 2 => p.2
    | _ => p.1 + 2 ^ 32 * p.2
  let old := (s.ctx.vr x.dN).toNat
  let out : VOut := { reg := x.dN, n := 1, img := old / 2 ^ (32 * w) * 2 ^ (32 * w) + pack w vals, words := 2 ^ (w / 2) - 1 }
  let s ← s.commitRegs ops [out]
  .ok { m := s.matHead 1 [32 + x.aN] [x.dN] }

def execMrowv (x : F2) (s : State) : Host.Outcome State Fault Refusal := chain x.len s (readSlice true x)
def execMcolv (x : F2) (s : State) : Host.Outcome State Fault Refusal := chain x.len s (readSlice false x)

/-- Pairs replaced by index. -/
def replacePairs (img : Nat) (new : List (Nat × (Nat × Nat))) : Nat :=
  packPairs ((List.range 1024).map fun i => ((new.find? fun y => y.1 == i).map (·.2)).getD (pairAt img i))

/-- R154: a vector register into a slice. -/
def writeSlice (row : Bool) (x : F2) (s : Mach) : Try Done := do
  s.matrixOn 1
  s.checkZ x.dN 1
  let n := x.u
  let part := x.pre.sub
  if 32 ≤ n then illegal 0x0C (BitVec.ofNat 64 n)
  let ops : List VOp := [{ pos := 1, reg := x.aN, n := 1, src := true, dst := false }]
  let w := if part = 3 then 64 else 32
  let v ← s.sources ops w
  let vals := elems w 32 (v[x.aN]?.getD 0).toNat
  let img := s.ctx.zImg x.dN
  let new := ((sliceIds row n).zip vals).map fun (i, a) => (i, match part with
    | 0 => (a, 0)
    | 1 => (a, (pairAt img i).2)
    | 2 => ((pairAt img i).1, a)
    | _ => (a % 2 ^ 32, a / 2 ^ 32))
  let s ← s.commitRegs ops []
  let c := s.ctx.setZ x.dN (replacePairs img new) false
  let c := if part = 0 || part = 3 then c.cleanPairs x.dN (sliceIds row n) else c
  .ok { m := { s with ctx := c }.matHead 1 [x.aN, 32 + x.dN] [32 + x.dN] }

def execMvrow (x : F2) (s : State) : Host.Outcome State Fault Refusal := chain x.len s (writeSlice true x)
def execMvcol (x : F2) (s : State) : Host.Outcome State Fault Refusal := chain x.len s (writeSlice false x)

/-! Tile moves (R155, R156). -/

/-- Bytes of an element in a tile format. -/
def tileBytes (sub : Nat) : Nat := match sub with
  | 1 => 8
  | 2 => 2
  | 3 => 2
  | 4 => 1
  | 5 => 1
  | _ => 4

def tileFmt (sub : Nat) : Option Fmt := match sub with
  | 2 => some .bf16
  | 3 => some .fp16
  | 4 => some .fp8e4
  | 5 => some .fp8e5
  | _ => none

/-- R155: what `macst` writes of a pair, with its exceptions: into e4, a NaN sum raises nv only by a signalling s. -/
def storedPair (sub rm draw : Nat) (p : Nat × Nat) : Nat × Nat := match tileFmt sub with
  | some f =>
    if finite32 p.1 then
      let r := (fAdd rm (f32 p.1) (f32 p.2)).round f rm draw
      if f == .fp8e4 && (f32 p.2).isNan then (r.1, 0) else r
    else ({ v := f32 p.1, fl := sigFlag (f32 p.1) } : Ex).round f rm draw
  | none => match sub with
    | 0 => (fold32 p.1 p.2, 0)
    | 1 => (p.1 + 2 ^ 32 * p.2, 0)
    | _ => (p.1, 0)

/-- R155: the pair that `macld` makes of a value. -/
def loadedPair (sub v : Nat) : (Nat × Nat) × Nat := match tileFmt sub with
  | some f =>
    let (b, fl) := ({ v := decodeF f v, fl := sigFlag (decodeF f v) } : Ex).round .fp32 0 0
    ((b, 0), fl &&& fNv)
  | none => if sub = 1 then ((v % 2 ^ 32, v / 2 ^ 32), 0) else ((v, 0), 0)

/-- R155: the enabled elements with their addresses. -/
def Mach.tileAddrs (s : Mach) (x : F2) (b : Nat) : List (Nat × Word) :=
  let t : Word := if x.w then s.g x.eN else BitVec.ofNat 64 (32 * b)
  (s.enabledPairs x.pre).map fun i => (i, s.ea x + BitVec.ofNat 64 (i / 32) * t + BitVec.ofNat 64 (i % 32 * b))

/-- DEDUCED: log entry 30. -/
def macst (x : F2) (s : Mach) : Try Done := do
  s.matrixOn 1
  s.checkZ x.dN 1
  let sub := x.pre.sub
  let b := tileBytes sub
  s.cleanGov x.pre
  s.cleanZ x.dN 1 (s.enabledPairs x.pre)
  s.baseCheck false x b (s.tileAddrs x b)
  let draws := if (tileFmt sub).isSome then s.ctx.rsrOutputs 1024 else 0
  let img := s.ctx.zImg x.dN
  let rs := (List.range 1024).map fun i =>
    if s.pairOn x.pre i then storedPair sub s.ctx.rm (s.ctx.draw i) (pairAt img i) else (0, 0)
  let ps ← storeElems s false true (8 * b) (rs.map (·.1)) (s.tileAddrs x b)
  s.checkOutputs draws
  let s ← s.recordFlags (((List.range 1024).zip rs).filterMap fun (i, r) => if r.2 = 0 then none else some (i, r.2))
  .ok { m := (ps.foldl (Mach.storePiece s.fresh) (s.advanceRng draws)).matHead 1 [32 + x.dN] }

def execMacst (x : F2) (s : State) : Host.Outcome State Fault Refusal := chain x.len s (macst x)

def macld (x : F2) (s : Mach) : Try Done := do
  s.matrixOn 1
  s.checkZ x.dN 1
  let sub := x.pre.sub
  let b := tileBytes sub
  s.cleanGov x.pre
  let adr := s.tileAddrs x b
  s.baseCheck false x b adr
  let s := s.drainFor adr
  let (es, _) ← elemSpots (s.elemSpot false true false b) false adr []
  let (got, _, s) ← readAll b false es 0 [] s
  let new := got.map fun (i, v) => (i, loadedPair sub v)
  let s ← s.recordFlags (new.filterMap fun (i, r) => if r.2 = 0 then none else some (i, r.2))
  let img := replacePairs (s.ctx.zImg x.dN) (new.map fun (i, r) => (i, r.1))
  let c := s.ctx.setZ x.dN img false
  let c := c.cleanPairs x.dN (got.map (·.1))
  .ok { m := { s with ctx := c }.matHead 1 [] [32 + x.dN] }

def execMacld (x : F2) (s : State) : Host.Outcome State Fault Refusal := chain x.len s (macld x)

end Sys2Proof.Machine
end

