-- ==== Sys2Proof/Machine/Residency.lean ====
section
/-! DEFINITION. Residencies (R33, R157 to R172): allocation, fills and reloads, the residency check, `mres` and `mresv`, the
gate of bank residencies and the marks of watched sources. -/

namespace Sys2Proof.Machine

/-! Handles. -/

/-- R33. -/
def handleOf (bank : Bool) (spot slot gen : Nat) : Nat :=
  if bank then 2 ^ 31 + spot * 2 ^ 26 + slot * 2 ^ 8 + gen
  else spot % 64 * 2 ^ 24 + spot / 64 * 2 ^ 18 + slot * 2 ^ 8 + gen

def handleOk (w : Word) : Bool :=
  let h := w.toNat
  h < 2 ^ 32 && h % 256 != 0 &&
  (if h / 2 ^ 31 = 1 then bitsAt h 26 5 ≤ 23 && bitsAt h 18 8 == 0
   else bitsAt h 24 7 < 64 && bitsAt h 18 6 < 32 && bitsAt h 12 6 == 0)

def checkHandle (w : Word) : Try Unit := if handleOk w then .ok () else illegal 0x10 w

/-- R158: the live residency that a handle names for the running process, by its place in the list. -/
def Mach.residOf (s : Mach) (k : Nat) (ten : Option Nat) (w : Word) : Option (Nat × Resid) :=
  ((List.range s.resids.length).zip s.resids).find? fun (_, r) =>
    r.handle == w.toNat && r.state != .revoked && some r.tenant == ten && (r.bank || r.owner == k)

def Mach.myResid (s : Mach) (w : Word) : Option (Nat × Resid) := s.residOf s.self s.tenantNo w
def Mach.setResid (s : Mach) (i : Nat) (f : Resid → Resid) : Mach := { s with resids := listSet s.resids i f }

def staleTrap (reason opnd : Nat) (w : Word) : Trap :=
  { cause := 0x0C, reason := reason, opnd := opnd, value := w, ref := w.toNat }

/-- R158, R161: the live residency of a handle operand. -/
def Mach.liveResid (s : Mach) (w : Word) (opnd : Nat) : Try (Nat × Resid) := do
  checkHandle w
  match s.myResid w with
  | some x => .ok x
  | none => raise (staleTrap 0x02 opnd w)

/-! Allocation. -/

/-- R33: the generation counter of a slot or a region, and its next value. -/
def genKey (bank : Bool) (spot slot : Nat) : Nat := if bank then 2 ^ 32 + spot * 1024 + slot else spot * 16 + slot
def Mach.nextGen (s : Mach) (key : Nat) : Nat :=
  let g := ((s.gens.find? fun y => y.1 == key).map (·.2)).getD 0
  if g = 255 then 1 else g + 1
def Mach.setGen (s : Mach) (key g : Nat) : Mach :=
  { s with gens := insertBy (·.1) (key, g) (s.gens.filter fun y => y.1 != key) }

/-- The residencies that hold a slot of a tile, or a region of a stack. -/
def Mach.holding (s : Mach) (bank : Bool) (spot : Nat) : List Resid :=
  s.resids.filter fun r => r.bank == bank && r.spot == spot && r.state != .revoked && !r.noSlot

def Mach.freeSlot (s : Mach) (bank : Bool) (spot n : Nat) : Option Nat :=
  firstBelow n fun i => (s.holding bank spot).all fun r => r.slot != i

/-- R2: MiB of one stack. -/
def stackMib : Nat := 98304

def sumMib (l : List Resid) : Nat := (l.map (·.mib)).foldl (· + ·) 0

/-- R160, R273: the rows of a stack that bank residencies and spill regions hold and those that a table maps. -/
def Mach.heldRows (s : Mach) (stack : Nat) : List (Nat × Nat) :=
  s.bankRows stack ++ s.tenants.flatMap fun t => (t.active ++ t.switch.getD []).filterMap fun y => y.2.rowsOn stack

/-- R160, R273: the rows of a stack that are taken: those of bank residencies, those given to a job and those that an active
table maps; and, by rising address, the intervals left between them. -/
def Mach.takenRows (s : Mach) (stack : Nat) : List (Nat × Nat) :=
  s.heldRows stack ++ s.tenants.flatMap fun t => t.rows.map fun i => mibSpan (i * 2 ^ 21) (2 ^ 21) 3072

def gaps (lo : Nat) : List (Nat × Nat) → List (Nat × Nat)
  | [] => if lo < stackMib then [(lo, stackMib)] else []
  | (a, b) :: r => (if lo < a then [(lo, a)] else []) ++ gaps (max lo b) r

/-- n MiB from a list of intervals, from the end of each. -/
def takeRows : Nat → List (Nat × Nat) → Option (List (Nat × Nat))
  | 0, _ => some []
  | _ + 1, [] => none
  | n + 1, (a, b) :: r => (takeRows (n + 1 - (b - a)) r).map fun l => (max a (b - (n + 1)), b) :: l

/-- R160: n MiB of free rows in a stack, the highest first. DESIGN CHOICE: log entry 116. -/
def Mach.freeRows (s : Mach) (stack n : Nat) : Option (List (Nat × Nat)) :=
  takeRows n (gaps 0 (sortBy (·.1) (s.takenRows stack))).reverse

def Image.declaredArrays (im : Image) (i : Nat) : Nat := im.resids.countP fun r => !r.bank && r.owner == i

/-- R256: the contexts of a tile that pre-placed images reserve and no process holds: each image with the process's index. -/
def Mach.vacant (s : Mach) (t : Nat) : List (Image × Nat) := s.images.flatMap fun im =>
  if im.ready && im.live then
    ((List.range im.slots.length).filter fun i => (im.slots[i]?).elim false fun pl =>
      tileNo pl.x pl.y == t && (s.onTile t).all fun k => (s.ctxOf k).place != some pl).map fun i => (im, i)
  else []

/-- R170: array residencies of process k that are not revoked and have no slot on a tile. -/
def Mach.slotless (s : Mach) (k t : Nat) : Nat :=
  s.resids.countP fun r => !r.bank && r.owner == k && r.state != .revoked && (r.noSlot || r.spot != t)

/-- R256: the process that has begun, in the network that runs an image, at an index. -/
def Mach.begun (s : Mach) (im : Image) (i : Nat) : Option Nat :=
  ((s.nets.find? fun x => x.live && x.image == im.handle).bind fun x => x.procs[i]?).filter fun k =>
    ((s.proc k).map fun p => p.started && p.st != .exited).getD false

/-- R160, R256: slots of a tile that the residencies of reserved contexts are still to have, all or one tenant's. -/
def Mach.reservedSlots (s : Mach) (t : Nat) (f : Image → Bool) : Nat :=
  (((s.vacant t).filter fun y => f y.1).map fun y => match s.begun y.1 y.2 with
    | some k => s.slotless k t
    | none => y.1.declaredArrays y.2).foldl (· + ·) 0

/-- R160: an array residency on a tile, or what stands in the way (−1). `quota` is quota.arr. -/
def Mach.newArray (s : Mach) (ten owner tile quota : Nat) (refresh : Bool) : Option Nat × Mach :=
  let mine := (s.holding false tile).filter fun r => r.tenant == ten
  let full := min quota 16 ≤ mine.length + s.reservedSlots tile (fun im => im.tenant == ten) ||
    16 ≤ (s.holding false tile).length + s.reservedSlots tile fun _ => true
  match if full then none else s.freeSlot false tile 16 with
  | none => (none, s)
  | some i =>
    let g := s.nextGen (genKey false tile i)
    let h := handleOf false tile i g
    let r : Resid := { bank := false, handle := h, spot := tile, slot := i, gen := g, owner := owner, tenant := ten, refresh := refresh }
    (some h, { s.setGen (genKey false tile i) g with resids := s.resids ++ [r] })

/-- R160: a bank residency in a stack, or the error. -/
def Mach.newBank (s : Mach) (ten owner stack mib quota : Nat) (refresh : Bool) : Except Word (Nat × Mach) :=
  let here := s.holding true stack
  if quota < sumMib (here.filter fun r => r.tenant == ten) + mib then .error (BitVec.ofInt 64 (-2))
  else match s.freeRows stack mib, s.freeSlot true stack 1024 with
    | some rows, some i =>
      let g := s.nextGen (genKey true stack i)
      let h := handleOf true stack i g
      let r : Resid := { bank := true, handle := h, spot := stack, slot := i, gen := g, owner := owner, tenant := ten, refresh := refresh, mib := mib, rows := rows }
      .ok (h, { s.setGen (genKey true stack i) g with resids := s.resids ++ [r] })
    | _, _ => .error (BitVec.ofInt 64 (-3))

/-- R30: a tenant's quotas: array slots of a tile, MiB of a stack. -/
def Mach.quotaArr (s : Mach) (ten : Nat) : Nat := min ((s.tenant ten).map (·.arr) |>.getD 0) 16
def Mach.quotaBank (s : Mach) (ten stack : Nat) : Nat :=
  (((s.tenant ten).bind fun t => t.bank.find? fun y => y.1 == stack).map (·.2)).getD 0

/-- R30: the quota register: the largest bank quota stands for the stacks. DEDUCED: log entry 44. -/
def Tenant.quotaWord (t : Tenant) : Word :=
  BitVec.ofNat 64 (t.bank.foldl (fun acc y => max acc y.2) 0 % 2 ^ 32 * 2 ^ 8 + t.arr % 32)

def rsalloc (x : F2) (s : Mach) : Try Done := do
  s.matrixOn
  let w := s.g x.aN
  let n := w.toNat
  let mib := bitsAt n 8 32
  let stack := bitsAt n 3 5
  let bank := n % 2 == 1
  let ok := bitsAt n 40 24 == 0 && bitsAt n 1 1 == 0 &&
    (if bank then 1 ≤ mib && mib ≤ 98304 && stack ≤ 23 else mib == 0 && stack == 0)
  if !ok then illegal 0x0C w 2
  let ten := s.tenantNo.getD 0
  if bank then
    match s.newBank ten s.self stack mib (s.quotaBank ten stack) (n / 4 % 2 == 1) with
    | .ok (h, s) => .ok { m := s.setG x.dN (BitVec.ofNat 64 h) }
    | .error e => .ok { m := s.setG x.dN e }
  else
    match s.newArray ten s.self s.here (s.quotaArr ten) (n / 4 % 2 == 1) with
    | (some h, s) => .ok { m := s.setG x.dN (BitVec.ofNat 64 h) }
    | (none, s) => .ok { m := s.setG x.dN (BitVec.allOnes 64) }

def execRsalloc (x : F2) (s : State) : Host.Outcome State Fault Refusal := chain x.len s (rsalloc x)

/-! Fills (R161, R163). -/

/-- Where a residency's bytes lie. -/
def Resid.base (r : Resid) : Nat := if r.bank then Key.region r.spot r.slot 0 else Key.slot r.spot r.slot 0

/-- R163: bytes of a chunk and of a whole image by its header, if the header is well formed. -/
def chunkBytes (wfmt : Nat) : Nat := match wfmt with
  | 5 => 5
  | 8 => 16
  | _ => 8

def bankImage (h : Nat) : Option Nat :=
  let wfmt := fieldAt h 0 1
  let rows := fieldAt h 4 4
  let panels := fieldAt h 8 4
  if 5 ≤ wfmt && wfmt ≤ 8 && fieldAt h 1 3 == 0 && 1 ≤ rows && rows ≤ 1048576 && 1 ≤ panels && panels ≤ 4096 && fieldAt h 12 52 == 0
  then some (64 + panels * 128 * rows * chunkBytes wfmt + (if wfmt = 5 then (rows + 63) / 64 * 2 else 0))
  else none

/-- R161: the bytes of a source, 64 at a time, each read at its home for process k; or the fault. -/
def fillBytes (ea : Word) : Nat → Mach → Except (Trap × Mach) (List Byte × Mach)
  | 0, s => .ok ([], s)
  | n + 1, s => match s.fetchBytes ea 64 64 with
    | .ok (bs, s) => (fillBytes (ea + 64) n s).map fun r => (bs ++ r.1, r.2)
    | .error (t, s) => .error ({ t with value := ea }, s)

/-- R161 step 6: is every byte of a global source in a watched range, none of it host-shared (R282). -/
def Mach.allWatched (s : Mach) (ten : Option Nat) (va n : Nat) : Bool := match ten.bind s.tenant with
  | none => false
  | some t => (pageStarts va n).all fun b => ((t.entryAt b).map fun e => e.watched && !e.host).getD true

/-- R161: a fill's bytes, read for the process that issued it, with the check of a bank header. DEDUCED: log entry 34. -/
def Mach.fillSource (s : Mach) (r : Resid) : Except (Trap × Mach) (List Byte × Mach) :=
  let s := s.select r.filler
  if r.bank && !isGlobal r.watch then .error (memTrap 0x06 0x08 r.watch, s)
  else if isGlobal r.watch && !s.allWatched (some r.tenant) (bitsAt r.watch.toNat 0 48) r.size then
    .error (memTrap 0x06 0x09 r.watch, s)
  else match fillBytes r.watch (r.size / 64) s with
    | .error e => .error e
    | .ok (bs, s) =>
      if r.bank && !(((bankImage (natOfBytes (bs.take 64))).map fun n => decide (n ≤ r.size)).getD false) then
        .error (memTrap 0x1C 0 r.watch, s)
      else .ok (bs, s)

/-- R161: the counter add of a fill, for the process that issued it, where the counter still passes the checks of a wait. -/
def Mach.addOne (s : Mach) (y : Nat × Word) : Mach := s.within y.1 fun m =>
  match (do m.addCounter (← m.counterAt y.2 false) y.2 1 : Try Mach) with
  | .ok m => m
  | .error _ => m

def Mach.addOnes (s : Mach) (l : List (Nat × Word)) : Mach := l.foldl Mach.addOne s

/-- The adds that a fill owes: those of the fills that it put an end to, and its own. -/
def Resid.owed (r : Resid) : List (Nat × Word) := r.lost ++ r.fillCtr.toList.map fun a => (r.filler, a)

/-- The copy-fault entry of a fill, in the context that issued it. -/
def Mach.endFill (s : Mach) (r : Resid) (t : Option Trap) : Mach := match r.fill with
  | none => s
  | some key =>
    let c := s.ctxOf r.filler
    let faults := match t with
      | none => c.faults.filter fun f => f.key != key
      | some t => c.faults.map fun f =>
          if f.key == key then { f with live := false, cause := t.cause, reason := t.reason, addr := t.value } else f
    s.setCtxOf r.filler { c with faults := faults }

/-- R161, R164: a fill or a reload has written every byte: ready, or stale where a mark fell; a fill records its source. -/
def Mach.fillDone (s : Mach) (i : Nat) (r : Resid) (bs : List Byte) : Mach :=
  let s := s.put r.base bs
  let s := if r.bank then { s with rowUses := s.rowUses + 1 } else s
  let s := (s.endFill r none).addOnes r.owed
  s.setResid i fun r =>
    { r with source := r.watch, global := isGlobal r.watch, state := if r.marked then .stale else .ready, marked := false, fill := none, fillCtr := none, lost := [], reload := false }

/-- R161: a fault of a fill or a reload leaves the residency empty; an abandoned fill's counter still gets its add. DESIGN CHOICE: log entry 22. -/
def Mach.fillFailed (s : Mach) (i : Nat) (r : Resid) (t : Trap) : Mach :=
  let s := (s.endFill r (some t)).addOnes r.lost
  s.setResid i fun r => { r with state := .empty, marked := false, fill := none, fillCtr := none, lost := [], reload := false }

/-- R161: the end of residency r's fill (`reload`: of its reload), where it ends well (`ok`) or in a fault. -/
def Mach.endLoad (s : Mach) (i : Nat) (reload : Bool) (wantOk wantBad : Bool) : Mach :=
  match s.resids[i]? with
  | none => s
  | some r =>
    if r.state = .loading && r.reload == reload then
      match s.fillSource r with
      | .ok (bs, s') => if wantOk then (s'.fillDone i r bs).tock else s
      | .error (t, s') => if wantBad then (s'.fillFailed i r t).tock else s
    else s

def execResidencyFillComplete (r : Nat) (s : State) : Host.Outcome State Fault Refusal :=
  .next { s with toMach := s.toMach.endLoad r false true false }
def execResidencyFillFault (r : Nat) (s : State) : Host.Outcome State Fault Refusal :=
  .next { s with toMach := s.toMach.endLoad r false false true }
def execResidencyReloadComplete (r : Nat) (s : State) : Host.Outcome State Fault Refusal :=
  .next { s with toMach := s.toMach.endLoad r true true true }

/-- A fill in progress is given up; its counter is kept for its add. -/
def Mach.abandon (s : Mach) (i : Nat) (r : Resid) : Mach :=
  (s.endFill r none).setResid i fun r => { r with lost := r.owed, fill := none, fillCtr := none }

def rsload (x : F2) (s : Mach) : Try Done := do
  s.matrixOn
  let (i, r) ← s.liveResid (s.g x.dN) 1
  let a := s.g x.aN
  if r.bank && !isGlobal a then raise (memTrap 0x06 0x08 a)
  if a.toNat % 64 ≠ 0 then raise (memTrap 0x03 0 a)
  let _ ← s.resolve a r.size true false
  if isGlobal a && !s.allWatched s.tenantNo (bitsAt a.toNat 0 48) r.size then raise (memTrap 0x06 0x09 a)
  if x.w then
    let _ ← s.counterAt (s.g x.eN) false
  s.needEntry
  let s ← s.release
  let s := if r.state = .loading then s.abandon i r else s
  let (key, s) := s.takeKey
  let ctr := if x.w then some (s.g x.eN) else none
  let entry : CopyFault := { key := key, live := true, ctr := ctr, desc := BitVec.ofNat 64 (Config.fillRef s.ctx.freeKey), handle := some r.handle }
  let s := s.setResid i fun r =>
    { r with state := .loading, load := a, filler := s.self, fill := some key, fillCtr := ctr, marked := false, reload := false }
  .ok { m := { s with ctx := { s.ctx with faults := s.ctx.faults ++ [entry] } } }

def execRsload (x : F2) (s : State) : Host.Outcome State Fault Refusal := chain x.len s (rsload x)

/-! Pinning, queries, revocation (R169, R171, R172). -/

def setPin (pin : Bool) (x : F2) (s : Mach) : Try Done := do
  s.matrixOn
  let (i, _) ← s.liveResid (s.g x.aN) 2
  .ok { m := s.setResid i fun r => { r with pinned := pin } }

def execRspin (x : F2) (s : State) : Host.Outcome State Fault Refusal := chain x.len s (setPin true x)
def execRsunpin (x : F2) (s : State) : Host.Outcome State Fault Refusal := chain x.len s (setPin false x)

def ResState.code : ResState → Nat
  | .empty => 0
  | .loading => 1
  | .ready => 2
  | .evicted => 3
  | .stale => 4
  | .revoked => 5

def rsq (x : F2) (s : Mach) : Try Done := do
  s.matrixOn
  checkHandle (s.g x.aN)
  let v := match s.myResid (s.g x.aN) with
    | some (_, r) => r.mib * 2 ^ 32 + r.global.toNat * 32 + r.refresh.toNat * 16 + r.pinned.toNat * 8 + r.state.code
    | none => 5
  .ok { m := s.setG x.dN (BitVec.ofNat 64 v) }

def execRsq (x : F2) (s : State) : Host.Outcome State Fault Refusal := chain x.len s (rsq x)

/-- R171: revocation: a fill is given up and its counter gets its add, the bytes are zeroed with their poison, the handle
names nothing. -/
def Mach.revoke (s : Mach) (i : Nat) : Mach := match s.resids[i]? with
  | none => s
  | some r =>
    if r.state = .revoked then s else
    let s := if r.state = .loading then (s.endFill r none).addOnes r.owed else s
    let s := if r.noSlot then s else
      { s with
        mem := Mem.clear s.mem r.base r.size
        bad := s.bad.filter fun u => u < r.base || r.base + r.size ≤ u }
    s.setResid i fun r =>
      { r with state := .revoked, fill := none, fillCtr := none, lost := [], marked := false, reload := false, pinned := false }

def rsrev (x : F2) (s : Mach) : Try Done := do
  s.matrixOn
  checkHandle (s.g x.aN)
  match s.myResid (s.g x.aN) with
  | some (i, _) => .ok { m := s.revoke i }
  | none => .ok { m := s }

def execRsrev (x : F2) (s : State) : Host.Outcome State Fault Refusal := chain x.len s (rsrev x)

/-! The residency check (R164). -/

/-- What the check finds: go on, wait, start a reload and wait, or a trap. -/
inductive Checked where
  | go (i : Nat) (r : Resid)
  | wait
  | reload (i : Nat)
  | fail (t : Trap)
  deriving DecidableEq, Repr

/-- R164 for process k of a tenant: `tile` is the user's for an array residency. A live handle of the other kind, of which R164 says
nothing, is stale like one of another tile. DESIGN CHOICE: log entry 133. -/
def Mach.checkResid (s : Mach) (k : Nat) (ten tile : Option Nat) (bank : Bool) (w : Word) (opnd : Nat) : Checked :=
  match s.residOf k ten w with
  | none => .fail (staleTrap 0x02 opnd w)
  | some (i, r) =>
    if r.bank != bank || (!bank && !r.noSlot && some r.spot != tile) then .fail (staleTrap 0x02 opnd w)
    else match r.state with
      | .loading => .wait
      | .empty => .fail (staleTrap 0x03 opnd w)
      | .evicted => if r.global then .reload i
          else .fail { cause := 0x0D, reason := 0x01, opnd := opnd, value := w, ref := w.toNat }
      | .stale => if r.refresh then .reload i else .fail (staleTrap 0x01 opnd w)
      | .ready => .go i r
      | .revoked => .fail (staleTrap 0x02 opnd w)

/-- R164: a reload from the recorded source starts for process k. -/
def Mach.startReload (s : Mach) (i k : Nat) : Mach :=
  s.setResid i fun r => { r with state := .loading, reload := true, filler := k, marked := false }

/-- R189: the fault of a fill without a counter is delivered by the first use of the residency. -/
def Ctx.clearFill (c : Ctx) (w : Word) : Ctx :=
  { c with faults := c.faults.filter fun f => f.live || f.ctr.isSome || f.handle != some w.toNat }

/-- R165: the check of `mres`. -/
def Mach.useArray (s : Mach) (w : Word) : Try Resid :=
  match s.checkResid s.self s.tenantNo (some s.here) false w 3 with
  | .go _ r => .ok r
  | .wait => engineWait s
  | .reload i => engineWait (s.startReload i s.self)
  | .fail t => .error (.trapIn t (if t.reason = 0x03 then { s with ctx := s.ctx.clearFill w } else s))

/-- R165, R162: `mres`. DEDUCED: log entry 16. -/
def mres (x : F2) (s : Mach) : Try Done := do
  s.matrixOn 1
  s.checkZ x.dN 1
  let f ← s.needFmt matrixFmt
  let fp4 := f == .fp4
  if fp4 && x.aN % 2 = 1 then illegal 0x0B (BitVec.ofNat 64 x.aN) 2
  if !x.w then illegal 0x0C s.unstated
  let h := s.g x.eN
  checkHandle h
  let b := x.u % 64
  if (if fp4 then 2 ^ 11 else 2 ^ 6) ≤ x.u || (fp4 && 51 ≤ b) then illegal 0x0C (BitVec.ofNat 64 x.u)
  let ops : List VOp := [{ pos := 1, reg := x.aN, n := if fp4 then 2 else 1, src := true, dst := false, anew := some 8 }]
  s.cleanGov x.pre
  let v ← s.sources ops f.width
  s.cleanZ x.dN 1 (s.enabledPairs x.pre)
  let r ← s.useArray h
  let n := if fp4 then 640 else 512
  if s.poisoned (r.base + n * b) n then raise { cause := 0x16, reason := 0x07, opnd := 3, value := h, ref := h.toNat }
  let blk := Mem.nat s.mem (r.base + n * b) n
  let a := (v[x.aN]?.getD 0).toNat
  let sc := if fp4 then (v[x.aN + 1]?.getD 0).toNat else 0
  let beta := (s.g (x.u / 64 % 32)).toNat % 2 ^ 16
  let (img, fls) := s.outer x.pre f x.dN a (blk % 2 ^ 4096) sc (blk / 2 ^ 4096) beta false
  let s ← s.recordFlags fls
  let s ← s.commitRegs ops []
  .ok { m := { s with ctx := s.ctx.setZ x.dN img false }.matHead (arrayCycles f s.ctx.slc) ((32 + x.dN) :: ops.flatMap VOp.regs) [32 + x.dN] }

def execMres (x : F2) (s : State) : Host.Outcome State Fault Refusal := chain x.len s (mres x)

/-! Bank residencies (R166, R167). -/

def mresv (x : F2) (s : Mach) : Try Done := do
  s.matrixOn
  let f ← s.needFmt fun f => f == .bf16 || f == .fp8e4 || f == .fp8e5
  let ops := [s.vop f.width 1 x.aN true false]
  checkGroups s.ctx.grp ops
  if !x.w then illegal 0x0C s.unstated
  let h := s.g x.eN
  checkHandle h
  s.cleanGov x.pre
  let st := s.ctx.stream (x.dN - 24)
  if !(s.ctx.streamOn x.dN && !st.sink && st.kind == .reply) then
    raise { cause := 0x08, reason := 0x01, opnd := 1, value := BitVec.ofNat 64 x.dN }
  let v ← s.sources ops f.width
  if 8 ≤ (s.nears.filter fun n => n.proc == s.self).length then engineWait s
  let n := s.ctx.vl
  let xs := ((s.mask x.pre n).zip (readElems v x.aN f.width n)).map fun (p, a) => if p then some a else none
  let s ← s.commitRegs ops []
  let (key, s) := s.takeKey
  .ok { m := { s with nears := s.nears ++
    [{ key := key, proc := s.self, handle := h.toNat, panel := x.u, fmt := s.ctx.fmtCode, xs := xs }] } }

def execMresv (x : F2) (s : State) : Host.Outcome State Fault Refusal := chain x.len s (mresv x)

/-- R163: the header of the image that a bank residency holds. -/
structure BankHead where
  wfmt   : Nat
  rows   : Nat
  panels : Nat
  deriving DecidableEq, Repr

def Mach.bankHead (s : Mach) (r : Resid) : BankHead :=
  { wfmt := Mem.nat s.mem r.base 1, rows := Mem.nat s.mem (r.base + 4) 4, panels := Mem.nat s.mem (r.base + 8) 4 }

/-- R163: where the chunk of panel p, server c, row i lies. -/
def BankHead.chunkAt (h : BankHead) (p c i : Nat) : Nat := 64 + ((p * 128 + c) * h.rows + i) * chunkBytes h.wfmt
def BankHead.bandAt (h : BankHead) (i : Nat) : Nat := 64 + h.panels * 128 * h.rows * chunkBytes h.wfmt + 2 * (i / 64)

/-- R166: weight j of a chunk, exactly: code × block scale × band scale for fp4. -/
def weightOf (wfmt chunk band j : Nat) : Fl := match wfmt with
  | 5 => match decodeF .fp4 (bitsAt chunk (4 * j) 4), decodeF .bf16 band with
    | .num c, .num b => .num ((c.mul (scaleFx (bitsAt chunk 32 8))).mul b)
    | _, _ => .nan false
  | 6 => decodeF .fp8e4 (bitsAt chunk (8 * j) 8)
  | 7 => decodeF .fp8e5 (bitsAt chunk (8 * j) 8)
  | _ => decodeF .bf16 (bitsAt chunk (16 * j) 16)

/-- R166: what server c adds up for row i: the present columns in ascending order. -/
def serverSum (wfmt chunk band : Nat) (f : Fmt) (xs : List (Option Nat)) (c : Nat) : Nat × Nat :=
  (List.range 8).foldl (fun acc j => match (xs[8 * c + j]?).join with
    | some a =>
      let p := (round32 (fMul (weightOf wfmt chunk band j) (decodeF f a))).1
      let (s, e, _) := compAdd acc.1 acc.2 p
      (s, e)
    | none => acc) (0, 0)

/-- R166: y of row i. -/
def rowResult (chunk : Nat → Nat) (wfmt band : Nat) (f : Fmt) (xs : List (Option Nat)) : Nat :=
  let (s, e) := (List.range 128).foldl (fun acc c =>
    let (sc, ec) := serverSum wfmt (chunk c) band f xs c
    let (s, e, _) := compAdd acc.1 acc.2 sc
    (s, (add32 e ec).1)) (0, 0)
  (add32 s e).1

def Mach.panelResults (s : Mach) (r : Resid) (h : BankHead) (p : Nat) (f : Fmt) (xs : List (Option Nat)) : List Nat :=
  (List.range h.rows).map fun i =>
    rowResult (fun c => Mem.nat s.mem (r.base + h.chunkAt p c i) (chunkBytes h.wfmt)) h.wfmt
      (Mem.nat s.mem (r.base + h.bandAt i) 2) f xs

/-- R166: the reply tokens. -/
def replyTokens (ys : List Nat) : List Reply :=
  (pieces (ys.length / 128 + 1) 128 ys).map fun l => { fault := none, data := BitVec.ofNat 4096 (pack 32 l) }

/-- R167: the answer of a request whose check or panel fails: the first token carries the fault. -/
def faultToken (t : Trap) : List Reply := [{ fault := some t, data := 0 }]

/-- R167: the gate serves a request, waits, or starts a reload. -/
def Mach.gateStep (s : Mach) (n : NearReq) : Mach :=
  let w : Word := BitVec.ofNat 64 n.handle
  let ten := (s.proc n.proc).bind fun p => (s.net p.net).map (·.tenant)
  let answer (s : Mach) (l : List Reply) : Mach :=
    { s with nears := s.nears.map fun y => if y.key == n.key then { y with reply := some l } else y }
  match s.checkResid n.proc ten none true w 3 with
  | .wait => s
  | .reload i => s.startReload i n.proc
  | .fail t =>
    let s := if t.reason = 0x03 then s.setCtxOf n.proc ((s.ctxOf n.proc).clearFill w) else s
    answer s (faultToken t)
  | .go _ r =>
    let h := s.bankHead r
    let f := (Fmt.ofCode n.fmt).getD .bf16
    if h.panels ≤ n.panel then
      answer s (faultToken { cause := 0x08, reason := 0x09, opnd := 3, value := s.unstated, ref := n.handle })
    else
      let from0 := r.base + h.chunkAt n.panel 0 0
      if s.poisoned from0 (128 * h.rows * chunkBytes h.wfmt) ||
          (h.wfmt == 5 && s.poisoned (r.base + h.bandAt 0) ((h.rows + 63) / 64 * 2)) then
        answer s (faultToken { cause := 0x16, reason := 0x07, opnd := 3, value := w, ref := n.handle })
      else answer s (replyTokens (s.panelResults r h n.panel f n.xs))

def execNearBankRequest (k : Nat) (s : State) : Host.Outcome State Fault Refusal :=
  match s.toMach.nears.find? fun n => n.key == k with
  | some n => if n.reply.isNone then .next { s with toMach := (s.toMach.gateStep n).tock } else .next s
  | none => .next s

/-- R166: a reply token of the context's oldest request arrives on its near-bank stream. -/
def execNearBankReply (k : Nat) (s : State) : Host.Outcome State Fault Refusal :=
  let m := s.toMach
  match m.nears.find? fun n => n.key == k with
  | none => .next s
  | some n =>
    if (m.nears.find? fun y => y.proc == n.proc).map (·.key) != some k then .next s
    else match n.reply with
      | none => .next s
      | some [] => .next { s with toMach := { m with nears := m.nears.filter fun y => y.key != k }.tock }
      | some (t :: r) =>
        let c := m.ctxOf n.proc
        let m := m.setCtxOf n.proc { c with replies := c.replies ++ [t] }
        let nears := if r.isEmpty then m.nears.filter fun y => y.key != k
          else m.nears.map fun y => if y.key == k then { y with reply := some r } else y
        .next { s with toMach := { m with nears := nears }.tock }

/-- R168: the mark of residency r for the write k that is on its way to a server. -/
def execResidencyStaleMark (r k : Nat) (s : State) : Host.Outcome State Fault Refusal :=
  let m := s.toMach
  match m.resids[r]?, m.reqs.find? fun (q : Req) => q.key == k with
  | some x, some q =>
    if (q.stage == .issued || q.stage == .gateway) && !q.host && q.written.any fun a => m.overlaps x a 1 then
      .next { s with toMach := (m.setResid r Resid.mark).tock }
    else .next s
  | _, _ => .next s

end Sys2Proof.Machine
end

