-- ==== Sys2Proof/Machine/Stream.lean ====
section
/-! DEFINITION. Stream mode (R174 to R178) with the fetches of pattern streams, and the slide-and-refill windows (R179,
R180). -/

namespace Sys2Proof.Machine

/-! Stream mode. -/

/-- R175: the fields of a stream descriptor: kind, direction and id, where it breaks no rule. -/
def streamDesc (w : Word) : Option (SKind × Bool × Nat) :=
  let x := w.toNat
  let dir := bitsAt x 0 2
  let id := bitsAt x 32 24
  let sink := dir == 2
  if bitsAt x 56 8 ≠ 0 || bitsAt x 4 28 ≠ 0 || (dir != 1 && dir != 2) then none
  else match bitsAt x 2 2 with
    | 0 => if id < 2 ^ 18 then some (.chan, sink, id) else none
    | 1 => if id % 64 = 0 && !sink then some (.pattern, sink, id) else none
    | 2 => if id = 0 && !sink then some (.reply, sink, id) else none
    | _ => none

/-- R177, R183 steps 1 to 3: the pattern block, checked as a copy checks its descriptor. -/
def Mach.patternBlock (s : Mach) (off : Nat) : Try Nat := do
  let a : Word := BitVec.ofNat 64 off
  let key ← s.ownLocal a 64 256 true false
  s.clean key 256 a
  let d := s.readNat a key 256
  if !copyFields d 0 then illegal 0x0C a 5
  copyChecksAlign d 0
  .ok d

/-- Register v(24 + j) with its stream state: the register reads zero. -/
def Mach.setStreamReg (s : Mach) (r : Nat) (x : Stream) : Mach :=
  { s with ctx := { s.ctx.setStream (r - 24) x with v := s.ctx.v.setIfInBounds r 0, vBad := s.ctx.vBad.setIfInBounds r 0 } }

/-- DEDUCED: log entry 32. -/
def sset (x : F2) (s : Mach) : Try Done := do
  let w := s.g x.aN
  let fail : Try Done := raise { cause := 0x08, reason := 0x03, opnd := 2, value := w }
  match streamDesc w with
  | none => fail
  | some (kind, sink, id) =>
    if s.ctx.streamOn x.dN then fail
    else match kind with
      | .chan =>
        if !s.mayBindChan id sink true || s.ctx.boundV id sink || s.ctx.boundQ { kind := .chan, write := sink, id := id } then fail
        else .ok { m := s.setStreamReg x.dN { on := true, sink := sink, kind := .chan, desc := w } }
      | .pattern =>
        let d ← s.patternBlock id
        let s ← s.release
        .ok { m := s.setStreamReg x.dN { on := true, kind := .pattern, desc := w, block := BitVec.ofNat 2048 d } }
      | .reply => .ok { m := s.setStreamReg x.dN { on := true, kind := .reply, desc := w } }

def execSset (x : F2) (s : State) : Host.Outcome State Fault Refusal := chain x.len s (sset x)

/-- R178: the register returns to ordinary mode. -/
def stopStream (r : Nat) (s : Mach) : Try Done :=
  let y := s.ctx.stream (r - 24)
  if !s.ctx.streamOn r then .ok { m := s }
  else if y.kind == .reply then
    if s.nears.any fun n => n.proc == s.self then engineWait s
    else .ok { m := { s with ctx := { s.ctx with replies := [] } }.setStreamReg r {} }
  else .ok { m := s.setStreamReg r {} }

def execSstop (x : F2) (s : State) : Host.Outcome State Fault Refusal := chain x.len s (stopStream x.dN)

def stopClose (r : Nat) (s : Mach) : Try Done :=
  let y := s.ctx.stream (r - 24)
  if !(s.ctx.sinkOn r && y.kind == .chan) then
    raise { cause := 0x08, reason := 0x05, opnd := 1, value := BitVec.ofNat 64 r }
  else do
    let s ← pushTok y.chanId .eos (closedTrap 1 y.chanId) s
    stopStream r s

def execSstopClose (x : F2) (s : State) : Host.Outcome State Fault Refusal := chain x.len s (stopClose x.dN)

/-! Pattern streams (R177). -/

/-- Elements lo up to lo + n - 1 of a pattern, read; the first that fails turns the token into a faulted one. -/
def Mach.patternBytes (s : Mach) (d : Nat) : Nat → Nat → Except (Trap × Mach) (List Byte × Mach)
  | _, 0 => .ok ([], s)
  | lo, n + 1 =>
    let ea := (copyAddrs d lo (indices d (copyDims d) lo |>.headD 0)).1
    let size := copySize d
    match s.fetchBytes ea size (min size 8) with
    | .ok (bs, s) => (s.patternBytes d (lo + 1) n).map fun r => (bs ++ r.1, r.2)
    | .error (t, s) => .error ({ cause := 0x1C, reason := t.cause, value := ea, ref := Config.unstatedRef s.ctx.freeKey }, s)

/-- The token after those fetched. -/
def Mach.patternToken (s : Mach) (d t : Nat) : Tok × Mach :=
  let per := 512 / copySize d
  let left := copyCount d - per * t
  if copyCount d ≤ per * t then (.eos, s)
  else match s.patternBytes d (per * t) (min per left) with
    | .ok (bs, s) => (.vector (BitVec.ofNat 4096 (natOfBytes bs)), s)
    | .error (f, s) => (.fault f, s)

/-- R177: may another token be fetched: at most four ahead, none after the end or after a fault. -/
def Stream.wants (x : Stream) : Bool :=
  x.on && x.kind == .pattern && x.ahead.length < 4 && (match x.ahead.getLast? with
    | some (.vector _) => true
    | none => true
    | _ => false)

def execPatternTokenFetch (proc j : Nat) (s : State) : Host.Outcome State Fault Refusal :=
  if (s.toMach.ctxOf proc).stream j |>.wants then
    let m := s.toMach.select proc
    let x := m.ctx.stream j
    let (t, m) := m.patternToken x.block.toNat (x.pos + x.ahead.length)
    .next { s with toMach := { m with ctx := m.ctx.setStream j { x with ahead := x.ahead ++ [t] } }.tock }
  else .next s

/-! Slide-and-refill windows. -/

/-- R179: is a configuration in range. -/
def slideOk (d : Nat) : Bool :=
  let w := fieldAt d 24 4
  let h := fieldAt d 28 4
  let n := fieldAt d 32 4
  let es := fieldAt d 36 1
  let kh := fieldAt d 37 1
  let sc := fieldAt d 38 1
  1 ≤ w && w ≤ 65536 && 1 ≤ h && h ≤ 65536 && 1 ≤ n && n ≤ 65536 && es ≤ 3 && 1 ≤ kh && kh ≤ 8 && 1 ≤ sc && sc ≤ 16 &&
  fieldAt d 39 1 == 0 && fieldAt d 40 8 < 2 ^ (8 * 2 ^ es) && fieldAt d 48 16 == 0

def slideConfig (x : F2) (s : Mach) : Try Done := do
  let a := s.g x.aN
  let key ← s.ownLocal a 64 64 true false
  s.clean key 64 a
  let d := s.readNat a key 64
  if !slideOk d then illegal 0x0C a 5
  .ok { m := { s with ctx := { s.ctx with slide := some (BitVec.ofNat 512 d) } } }

def execVslrcfg (x : F2) (s : State) : Host.Outcome State Fault Refusal := chain x.len s (slideConfig x)

/-- R180: is image element (n, y, x) in the image, and where it lies. -/
def inImage (d : Nat) (n : Nat) (y x : Int) : Bool :=
  0 ≤ x && x < (fieldAt d 24 4 : Nat) && 0 ≤ y && y < (fieldAt d 28 4 : Nat) && n < fieldAt d 32 4

def imageAddr (d : Nat) (n : Nat) (y x : Int) : Word :=
  BitVec.ofInt 64 ((fieldAt d 0 8 : Nat) + (n : Int) * (fieldAt d 16 8 : Nat) + y * (fieldAt d 8 8 : Nat) +
    x * (2 ^ fieldAt d 36 1 : Nat))

/-- R180, R144: the check of a fetched element, in any space. -/
def Mach.slideSpot (s : Mach) (n : Nat) (ea : Word) (elem : Nat) : Try Spot := do
  checkAligned ea n elem
  let x ← s.resolve ea n true false elem
  if x.tile.isSome then s.clean x.key n ea elem
  .ok x

/-- R180. DEDUCED: log entry 91. -/
def slide (x : F2) (full : Bool) (s : Mach) : Try Done := do
  match s.ctx.slide with
  | none => illegal 0x0C s.unstated
  | some cfg =>
    let d := cfg.toNat
    let kh := fieldAt d 37 1
    let size := 2 ^ fieldAt d 36 1
    let ncol := 512 / size
    let sc := fieldAt d 38 1
    let pos := s.g x.aN
    if 31 < x.dN + kh - 1 then illegal 0x0B (BitVec.ofNat 64 x.dN) 1
    if (List.range kh).any fun r => s.ctx.streamOn (x.dN + r) then
      raise { cause := 0x08, reason := Config.unstatedReason s.ctx.freeKey, opnd := 1, value := BitVec.ofNat 64 x.dN }
    if bitsAt pos.toNat 48 16 ≠ 0 then illegal 0x0C pos
    let x0 := signed 16 (bitsAt pos.toNat 0 16) + (if full then 0 else (sc : Int))
    let y0 := signed 16 (bitsAt pos.toNat 16 16)
    let n := bitsAt pos.toNat 32 16
    if 32767 < x0 then illegal 0x0C pos
    let op : VOp := { pos := 0, reg := x.dN, n := kh, src := !full, dst := true, ew := some (8 * size) }
    s.cleanV [op] 8 [op]
    let cells := (List.range kh).flatMap fun r => (List.range ncol).map fun c => (r, c)
    let inside := fun (y : Nat × Nat) => inImage d n (y0 + y.1) (x0 + y.2)
    let adr := cells.filterMap fun y =>
      if (full || ncol - sc ≤ y.2) && inside y then some (y.1 * ncol + y.2, imageAddr d n (y0 + y.1) (x0 + y.2)) else none
    let s := s.drainFor adr
    let (es, _) ← elemSpots (s.slideSpot size) false adr []
    let (got, _, s) ← readAll size false es 0 [] s
    let row := fun (r : Nat) =>
      let old := elems (8 * size) ncol (s.ctx.vr (x.dN + r)).toNat
      (List.range ncol).map fun c =>
        if !full && c < ncol - sc then old[c + sc]?.getD 0
        else if inside (r, c) then ((got.find? fun y => y.1 == r * ncol + c).map (·.2)).getD 0
        else fieldAt d 40 8
    let img := pack 4096 ((List.range kh).map fun r => pack (8 * size) (row r))
    let s := s.writeV { reg := x.dN, n := kh, img := img, words := 2 ^ (64 * kh) - 1 }
    let s := if full then s else s.setG x.aN (pos &&& 0xFFFFFFFFFFFF0000 ||| BitVec.ofNat 64 (x0 % 65536).toNat)
    .ok { m := if x.w then s.setG x.eN (BitVec.ofNat 64 (cells.filter inside).length) else s }

def execVslr (x : F2) (s : State) : Host.Outcome State Fault Refusal :=
  chain x.len s (slide x (x.pre.sub == 1))

end Sys2Proof.Machine
end

