-- ==== Sys2Proof/Machine/Save.lean ====
section
/-! DEFINITION. The save record (R323, R324): how a context is written into it, the checks of R215, how a context is
taken back from it; and `ctxsave`, `ctxrest` (R213 to R215). -/

namespace Sys2Proof.Machine

/-! Writing a record. -/

def bytesOfWord (w : Word) : List Byte := bytesOfNat 8 w.toNat

/-- R120, R323: is vector register i named by a keep mask and not a stream register. -/
def Ctx.saves (c : Ctx) (keep : Byte) (i : Nat) : Bool := keep.getLsbD (i / 4) && !c.streamOn i

def Ctx.saved (c : Ctx) (keep : Byte) : List Nat := (List.range 32).filter (c.saves keep)

/-- R106: the descriptor that would bind a queue register; 0 for the fault channel. -/
def QBind.desc (b : QBind) : Word :=
  if b.fault then 0 else BitVec.ofNat 64 (b.id * 2 ^ 32 + b.kind.code * 4 + (if b.write then 2 else 1))

def scalarSection (c : Ctx) (pc : Nat) : List Byte :=
  bytesOfNat 8 pc ++ (List.range 32).flatMap (fun i => bytesOfWord (c.gr i)) ++
  (List.range 32).flatMap (fun i => bytesOfWord ((c.special i).getD 0)) ++
  (List.range 7).flatMap (fun i => bytesOfNat 128 (c.pr (i + 1)).toNat) ++
  bytesOfNat 16 c.rngKey.toNat ++ bytesOfNat 4 c.rngId.toNat ++ bytesOfNat 4 0 ++
  (List.range 64).flatMap fun n => bytesOfNat 2 (match c.fig n with
    | some w => 2 ^ 15 + w.toNat
    | none => 0)

def streamEntry (x : Stream) : List Byte :=
  bytesOfWord (if x.on then x.desc else 0) ++ bytesOfNat 8 x.pos ++ bytesOfNat 48 0 ++ bytesOfNat 256 x.block.toNat

/-- An entry of the copy-fault table; a fill without a counter shows all ones and its residency's handle. -/
def faultEntry (f : CopyFault) : List Byte :=
  bytesOfNat 8 ((f.ctr.map (·.toNat)).getD noCtr) ++ bytesOfNat 1 f.cause ++ bytesOfNat 1 f.reason ++ bytesOfNat 6 0 ++
  bytesOfWord f.addr ++ bytesOfNat 8 (if f.ctr.isSome then f.desc.toNat else f.handle.getD 0)

def TagKind.code : TagKind → Nat
  | .free => 0
  | .read => 1
  | .atomic => 2
  | .acked => 3
  | .held => 4
  | .waiting => 0

def tagEntry (t : Tag) : List Byte :=
  bytesOfNat 1 t.kind.code ++ bytesOfNat 1 t.cause ++ bytesOfNat 1 t.reason ++ bytesOfNat 5 0 ++ bytesOfWord t.value

def mqSection (m : Mq) : List Byte := bytesOfNat 8 m.seq ++ m.tags.toList.flatMap tagEntry

def trapEntry (t : Option Trap) : List Byte := match t with
  | some t => bytesOfNat 1 t.cause ++ bytesOfNat 1 t.reason ++ bytesOfNat 6 0 ++ bytesOfWord t.value
  | none => bytesOfNat 16 0

def Ctx.pendingAt (c : Ctx) (n : Nat) : Option Nat := (c.pending.find? fun p => p.1 == n).map (·.2)

def streamSection (c : Ctx) : List Byte :=
  padTo 4096 (c.streams.toList.flatMap streamEntry ++ bytesOfNat 64 ((c.slide.map (·.toNat)).getD 0) ++
    padTo 512 (c.faults.flatMap faultEntry) ++ mqSection c.mq0 ++ mqSection c.mq1 ++ trapEntry c.mq1Err ++
    bytesOfNat 8 (sumBelow 64 fun n => if (c.pendingAt n).isSome then 2 ^ n else 0) ++
    (List.range 64).flatMap (fun n => bytesOfNat 4 ((c.pendingAt n).getD 0)) ++ bytesOfNat 4 c.replies.length)

def replyEntry (r : Reply) : List Byte := match r.fault with
  | some t => bytesOfNat 1 t.cause ++ bytesOfNat 1 t.reason ++ bytesOfNat 2 0 ++ bytesOfNat 4 t.ref ++ bytesOfWord t.value ++ bytesOfNat 560 0
  | none => bytesOfNat 64 0 ++ bytesOfNat 512 r.data.toNat

/-- R323: the bytes of a record. -/
def recordLength (regs tiles replies : Nat) : Nat := 5888 + 512 * regs + 8192 * tiles + 576 * replies

def Ctx.tiles (c : Ctx) : Nat := c.mN

def headerSection (c : Ctx) (kind : Nat) (keep : Byte) : List Byte :=
  bytesOfNat 8 0x5452494553415645 ++ bytesOfNat 2 1 ++ bytesOfNat 2 c.vl ++ bytesOfNat 2 c.vtype.toNat ++ bytesOfNat 1 keep.toNat ++
  bytesOfNat 1 kind ++ bytesOfNat 4 0 ++ bytesOfNat 4 (sumBelow 32 fun i => if c.saves keep i then 2 ^ i else 0) ++
  bytesOfWord c.smode ++ bytesOfWord c.mstate ++ bytesOfWord c.lap ++ bytesOfWord c.rngctl ++
  bytesOfNat 4 (recordLength (c.saved keep).length c.tiles c.replies.length) ++ bytesOfNat 4 0

/-- R323, R324: the record of a context at a chain. DEDUCED: log entry 45. -/
def saveRecord (c : Ctx) (kind : Nat) (keep : Byte) (pc : Nat) : List Byte :=
  headerSection c kind keep ++ padTo 1600 (scalarSection c pc) ++
  (List.range 16).flatMap (fun i => bytesOfWord ((c.qb i).elim 0 QBind.desc)) ++ streamSection c ++
  (c.saved keep).flatMap (fun i => bytesOfNat 512 (c.vr i).toNat) ++
  (List.range c.tiles).flatMap (fun i => bytesOfNat 8192 (c.z[i]?.getD 0).toNat) ++ c.replies.flatMap replyEntry

def bitsSet (n x : Nat) : List Nat := (List.range n).filter fun i => x / 2 ^ i % 2 == 1

/-- Where the predicate registers lie in a record. -/
def predAt : Nat := 64 + 8 + 256 + 256

/-- R326: the offsets of the words that are poisoned in the registers. -/
def recordPoison (c : Ctx) (keep : Byte) : List Nat :=
  let regs := c.saved keep
  (List.range 7).flatMap (fun i => (bitsSet 16 (c.pBad[i + 1]?.getD 0).toNat).map fun j => predAt + 128 * i + 8 * j) ++
  ((List.range regs.length).zip regs).flatMap (fun (k, r) => (bitsSet 64 (c.vBad[r]?.getD 0).toNat).map fun j => 5888 + 512 * k + 8 * j) ++
  (List.range c.tiles).flatMap fun i =>
    (bitsSet 1024 (c.zBad[i]?.getD 0).toNat).map fun j => 5888 + 512 * regs.length + 8192 * i + 8 * j

/-! Reading a record. -/

/-- A record as read: its bytes as one number, its length, the offsets of the poisoned words. -/
structure Saved where
  bits : Nat
  len  : Nat
  bad  : List Nat
  deriving DecidableEq, Repr

def Saved.u (r : Saved) (o n : Nat) : Nat := fieldAt r.bits o n
def Saved.w (r : Saved) (o : Nat) : Word := BitVec.ofNat 64 (r.u o 8)

/-- Special register n in the record. -/
def Saved.special (r : Saved) (n : Nat) : Word := r.w (64 + 8 + 256 + 8 * n)
def Saved.keep (r : Saved) : Byte := BitVec.ofNat 8 (r.u 14 1)
def Saved.smode (r : Saved) : Nat := r.u 24 8
def Saved.regs (r : Saved) : List Nat := bitsSet 32 (r.u 20 4)
/-- mstate.n: the accumulator tiles that the record holds (R324). -/
def Saved.mN (r : Saved) : Nat := bitsAt (r.u 32 8) 1 6
def Saved.replies (r : Saved) : Nat := r.u (1792 + 3688) 4
def Saved.pc (r : Saved) : Nat := r.u 64 8

def Saved.queue (r : Saved) (i : Nat) : Word := r.w (1664 + 8 * i)
def Saved.stream (r : Saved) (j : Nat) : Word := r.w (1792 + 320 * j)

/-- R215 reason 0x07 for the queue registers: what each binds, or none where one may not. -/
def Mach.recordQueues (s : Mach) (sup : Bool) (r : Saved) : Option (List (Option QBind)) :=
  let qs := (List.range 16).map fun i =>
    if sup && i = 15 then (if r.queue i = 0 then some (some ({ kind := .chan, write := false, id := 0, fault := true } : QBind)) else none)
    else if r.queue i = 0 then some none
    else (s.binding (r.queue i)).map some
  if qs.all (·.isSome) then
    let bs := qs.filterMap (·.join)
    if bs.eraseDups.length = bs.length then some (qs.map (·.join)) else none
  else none

/-- R215 reason 0x07 for stream register j. -/
def Mach.streamFits (s : Mach) (r : Saved) (j : Nat) : Bool :=
  let w := r.stream j
  let on := bitsAt r.smode j 1 == 1
  if w = 0 then !on
  else match streamDesc w with
    | none => false
    | some (kind, sink, id) =>
      on && bitsAt r.smode (8 + j) 1 == sink.toNat && bitsAt r.smode (16 + 2 * j) 2 == kind.code &&
      (kind != .chan || s.mayBindChan id sink true) &&
      ((List.range 8).all fun k => k = j || r.stream k != w || kind != .chan)

/-- R215, R12: the first check that fails, for the selected process p; bits [63:48] of procid are reserved and ignored (R21). -/
def Mach.recordCheck (s : Mach) (p : Proc) (r : Saved) : Option Nat :=
  if r.u 0 8 ≠ 0x5452494553415645 || r.u 8 2 ≠ 1 || r.u 56 4 ≠ recordLength r.regs.length r.mN r.replies || r.len < r.u 56 4 then
    some 0x01
  else if r.u 16 2 ≠ 0 then some 0x02
  else if (List.range 32).any fun i =>
      (bitsAt (r.u 20 4) i 1 == 1) != (r.keep.getLsbD (i / 4) && !(24 ≤ i && bitsAt r.smode (i - 24) 1 == 1)) then some 0x03
  else if p.decl.allow < r.mN then some 0x04
  else if bitsAt (r.special 0x16).toNat 2 2 ≠ p.decl.tenant.toNat then some 0x05
  else if (r.special 0x07).toNat % 2 ^ 48 ≠ s.ctx.procid.toNat % 2 ^ 48 then some 0x06
  else if (s.recordQueues p.decl.sup r).isNone || !(List.range 8).all (s.streamFits r) then some 0x07
  else none

/-! Taking a context back. -/

def TagKind.ofCode : Nat → TagKind
  | 1 => .read
  | 2 => .atomic
  | 3 => .acked
  | 4 => .held
  | _ => .free

def Saved.mq (r : Saved) (o : Nat) : Mq :=
  { seq := r.u o 8
    tags := Vector.ofFn fun (t : Fin 8) =>
      let e := o + 8 + 16 * t.val
      { kind := TagKind.ofCode (r.u e 1), cause := r.u (e + 1) 1, reason := r.u (e + 2) 1, value := r.w (e + 8) } }

/-- R189: the copy-fault table; its entries belong to no copy in progress, and each has a key of its own. -/
def Saved.faults (r : Saved) (key : Nat) : List CopyFault := (List.range 16).filterMap fun i =>
  let o := 1792 + 2624 + 32 * i
  if r.u o 32 = 0 then none
  else if r.u o 8 = noCtr then
    some { key := 2 ^ 64 + i, live := false, ctr := none, cause := r.u (o + 8) 1, reason := r.u (o + 9) 1, addr := r.w (o + 16)
           desc := BitVec.ofNat 64 (Config.fillRef (key + i)), handle := some (r.u (o + 24) 8) }
  else some { key := 2 ^ 64 + i, live := false, ctr := some (r.w o), cause := r.u (o + 8) 1, reason := r.u (o + 9) 1, addr := r.w (o + 16)
              desc := r.w (o + 24) }

def Saved.streamState (r : Saved) (j : Nat) : Stream :=
  match streamDesc (r.stream j) with
  | none => {}
  | some (kind, sink, _) =>
    let o := 1792 + 320 * j
    { on := true, sink := sink, kind := kind, desc := r.stream j, pos := r.u (o + 8) 8, block := BitVec.ofNat 2048 (r.u (o + 64) 256) }

/-- Bit j of a poison mask over `n` words from an offset. -/
def Saved.mask (r : Saved) (o n : Nat) : Nat := sumBelow n fun j => if r.bad.contains (o + 8 * j) then 2 ^ j else 0

/-- R32, R120: register i, its place among the registers saved. -/
def Saved.regAt (r : Saved) (i : Nat) : Option Nat := (r.regs.idxOf? i).map fun k => 5888 + 512 * k

def Saved.tileAt (r : Saved) (i : Nat) : Nat := 5888 + 512 * r.regs.length + 8192 * i

def Saved.reply (r : Saved) (i : Nat) : Reply :=
  let o := r.tileAt r.mN + 576 * i
  if r.u o 1 = 0 then { fault := none, data := BitVec.ofNat 4096 (r.u (o + 64) 512) }
  else { fault := some { cause := r.u o 1, reason := r.u (o + 1) 1, ref := r.u (o + 4) 4, value := r.w (o + 8) }, data := 0 }

/-- R29: tinfo as it is held: bits [31:26] and [7] read zero. -/
def tinfoBits (w : Word) : Word := w &&& 0xFFFFFFFF03FFFF7F

/-- R322, R215: the context state that a record gives, over a context that keeps its placement, its network and its
quota. -/
def Saved.restore (r : Saved) (c : Ctx) (qs : List (Option QBind)) : Ctx :=
  let sp := r.special
  let vlmax := min (sp 0x02).toNat 1024
  { c with
    pc := BitVec.ofNat 24 r.pc
    far := if r.pc < 2 ^ 24 then none else some (BitVec.ofNat 64 r.pc)
    g := Vector.ofFn fun (i : Fin 32) => if i.val = 0 then 0 else r.w (64 + 8 + 8 * i.val)
    v := Vector.ofFn fun (i : Fin 32) => match r.regAt i.val with
      | some o => BitVec.ofNat 4096 (r.u o 512)
      | none => 0
    vBad := Vector.ofFn fun (i : Fin 32) => match r.regAt i.val with
      | some o => BitVec.ofNat 64 (r.mask o 64)
      | none => 0
    p := Vector.ofFn fun (i : Fin 8) => if i.val = 0 then 0 else BitVec.ofNat 1024 (r.u (predAt + 128 * (i.val - 1)) 128)
    pBad := Vector.ofFn fun (i : Fin 8) => if i.val = 0 then 0 else BitVec.ofNat 16 (r.mask (predAt + 128 * (i.val - 1)) 16)
    q := Vector.ofFn fun (i : Fin 16) => (qs[i.val]?).join
    fbuf := []
    vl := min (sp 0x00).toNat vlmax
    vtype := (sp 0x01).truncate 16
    vlmax := vlmax
    keep := (sp 0x03).truncate 8
    stripset := sp 0x04 &&& 0x1FFFFFFFFF
    share := (sp 0x05).truncate 4
    cycle := sp 0x08
    retired := sp 0x09
    lapLen := bitsAt (sp 0x0A).toNat 0 17
    lapPos := bitsAt (sp 0x0A).toNat 32 17
    rngctl := sp 0x0B
    rngKey := BitVec.ofNat 128 (r.u (predAt + 896) 16)
    rngId := BitVec.ofNat 32 (r.u (predAt + 912) 4)
    fpflags := (sp 0x0C).truncate 5
    fptrap := (sp 0x0D).truncate 5
    tcause := (sp 0x11).truncate 8
    tpc := sp 0x12 &&& 0xFFFFFFFFFFFFFFFE
    tval := sp 0x13
    tinfo := tinfoBits (sp 0x14)
    tvec := sp 0x15 &&& 0xFFFFFFFFFFFFFFFE
    act := (sp 0x16).getLsbD 0
    tdeleg := tdelegBits (sp 0x17)
    win := Vector.ofFn fun (i : Fin 4) => windowBits i.val (sp (0x18 + i.val))
    part := (sp 0x1C).truncate 4
    figs := Vector.ofFn fun (i : Fin 64) =>
      let h := r.u (predAt + 920 + 2 * i.val) 2
      if h / 2 ^ 15 = 1 then some (BitVec.ofNat 12 h) else none
    replay := (sp 0x1E).getLsbD 32
    seedSeq := (sp 0x1E).truncate 32
    dgOn := (sp 0x1F).getLsbD 0
    dgDone := (sp 0x1F).getLsbD 1
    mOn := r.u 32 8 % 2 == 1
    mN := r.mN
    mAllow := bitsAt (r.u 32 8) 8 8
    z := Vector.ofFn fun (i : Fin 32) => if i.val < r.mN then BitVec.ofNat 65536 (r.u (r.tileAt i.val) 8192) else 0
    zBad := Vector.ofFn fun (i : Fin 32) => if i.val < r.mN then BitVec.ofNat 1024 (r.mask (r.tileAt i.val) 1024) else 0
    streams := Vector.ofFn fun (j : Fin 8) => r.streamState j.val
    slide := if r.u (1792 + 2560) 64 = 0 then none else some (BitVec.ofNat 512 (r.u (1792 + 2560) 64))
    faults := r.faults (c.freeKey * 16)
    mq0 := r.mq (1792 + 3136)
    mq1 := r.mq (1792 + 3272)
    mq1Err := if r.u (1792 + 3408) 1 = 0 then none
      else some (memTrap (r.u (1792 + 3408) 1) (r.u (1792 + 3409) 1) (r.w (1792 + 3416)))
    pending := (List.range 64).filterMap fun n =>
      if bitsAt (r.u (1792 + 3424) 8) n 1 = 1 then some (n, r.u (1792 + 3432 + 4 * n) 4) else none
    replies := (List.range r.replies).map r.reply }

/-! What must be over before a context is recorded. -/

/-- R282: an answered read of host memory that the waiting chain has still to consume. -/
def Req.unread (r : Req) : Bool := r.host && r.tag.isNone && r.replies && r.stage == .answered

/-- R190: every copy, fill, packet request, other request and `mresv` request of process k has completed or faulted, and
its arrivals at barriers are counted. DEDUCED: log entry 46. -/
def Mach.settled (s : Mach) (k : Nat) : Bool :=
  s.copies.all (fun c => c.proc != k) && s.reqs.all (fun r => r.proc != k || r.unread) && s.tileReqs.all (fun r => r.proc != k) &&
  s.nears.all (fun n => n.proc != k) && s.resids.all (fun r => r.state != .loading || r.filler != k) &&
  match (s.proc k).bind fun p => s.net p.net with
  | some x => x.bars.all fun b => b.flight.all fun f => f.1 != k
  | none => true

/-! `ctxsave` and `ctxrest`. -/

/-- R213: the process of the issuer's network that g(a) names. -/
def Mach.parkedTarget (s : Mach) (x : F2) : Try Nat :=
  let a := s.g x.aN
  match if a.toNat / 2 ^ 16 ≠ 0 then none else s.curNetNo.bind fun n => s.procAt n a.toNat with
  | some k => .ok k
  | none => illegal 0x0C a 2

def Mach.isParked (s : Mach) (k : Nat) : Bool := (s.proc k).map (·.st) == some .parked

/-- Poison put into the words of a record that lies at the given homes of 64 bytes. -/
def Mach.poisonRecord (s : Mach) (homes : List Spot) (offs : List Nat) : Mach :=
  offs.foldl (fun m o => match homes[o / 64]? with
    | some x => m.poison (x.key + o % 64)
    | none => m) s

/-- A misaligned record traps before a process that is not parked is answered with −1. DESIGN CHOICE: log entry 134. -/
def ctxsave (x : F2) (s : Mach) : Try Done := do
  needTenant s
  if !x.w then illegal 0x0C s.unstated
  let k ← s.parkedTarget x
  let a := s.g x.eN
  if a.toNat % 64 ≠ 0 then raise (memTrap 0x03 0 a)
  if !s.isParked k then .ok { m := s.setG x.dN (BitVec.allOnes 64) }
  else
    let c := s.ctxOf k
    let n := recordLength (c.saved 0xFF).length c.tiles c.replies.length
    let homes ← s.homes a n 64 false true
    if !s.settled k then engineWait s
    let s ← s.release
    let s ← s.engineWrite a (joinSpots 64 homes) (saveRecord c 3 0xFF (((s.proc k).map (·.park)).getD 0))
    .ok { m := (s.poisonRecord homes (recordPoison c 0xFF)).setG x.dN (BitVec.ofNat 64 n) }

def execCtxsave (x : F2) (s : State) : Host.Outcome State Fault Refusal := chain x.len s (ctxsave x)

/-- Where the words of a record lie that a restore takes back poisoned. -/
def inRegisters (o : Nat) : Bool := 5888 ≤ o || (predAt ≤ o && o < predAt + 896)

/-- n bytes of a record read at their homes; poison outside the registers is consumed. -/
def Mach.readRecord (s : Mach) (a : Word) (n : Nat) : Try (Saved × Mach) := do
  let homes ← s.homes a n 64 true false
  homes.foldlM (fun () x => s.hostPath x a) ()
  let m := homes.foldl (fun m x => m.countRead x 64) s
  let bad := if s.bad.isEmpty then [] else
    ((List.range (n / 8)).map (8 * ·)).filter fun o => match homes[o / 64]? with
      | some x => s.poisoned (x.key + o % 64) 8
      | none => false
  match bad.find? fun o => !inRegisters o && !(inRegisters (o / 32 * 32 + 24)) with
  | some o => .error (.trapIn (memTrap 0x16 (if isGlobal a then 0x01 else 0x02) (a + BitVec.ofNat 64 o)) m)
  | none =>
    let bytes := ((List.range homes.length).zip homes).flatMap fun (i, y) => s.readBytes (a + BitVec.ofNat 64 (64 * i)) y.key 64
    .ok ({ bits := natOfBytes bytes, len := n, bad := bad }, m)

/-- The record of a process that is not placed is the one that the hub holds. -/
def Mach.putSaved (s : Mach) (slot : Option (Nat × Nat)) (r : Saved) : Mach := match slot with
  | none => s
  | some (n, _) => r.bad.foldl (fun m o => m.poison (Key.save n o)) (s.put (Key.save n 0) (bytesOfNat r.len r.bits))

def ctxrest (x : F2) (s : Mach) : Try Done := do
  needTenant s
  if !x.w then illegal 0x0C s.unstated
  let k ← s.parkedTarget x
  let a := s.g x.eN
  if a.toNat % 64 ≠ 0 then raise (memTrap 0x03 0 a)
  if !s.isParked k then .ok { m := s.setG x.dN (BitVec.allOnes 64) }
  else
    if !s.settled k then engineWait s
    let s := (s.drainTiles s.self none).drainReqs s.self fun _ => true
    let bad : Nat → Try Done := fun r => raise { cause := 0x1B, reason := r, opnd := 5, value := a }
    let (head, _) ← s.readRecord a 64
    if head.u 0 8 ≠ 0x5452494553415645 || head.u 8 2 ≠ 1 || head.u 56 4 % 64 ≠ 0 || head.u 56 4 < 5888 then bad 0x01
    else
      let (r, s) ← s.readRecord a (head.u 56 4)
      match s.proc k with
      | none => .ok { m := s }
      | some p =>
        let m := s.select k
        match m.recordCheck p r with
        | some reason => bad reason
        | none =>
          let qs := (m.recordQueues p.decl.sup r).getD []
          let held := if r.pc = p.park then m.ctx.issued else {}
          let c := { r.restore m.ctx qs with issued := held }
          let s := (s.setCtxOf k c).updProc k fun p => { p with park := r.pc, saved := p.saved.map fun y => (y.1, r.len) }
          .ok { m := (s.putSaved p.saved r).setG x.dN 0 }

def execCtxrest (x : F2) (s : State) : Host.Outcome State Fault Refusal := chain x.len s (ctxrest x)

end Sys2Proof.Machine
end

