-- ==== Sys2Proof/Machine/Place.lean ====
section
/-! DEFINITION. Placement (R248, R250, R252), start values (R40), pre-emption and the save sequencer (R260, R320, R321),
restores (R322), and `resume` (R216). -/

namespace Sys2Proof.Machine

def Mach.image (s : Mach) (h : Nat) : Option Image := s.images.find? fun i => i.handle == h
def Mach.netOf (s : Mach) (k : Nat) : Option Net := (s.proc k).bind fun p => s.net p.net
def Mach.tenantOf (s : Mach) (k : Nat) : Nat := ((s.netOf k).map (·.tenant)).getD 0
def Mach.imageOf (s : Mach) (k : Nat) : Option Image := (s.netOf k).bind fun x => s.image x.image

/-! What a process needs of a tile. -/

/-- R292: endpoints of process index i. -/
def Image.ends (im : Image) (i : Nat) : Nat :=
  sumBelow im.chans.length (fun c => match im.chans[c]? with
    | some d => (d.wproc == i).toNat + (d.rproc == i).toNat
    | none => 0) +
  (im.pools.flatMap (·.members)).countP fun m => m.1 == i

def tokenBytes (vector : Bool) : Nat := if vector then 512 else 8

/-- R293: bytes of the buffers of the channels that process index i reads. -/
def Image.buffers (im : Image) (i : Nat) : Nat :=
  ((im.chans.filter fun c => c.rproc == i).map fun c => (c.slots * tokenBytes c.vector + 63) / 64 * 64).foldl (· + ·) 0

def winSpan (w : Word) : Nat × Nat := (bitsAt w.toNat 0 24, min (bitsAt w.toNat 24 24) Config.localBytes)
def spansMeet (a b : Nat × Nat) : Bool := a.1 < a.2 && b.1 < b.2 && a.1 < b.2 && b.1 < a.2

/-- R250: the runtime block. -/
def Image.runtimeSpan (im : Image) : Nat × Nat := (im.rtblk, im.rtblk + 64 + 4 * im.resids.length)

/-- R293: local memory in units of 64 bytes that no span covers, the spans in ascending order. -/
def freeRoom : Nat → List (Nat × Nat) → Nat
  | pos, [] => Config.localBytes - pos
  | pos, (a, b) :: r => (a / 64 * 64 - pos) + freeRoom (max pos ((b + 63) / 64 * 64)) r

/-- The residencies of process k that need a slot on a tile. -/
def Mach.slotNeed (s : Mach) (k t : Nat) : Nat :=
  if ((s.proc k).map (·.started)).getD false then s.slotless k t
  else ((s.imageOf k).map fun im => im.declaredArrays ((s.proc k).map (·.index) |>.getD 0)).getD 0

/-- The windows of process k: those of its context, or those that it will start with. -/
def Mach.windowsOf (s : Mach) (k : Nat) : List (Nat × Nat) := match s.proc k with
  | some p => if p.started then (s.ctxOf k).win.toList.map winSpan else p.decl.win.map winSpan
  | none => []

/-- R248: the partitions of a tile's figure store that other processes placed there use: for declared figures, or by `fgload`,
`fgbind` and `fgsel`. -/
def Mach.partsTaken (s : Mach) (k t : Nat) : List Nat :=
  (((s.onTile t).filter fun j => j != k).flatMap fun j =>
    let c := s.ctxOf j
    let m0 := markKey t (256 * c.part.toNat)
    (((s.proc j).bind (·.parts)).toList ++ c.figs.toList.filterMap fun f => f.map fun w => w.toNat / 256) ++
      if c.part != 0 || s.marks.any fun y => m0 ≤ y.1 && y.1 < m0 + 256 then [c.part.toNat] else []).eraseDups

def Image.hasFigures (im : Image) (i : Nat) : Bool := im.figs.any fun f => f.proc == i

/-- What a tile holds for one process beside the one to be placed: a process placed there, or one of a pre-placed image whose
context is reserved there (R256). -/
structure Occupant where
  net   : Nat
  image : Image
  index : Nat
  allow : Nat
  wins  : List (Nat × Nat)

/-- The network whose runtime block a pre-placed image has on its tiles: the one that runs it, or one that is still to come. -/
def Mach.blockOf (s : Mach) (im : Image) : Nat :=
  (firstBelow s.nets.length fun n => ((s.net n).map fun x => x.live && x.image == im.handle).getD false).getD (s.nets.length + im.handle)

def Mach.residents (s : Mach) (k t : Nat) : List Occupant :=
  ((s.onTile t).filter fun j => j != k).filterMap fun j => match s.proc j, s.imageOf j with
    | some q, some jm => some { net := q.net, image := jm, index := q.index, allow := q.decl.allow, wins := s.windowsOf j }
    | _, _ => none

def Mach.reserves (s : Mach) (k t : Nat) : List Occupant :=
  ((s.vacant t).filter fun y => s.imageOf k != some y.1 || ((s.proc k).map (·.index)) != some y.2).filterMap fun y =>
    (y.1.procs[y.2]?).map fun d =>
      { net := s.blockOf y.1, image := y.1, index := y.2, allow := d.allow
        wins := match s.begun y.1 y.2 with
          | some j => s.windowsOf j
          | none => d.win.map winSpan }

/-- R252, R256: the constraints of a tile for process k, beside the free context. -/
def Mach.fits (s : Mach) (k t : Nat) : Bool := match s.proc k, s.imageOf k with
  | some p, some im =>
    let kept := s.reserves k t
    let on := s.residents k t ++ kept
    let ten := s.tenantOf k
    let sum (f : Occupant → Nat) : Nat := (on.map f).foldl (· + ·) 0
    let used := (s.holding false t).countP fun r => r.tenant == ten
    let need := s.slotNeed k t
    let mine := if (s.vacant t).any fun y => some y.1 == s.imageOf k && y.2 == p.index then need else 0
    let held (f : Image → Bool) : Nat := s.reservedSlots t f - mine
    let parts := im.hasFigures p.index
    let blocks := (im.runtimeSpan, p.net) :: on.map fun o => (o.image.runtimeSpan, o.net)
    let wins := s.windowsOf k ++ on.flatMap (·.wins)
    let spans := wins ++ blocks.map (·.1)
    let buffers := im.buffers p.index + sum fun o => o.image.buffers o.index
    ((s.tenant ten).map fun y => y.tiles.contains t).getD false && !(s.tile t).zeroing &&
    p.decl.allow + sum (·.allow) ≤ 32 &&
    (need = 0 || (used + need + held (fun y => y.tenant == ten) ≤ s.quotaArr ten &&
      (s.holding false t).length + need + held (fun _ => true) ≤ 16)) &&
    (!parts || (s.partsTaken k t).length + kept.countP (fun o => o.image.hasFigures o.index) < 16) &&
    im.ends p.index + sum (fun o => o.image.ends o.index) ≤ 256 &&
    blocks.all (fun a => blocks.all fun b => a.2 == b.2 || !spansMeet a.1 b.1) &&
    blocks.all (fun a => wins.all fun w => !spansMeet a.1 w) &&
    buffers ≤ freeRoom 0 (sortBy (·.1) (spans.filter fun y => y.1 < y.2))
  | _, _ => false

/-- R256: contexts that pre-placed images other than the process's own hold back. -/
def Mach.reserved (s : Mach) (k : Nat) (pl : Place) : Bool :=
  s.images.any fun im => im.ready && im.live && some im.handle != (s.netOf k).map (·.image) && im.slots.contains pl

def Mach.contextFree (s : Mach) (t c : Nat) : Bool :=
  (s.onTile t).all fun j => ((s.ctxOf j).place.map (·.ctx)) != some c

/-- The lowest free context of a tile. -/
def Mach.freeContext (s : Mach) (k t : Nat) : Option Place :=
  ((List.range Config.contexts).map fun c => ({ x := t % 64, y := t / 64, ctx := c } : Place)).find? fun pl =>
    s.contextFree t pl.ctx && !s.reserved k pl

def distance (a b : Nat) : Nat :=
  (a % 64 - b % 64) + (b % 64 - a % 64) + (a / 64 - b / 64) + (b / 64 - a / 64)

/-- R252: the tile that a hint names. -/
def Mach.hintTile (s : Mach) (p : Proc) : Option Nat := match p.decl.hkind with
  | 1 => some (tileNo (p.decl.hint % 64) (p.decl.hint / 256 % 32))
  | 2 => (s.procAt p.net p.decl.hint).bind fun j => if s.isPlaced j then some (s.ctxOf j).tile else none
  | _ => none

/-- R252: the place of process k: its reserved context, or the hinted tile, or the nearest free context, as far as it fits there.
DEDUCED: log entry 47. -/
def Mach.findPlace (s : Mach) (k : Nat) : Option Place := match s.proc k with
  | none => none
  | some p =>
    let own := match s.imageOf k with
      | some im => if im.ready then im.slots[p.index]? else none
      | none => none
    match own.bind fun pl => if s.contextFree (tileNo pl.x pl.y) pl.ctx && s.fits k (tileNo pl.x pl.y) then some pl else none with
    | some pl => some pl
    | none =>
      let hint := s.hintTile p
      let first := ((s.netOf k).bind fun x => x.procs.find? s.isPlaced).map fun j => (s.ctxOf j).tile
      let origin := (hint.or first).getD 0
      let tiles := ((s.tenant (s.tenantOf k)).map (·.tiles)).getD []
      let order := sortBy (fun t => distance t origin * 4096 + t) tiles
      (order.find? fun t => (s.freeContext k t).isSome && s.fits k t).bind (s.freeContext k)

/-! Loading a tile. -/

/-- Sparse memory and poison moved: n bytes from one location to another; what was there is gone. -/
def Mach.moveBytes (s : Mach) (src dst n : Nat) : Mach :=
  let cells := s.mem.filter fun c => src ≤ c.1 && c.1 < src + n
  let bad := s.bad.filter fun u => src ≤ u && u < src + n
  let mem := cells.foldl (fun m c => Mem.set m (c.1 - src + dst) c.2) (Mem.clear s.mem dst n)
  bad.foldl (fun m u => m.poison (u - src + dst)) { s with mem := mem, bad := s.bad.filter fun u => u < dst || dst + n ≤ u }

/-- A window zeroed, and the bytes of its segment written. -/
def Mach.loadWindow (s : Mach) (t : Nat) (w : Word) (bs : List Byte) : Mach :=
  let (a, b) := winSpan w
  if b ≤ a then s else
    let key := Key.tile t a
    { s with
      mem := Mem.write (Mem.clear s.mem key (b - a)) key (bs.take (b - a))
      bad := s.bad.filter fun u => u < key || key + (b - a) ≤ u }

/-- R245: the parts of process i's segment: win0, win2, win1. -/
def Image.segment (im : Image) (d : ProcDecl) (i : Nat) : List (Nat × List Byte) :=
  let l := im.segs[i]?.getD []
  let n0 := (d.segLen[0]?).getD 0
  let n2 := (d.segLen[1]?).getD 0
  let n1 := 64 * (d.segLen[2]?).getD 0
  let up := fun n => (n + 63) / 64 * 64
  [(0, l.take n0), (2, (l.drop (up n0)).take n2), (1, (l.drop (up n0 + up n2)).take n1)]

def Mach.loadSegments (s : Mach) (im : Image) (p : Proc) (t : Nat) : Mach :=
  (im.segment p.decl p.index).foldl (fun m y => m.loadWindow t (p.decl.win[y.1]?.getD 0) y.2) s

/-- R250: the runtime block on a tile: handles of declared residencies of processes placed there, and of the job. -/
def Mach.runtimeBlock (s : Mach) (x : Net) (im : Image) (t : Nat) : List Byte :=
  bytesOfNat 4 x.nid ++ bytesOfNat 4 im.procs.length ++ bytesOfNat 4 im.chans.length ++ bytesOfNat 4 im.lap ++
  bytesOfNat 4 im.resids.length ++ bytesOfNat 4 x.index ++ bytesOfNat 40 0 ++
  (List.range im.resids.length).flatMap fun i =>
    let shown := match im.resids[i]? with
      | some d => d.bank || ((x.procs[d.owner]?).map fun j => s.isPlaced j && (s.ctxOf j).tile == t).getD false
      | none => false
    bytesOfNat 4 (if shown then x.declared[i]?.getD 0 else 0)

/-- R250: the runtime block written on every tile of a network. -/
def Mach.writeBlocks (s : Mach) (n : Nat) : Mach := match s.net n with
  | none => s
  | some x => match s.image x.image with
    | none => s
    | some im =>
      let tiles := ((x.procs.filter s.isPlaced).map fun j => (s.ctxOf j).tile).eraseDups
      tiles.foldl (fun m t => m.put (Key.tile t im.rtblk) (s.runtimeBlock x im t)) s

/-- R157: a declared array residency is created on the tile of its owner, and filled. -/
def Mach.declareArrays (s : Mach) (k t : Nat) : Mach := match s.proc k, s.imageOf k with
  | some p, some im => (List.range im.resids.length).foldl (fun m i => match im.resids[i]? with
      | some d =>
        if d.bank || d.owner != p.index then m
        else match m.newArray (m.tenantOf k) k t (m.quotaArr (m.tenantOf k)) d.refresh with
          | (none, m) => m
          | (some h, m) =>
            let m := m.setResid (m.resids.length - 1) fun r =>
              { r with state := .loading, load := d.source, filler := k, pinned := d.pinned }
            m.updNet p.net fun x => { x with declared := x.declared.set i h }
      | none => m) s
  | _, _ => s

/-- R170: at placement on a tile every residency of the process that has no slot there takes one. -/
def Mach.reseat (s : Mach) (k t : Nat) : Mach :=
  (List.range s.resids.length).foldl (fun m i => match m.resids[i]? with
    | none => m
    | some r =>
      if r.bank || r.owner != k || r.state == .revoked || (!r.noSlot && r.spot == t) then m
      else
        let m := m.setResid i fun r => { r with noSlot := true }
        match m.freeSlot false t 16 with
        | none => m
        | some j => m.setResid i fun r =>
            { r with spot := t, slot := j, noSlot := false, state := if r.state == .ready then .evicted else r.state }) s

/-- R248: the declared figures written, marked and bound in a free partition of the tile. -/
def Mach.placeFigures (s : Mach) (k t : Nat) : Mach := match s.proc k, s.imageOf k with
  | some p, some im =>
    if !im.hasFigures p.index then s.updProc k fun p => { p with parts := none }
    else
      let taken := s.partsTaken k t
      let part := ((List.range 16).find? fun i => !taken.contains i).getD 0
      let s := (s.clearPart t part).updProc k fun p => { p with parts := some part }
      let figs := im.figs.filter fun f => f.proc == p.index
      let (_, s) := figs.foldl (fun (acc : Nat × Mach) f =>
        let m := acc.2.installFigure t acc.1 f.words
        (acc.1 + f.words.length, m.setCtxOf k (bindFigure (m.ctxOf k) f.num acc.1))) (part * 256, s)
      s.setCtxOf k { s.ctxOf k with part := BitVec.ofNat 4 part }
  | _, _ => s

/-! Start values. -/

/-- R40, R246, R247: the queue registers at launch. -/
def startQueues (im : Image) (i : Nat) (sup : Bool) : Vector (Option QBind) 16 :=
  Vector.ofFn fun (q : Fin 16) =>
    let ids := List.range im.chans.length
    let at0 := fun c => im.chans[c]?
    let w := ids.find? fun c => ((at0 c).map fun d => !d.vector && d.wproc == i && d.wend % 16 == q.val).getD false
    let r := ids.find? fun c => ((at0 c).map fun d => !d.vector && d.rproc == i && d.rend % 16 == q.val).getD false
    let pool := (List.range im.pools.length).findSome? fun c => (im.pools[c]?).bind fun d =>
      (d.members.find? fun m => m.1 == i && m.2.1 == q.val).map fun m => ({ kind := .pool, write := m.2.2 == 2, id := c } : QBind)
    if sup && q.val = 15 then some { kind := .chan, write := false, id := 0, fault := true }
    else match w, r with
      | some c, _ => some { kind := .chan, write := true, id := c }
      | none, some c => some { kind := .chan, write := false, id := c }
      | none, none => pool

/-- R40, R21: the state in which a process starts. -/
def startCtx (x : Net) (im : Image) (t : Tenant) (p : Proc) (pl : Place) : Ctx :=
  { pc := BitVec.ofNat 24 p.decl.entry
    g := Vector.ofFn fun (i : Fin 32) =>
      if i.val = 2 then BitVec.ofNat 64 (bitsAt (p.decl.win[1]?.getD 0).toNat 24 24)
      else if 3 ≤ i.val && i.val ≤ 10 then p.decl.args[i.val - 3]?.getD 0
      else if i.val = 31 then BitVec.ofNat 64 im.rtblk
      else 0
    q := startQueues im p.index p.decl.sup
    share := BitVec.ofNat 4 p.decl.share
    lapLen := im.lap
    rngId := BitVec.ofNat 32 (x.nid % 2 ^ 16 * 2 ^ 16 + p.index % 2 ^ 16)
    lvl := BitVec.ofNat 2 p.decl.tenant.toNat
    win := Vector.ofFn fun (i : Fin 4) => windowBits i.val (p.decl.win[i.val]?.getD 0)
    quota := t.quotaWord
    replay := x.replay.isSome
    mAllow := p.decl.allow
    place := some pl
    nid := BitVec.ofNat 32 x.nid
    idx := BitVec.ofNat 16 p.index }

/-! Placing and restoring. -/

/-- May process k be placed: ready, its network live and not ending. -/
def Mach.isReady (s : Mach) (k : Nat) : Bool := match s.proc k with
  | some p => p.st == .unplaced && !p.held && !p.cancel && !p.away &&
      ((s.net p.net).map fun x => x.live && !x.cancel && !x.fatal).getD false
  | none => false

/-- R259: a pool waits for process k to leave the lap that is to close next. -/
def Mach.holdsClose (s : Mach) (k : Nat) : Bool := match s.proc k, s.netOf k with
  | some p, some x => x.pools.any fun y => !(y.puts.isEmpty && y.gets.isEmpty) && y.decl.members.any (fun m => m.1 == p.index) &&
      (s.ctxOf k).lapNo ≤ y.closed
  | _, _ => false

/-- R260, R259, R252: the order in which ready processes are placed. -/
def Mach.before (s : Mach) (a b : Nat) : Bool :=
  let rank := fun k => ((s.proc k).map fun p => ((if s.holdsClose k then 0 else 1), p.order, p.key)).getD (2, 0, 0)
  let x := rank a
  let y := rank b
  x.1 < y.1 || (x.1 == y.1 && (x.2.1 < y.2.1 || (x.2.1 == y.2.1 && x.2.2 < y.2.2)))

/-- The place that process k may take now: none while a process of its tenant that comes before it could be placed. -/
def Mach.placeNow (s : Mach) (k : Nat) : Option Place :=
  if !s.isReady k then none
  else if (List.range s.procs.length).any fun j =>
      j != k && s.isReady j && s.tenantOf j == s.tenantOf k && s.before j k && (s.findPlace j).isSome then none
  else s.findPlace k

/-- R198, R257: the home of a watermark counter that the hub writes: a global counter, or a doubleword of a tile. -/
def Mach.hubCounter (s : Mach) (ten : Nat) (a : Word) : Option Nat :=
  if a.toNat % 8 ≠ 0 then none
  else if isGlobal a then match s.translate (some ten) a 8 true true with
    | .ok x => if x.e.counter then some x.key else none
    | .error _ => none
  else if a.toNat / 2 ^ 62 = 1 then match tileTarget 0 a 0 with
    | .ok (t, off) =>
      if off + 8 ≤ Config.localBytes && ((s.tenant ten).map fun y => y.tiles.contains t).getD false then some (Key.tile t off) else none
    | .error _ => none
  else none

/-- R257: the counters of the watermark edges that leave a submission take the base of its output buffer. DEDUCED: log entry 57. -/
def Mach.initMarks (s : Mach) (i ten : Nat) : Mach :=
  (s.deps.filter fun d => d.src == i && d.kind == .watermark).foldl (fun m d => match m.hubCounter ten d.ctr with
    | some k => (m.settle.markStale k 8).putNat k 8 d.base.toNat
    | none => m) s

/-- R257, R245: a counter that lies in windows which the loader has just filled takes its base once more, since the base is
there before the producer's first chain. -/
def Mach.keepMarks (s : Mach) (n t : Nat) (win : List Word) : Mach :=
  (s.subs.zipIdx.filter fun y => y.1.home == some n).foldl (fun m y =>
    (m.deps.filter fun d => d.src == y.2 && d.kind == .watermark).foldl (fun m d => match m.hubCounter y.1.tenant d.ctr with
      | some k => if win.any fun w => Key.tile t (bitsAt w.toNat 0 24) ≤ k && k + 8 ≤ Key.tile t (bitsAt w.toNat 24 24)
          then m.putNat k 8 d.base.toNat else m
      | none => m) m) s

/-- R314: does process i of a network stand on the other package. -/
def Mach.isAway (s : Mach) (x : Net) (i : Nat) : Bool := (((x.procs[i]?).bind s.proc).map (·.away)).getD false

/-- R314: does a channel lead from one package to the other. -/
def Mach.spans (s : Mach) (x : Net) (d : ChanDecl) : Bool := s.isAway x d.wproc != s.isAway x d.rproc

/-- R295: the channels of process k are to be re-bound; one that holds no token, within the package, is at once. -/
def Mach.rebindOf (s : Mach) (k : Nat) : Mach := match s.proc k with
  | none => s
  | some p => s.updNet p.net fun x => { x with
      chans := x.chans.map fun c =>
        if c.decl.wproc != p.index && c.decl.rproc != p.index then c
        else if c.flight.isEmpty && c.buf.isEmpty && c.span.isNone && !s.spans x c.decl then { c with inTile := 0 }
        else { c with rebind := true }
      active := true }

/-- A process begins on its place: segments, residencies, runtime blocks, figures, start values (R40, R245, R248). -/
def Mach.seat (s : Mach) (k : Nat) (pl : Place) : Mach := match s.proc k, s.netOf k, s.imageOf k with
  | some p, some x, some im =>
    let t := tileNo pl.x pl.y
    let ten := (s.tenant x.tenant).getD { id := x.tenant }
    let s := ((s.select k).loadSegments im p t).keepMarks p.net t p.decl.win
    let s := ({ s with ctx := startCtx x im ten p pl }).updProc k fun p => { p with st := .running, started := true, wait := none }
    (((s.declareArrays k t).placeFigures k t).writeBlocks p.net).refetch.rebindOf k
  | _, _, _ => s

/-- R252: a process that has not run yet takes its context. -/
def execPlaceProcess (proc : Nat) (s : State) : Host.Outcome State Fault Refusal :=
  let m := s.toMach
  if ((m.proc proc).map fun p => p.saved.isNone && !p.started).getD false then
    match m.placeNow proc with
    | some pl => .next { s with toMach := (m.seat proc pl).tock }
    | none => .next s
  else .next s

/-- The chain at a local offset as the windows of an unplaced process hold it: its words. -/
def Mach.savedChain (s : Mach) (slot pc : Nat) : List Half :=
  let hs := (List.range 5).map fun i => BitVec.ofNat 16 (Mem.nat s.mem (Key.save slot (2 ^ 20 + (pc + 2 * i) % 2 ^ 24)) 2)
  match decodeWords hs with
  | .ok _ n => hs.take n
  | .bad _ n => hs.take n

/-- R323: a failing restore parks the process, unplaced. DEDUCED: log entry 49. -/
def Mach.failRestore (s : Mach) (k slot reason pc : Nat) : Mach := match s.proc k with
  | none => s
  | some p =>
    let c := s.ctxOf k
    let ch := s.savedChain slot pc
    let t : Trap := { cause := 0x1B, reason := reason, opnd := 5, value := s.unstated }
    let rcd := makeRecord t ch.length p.index none c.nid.toNat pc ch p.decl.tenant false
    (s.updProc k fun p => { p with st := .parked, wait := none, park := pc, record := some rcd }).deliver p.net k p.index rcd

/-- R320, R201: what a re-run chain has issued; its time-out starts afresh. -/
def Issued.again (i : Issued) : Issued := { i with fired := false, started := false }

/-- R322: the context back on a new place, with its local memory, residencies, figures and runtime block. -/
def Mach.restoreAt (s : Mach) (k slot : Nat) (r : Saved) (pl : Place) : Mach := match s.proc k, s.netOf k with
  | some p, some x =>
    let t := tileNo pl.x pl.y
    let s := s.select k
    let qs := (s.recordQueues p.decl.sup r).getD []
    let ten := (s.tenant x.tenant).getD { id := x.tenant }
    let held := if r.u 15 1 = 1 || r.u 15 1 = 4 then s.ctx.issued.again else {}
    let c := { r.restore s.ctx qs with place := some pl, quota := ten.quotaWord, issued := held }
    let s := { s with ctx := c, rowUses := s.rowUses + 1 }
    let s := c.win.toList.foldl (fun m w =>
      let (a, b) := winSpan w
      m.moveBytes (Key.save slot (2 ^ 20 + a)) (Key.tile t a) (b - a)) s
    let s := s.updProc k fun p => { p with st := .running, started := true, wait := none, saved := none, stop := none }
    (((s.reseat k t).placeFigures k t).writeBlocks p.net).refetch.rebindOf k
  | _, _ => s

/-- The record that the hub holds for a process. -/
def Mach.heldRecord (s : Mach) (slot len : Nat) : Saved :=
  { bits := Mem.nat s.mem (Key.save slot 0) len, len := len
    bad := if s.bad.isEmpty then [] else ((List.range (len / 8)).map (8 * ·)).filter fun o => s.poisoned (Key.save slot o) 8 }

/-- R322, R323. -/
def execHubRestore (proc : Nat) (s : State) : Host.Outcome State Fault Refusal :=
  let m := s.toMach
  match m.proc proc with
  | none => .next s
  | some p => match p.saved with
    | none => .next s
    | some (slot, len) =>
      if !m.isReady proc then .next s
      else
        let r := m.heldRecord slot len
        match (m.select proc).recordCheck p r with
        | some reason => .next { s with toMach := (m.failRestore proc slot reason r.pc).tock }
        | none => match m.placeNow proc with
          | none => .next s
          | some pl => .next { s with toMach := (m.restoreAt proc slot r pl).tock }

/-! Pre-emption (R260, R320). -/

/-- Does another process of the tenant wait unplaced and ready. -/
def Mach.contended (s : Mach) (k : Nat) : Bool :=
  (List.range s.procs.length).any fun j => j != k && s.isReady j && s.tenantOf j == s.tenantOf k

def execPreemptionRequest (proc : Nat) (s : State) : Host.Outcome State Fault Refusal :=
  let m := s.toMach
  match m.proc proc with
  | none => .next s
  | some p =>
    if p.decl.pinned || p.req || p.held || !m.isPlaced proc || !m.contended proc then .next s
    else match p.st, p.wait with
      | .running, _ => .next { s with toMach := (m.updProc proc fun p => { p with req := true }).tock }
      | .blocked, some w =>
        .next { s with toMach := (m.updProc proc fun p =>
          if w.isPoint then { p with st := .saving, stop := some { kind := 1, keep := 0xFF }, req := true } else { p with req := true }).tock }
      | _, _ => .next s

/-- R320: a request that has not been taken is taken at the next chain boundary. DEDUCED: log entry 7. -/
def execPreemptionDeadline (proc : Nat) (s : State) : Host.Outcome State Fault Refusal :=
  match s.toMach.proc proc with
  | none => .next s
  | some p =>
    if p.req && p.st == .running && !p.held then
      .next { s with toMach := (s.toMach.updProc proc fun p => { p with st := .saving, stop := some { kind := 2, keep := 0xFF } }).tock }
    else .next s

/-- R321: bytes of a tenant's save pool in use. DESIGN CHOICE: log entry 48. -/
def Mach.poolUsed (s : Mach) (ten : Nat) : Nat :=
  ((List.range s.procs.length).map fun k => match s.proc k with
    | some p => if s.tenantOf k = ten then (p.saved.map (·.2)).getD 0 else 0
    | none => 0).foldl (· + ·) 0

/-- R170: unpinned array residencies give up their slots. -/
def Resid.evict (r : Resid) : Resid :=
  { r with noSlot := true, state := if r.state == .ready then .evicted else r.state }

def Mach.evictUnpinned (s : Mach) (k : Nat) : Mach :=
  { s with resids := s.resids.map fun r =>
      if !r.bank && r.owner == k && r.state != .revoked && !r.pinned then r.evict else r }

/-- R321: a record and the windows of process k put away under a number, with the poison they hold. -/
def Mach.putAway (s : Mach) (k kind : Nat) (keep : Byte) (pc : Nat) : Nat × Nat × Mach :=
  let c := s.ctxOf k
  let (slot, s) := { s with rowUses := s.rowUses + 1 }.takeKey
  let rcd := saveRecord c kind keep pc
  let s := s.put (Key.save slot 0) rcd
  let s := (recordPoison c keep).foldl (fun m o => m.poison (Key.save slot o)) s
  let s := c.win.toList.foldl (fun m w =>
    let (a, b) := winSpan w
    m.moveBytes (Key.tile c.tile a) (Key.save slot (2 ^ 20 + a)) (b - a)) s
  (slot, rcd.length, s)

/-- The context of process k is released: no place, no accumulator tiles. -/
def Mach.releaseContext (s : Mach) (k : Nat) : Mach :=
  s.setCtxOf k { s.ctxOf k with place := none, fbuf := [] }

def execSaveSequence (proc : Nat) (s : State) : Host.Outcome State Fault Refusal :=
  let m := s.toMach
  match m.proc proc with
  | none => .next s
  | some p => match p.st, p.stop with
    | .saving, some st =>
      if !m.settled proc then .next s
      else
        let c := m.ctxOf proc
        let len := recordLength (c.saved st.keep).length c.tiles c.replies.length
        let ten := m.tenantOf proc
        if ((m.tenant ten).map (·.pool)).getD 0 < m.poolUsed ten + len then
          .next { s with toMach := (m.updProc proc fun p =>
            { p with st := if p.wait.isSome then .blocked else .running, stop := none, req := false }).tock }
        else
          let (slot, len, m) := (m.landAt c.tile).putAway proc st.kind st.keep c.next
          let m := ((m.evictUnpinned proc).releaseContext proc).setCtxOf proc
            { ((m.releaseContext proc).ctxOf proc) with diag := c.diag.setIfInBounds 5 (c.diag[5] + 1) }
          .next { s with toMach := ((m.updProc proc fun p =>
            { p with st := .swapped, saved := some (slot, len), req := false, parts := none }).rebindOf proc).tock }
    | _, _ => .next s

/-! Waking (R260). -/

/-- Is a record of a level-table entry fixed. -/
def Mach.finalRecord (s : Mach) (ten level index : Nat) : Option Record :=
  (s.entries.find? fun e => e.tenant == ten && e.level == level && e.index == index).bind fun e => if e.live then none else e.record

/-- R173, R190: where the counter of a wait lies. For a process that stands on no tile its address means what it meant on the tile
where the wait began, whose memory went into the saved windows with it. DEDUCED: log entry 138. -/
def Mach.waitKey (s : Mach) (k : Nat) (w : Wait) : Try Nat := do
  let m := s.select k
  match m.ctx.place, (s.proc k).bind (·.saved) with
  | none, some (slot, _) =>
    let there : Place := { x := w.tile % 64, y := w.tile / 64, ctx := 0 }
    let x ← { m with ctx := { m.ctx with place := some there } }.counterAt w.val false
    .ok (if x.tile == some w.tile then Key.save slot (2 ^ 20 + x.key % 2 ^ 24) else x.key)
  | _, _ => do .ok (← m.counterAt w.val false).key

/-- R189: has a copy fault come due that the wait is to deliver. -/
def Mach.faultDue (s : Mach) (k : Nat) (w : Wait) : Bool := w.ctrs.any fun a => match (s.select k).counterFault a with
  | .error _ => true
  | .ok _ => false

/-- R173, R260: is what process k waits for met; a copy fault that the wait is to deliver ends it too. -/
def Mach.waitMet (s : Mach) (k : Nat) (w : Wait) : Bool := match s.netOf k with
  | none => false
  | some x =>
    let c := s.ctxOf k
    match w.kind with
    | .engine => s.settled k || w.code != 8
    | .write =>
      if w.pool then (x.pools[w.ref]?).elim false fun p => 0 < p.free
      else (x.chan w.ref).elim false fun c => 0 < c.room || c.rExited
    | .read => match w.code with
      | 0x01 => (x.chan w.ref).elim false fun c => c.front.isSome
      | 0x02 =>
        let y := c.stream (w.val.toNat - 24)
        match y.kind with
        | .chan => (x.chan w.ref).elim false fun c => c.front.isSome
        | .pattern => !y.ahead.isEmpty || c.place.isNone
        | .reply => w.goal.toNat < c.replies.length
      | 0x03 => c.issued.got.isSome
      | 0x04 => (x.barrier w.ref).elim false fun b => (c.pendingAt w.ref).elim true fun g => g < b.gen
      | 0x07 => c.issued.answer.isSome || (s.finalRecord x.tenant (w.val.toNat / 2 ^ 62) w.ref).isSome
      | 0x09 => !x.faultBuf.isEmpty
      | _ => c.issued.fired || s.faultDue k w || match s.waitKey k w with
        | .ok y => w.goal.toNat ≤ Mem.nat s.mem y 8 || s.poisoned y 8
        | .error _ => true

def execUnplacedWake (proc : Nat) (s : State) : Host.Outcome State Fault Refusal :=
  let m := s.toMach
  match m.proc proc with
  | none => .next s
  | some p =>
    if p.held || p.away then .next s
    else if p.st = .swapped || p.st = .unplacedBlocked then
      if p.wait.elim true (m.waitMet proc) then
        let (o, m) := m.takeKey
        .next { s with toMach := (m.updProc proc fun p => { p with st := .unplaced, order := o }).tock }
      else .next { s with toMach := (m.updProc proc fun p => { p with st := .unplacedBlocked }).tock }
    else .next s

/-! `resume` (R216) and the fault channel (R318). -/

/-- R216: the parked state ends; a placed process goes on at its parked chain, another becomes ready. -/
def Mach.unpark (s : Mach) (k : Nat) : Mach := match s.proc k with
  | none => s
  | some p =>
    if (s.ctxOf k).place.isSome then
      (s.within k fun m => { m with ctx := { m.ctx.goto p.park with issued := m.ctx.issued.again } }.refetch).updProc k fun p =>
        { p with st := .running, wait := none, record := none }
    else
      let (o, s) := s.takeKey
      s.updProc k fun p => { p with st := .unplaced, wait := none, record := none, order := o }

def resume (x : F2) (s : Mach) : Try Done := do
  needTenant s
  let k ← s.parkedTarget x
  if !s.isParked k || ((s.proc k).map (·.held)).getD false then .ok { m := s.setG x.dN (BitVec.allOnes 64) }
  else
    let s ← s.release
    .ok { m := ((s.unpark k).stir).setG x.dN 0 }

def execResume (x : F2) (s : State) : Host.Outcome State Fault Refusal := chain x.len s (resume x)

/-- R318: the buffer of the fault channel holds 64 records of eight doublewords. -/
def execFaultRecordDelivery (net : Nat) (s : State) : Host.Outcome State Fault Refusal :=
  match s.toMach.net net with
  | none => .next s
  | some x => match x.faultQ with
    | [] => .next s
    | (_, r) :: rest =>
      if 512 < x.faultBuf.length + 8 || !x.live then .next s
      else .next { s with toMach := (s.toMach.updNet net fun x =>
        { x with faultQ := rest, faultBuf := x.faultBuf ++ r, active := true }).tock }

end Sys2Proof.Machine
end

