-- ==== Sys2Proof/Machine/System.lean ====
section
/-! DEFINITION. Return from a local handler (R212), changes of the range table (R218 to R221, R281), the run digest's
switches (R228), the diagnostic counters (R230) and the owner change that no context may make (R222). -/

namespace Sys2Proof.Machine

def execTret (x : F2) (s : State) : Host.Outcome State Fault Refusal := chain x.len s Mach.trapReturn

/-- R222: no tile context runs at device level. -/
def execChgown (x : F2) (s : State) : Host.Outcome State Fault Refusal :=
  chain x.len s fun m => raise { cause := 0x02, value := m.unstated }

/-! Range tables. -/

/-- R218: the entry that a 32-byte image describes, or none where a field is out of range. An image with valid = 0
gives an entry that is ignored. DEDUCED: log entry 40. -/
def rangeImage (d : Nat) : Option RangeEntry :=
  let f := fun lo n => bitsAt d (8 * lo) (8 * n)
  let mode := f 24 1
  let flags := f 26 1
  let host := flags % 2 == 1
  let e : RangeEntry := {
    vbase := f 0 8, vlimit := f 8 8, pbase := f 16 8, mode := mode % 4, die := bitsAt mode 2 3
    rd := f 25 1 % 2 == 1, w := bitsAt (f 25 1) 1 1 == 1
    host := host, counter := bitsAt flags 1 1 == 1, watched := bitsAt flags 2 1 == 1, valid := true }
  if bitsAt flags 7 1 = 0 then some {}
  else if e.vbase % 2 ^ 21 ≠ 0 || e.vlimit % 2 ^ 21 ≠ 0 || e.pbase % 2 ^ 21 ≠ 0 then none
  else if 2 ^ 48 ≤ e.vbase || 2 ^ 48 < e.vlimit || e.vlimit ≤ e.vbase then none
  else if 2 ≤ e.mode || 32 ≤ mode || (e.mode = 0 && e.die ≠ 0) then none
  else if 4 ≤ f 25 1 || bitsAt flags 3 4 ≠ 0 || f 27 5 ≠ 0 then none
  else if host && (e.counter || e.watched || e.mode ≠ 0) then none
  else if !host && (if e.mode = 0 then 2304 else 288) * 2 ^ 30 ≤ e.pbase then none
  else some e

def rtset (x : F2) (s : Mach) : Try Done := do
  needTenant s
  if !x.w then illegal 0x0C s.unstated
  let i := (s.g x.aN).toNat
  if 1024 ≤ i then illegal 0x0C (s.g x.aN)
  let a := s.g x.eN
  let key ← s.ownLocal a 32 32 true false
  s.clean key 32 a
  match rangeImage (s.readNat a key 32) with
  | none => illegal 0x0C a 5
  | some e =>
    let window := ((s.tenantNo.bind s.tenant).map (·.window.2)).getD 0
    if e.host && window ≤ e.pbase then illegal 0x0C a 5
    .ok { m := s.updTenant (s.tenantNo.getD 0) fun t =>
      { t with staged := insertBy (·.1) (i, e) (t.staged.filter fun y => y.1 != i) } }

def execRtset (x : F2) (s : State) : Host.Outcome State Fault Refusal := chain x.len s (rtset x)

/-- R219. -/
def rtinv (s : Mach) : Try Done := do
  needTenant s
  .ok { m := s.updTenant (s.tenantNo.getD 0) fun t => { t with staged := t.active } }

def execRtinv (x : F2) (s : State) : Host.Outcome State Fault Refusal := chain x.len s rtinv

/-- R220: two valid entries that overlap. -/
def tableOverlaps : List (Nat × RangeEntry) → Bool
  | [] => false
  | (_, e) :: r => (e.valid && r.any fun y => y.2.valid && y.2.vbase < e.vlimit && e.vbase < y.2.vlimit) || tableOverlaps r

/-- R220: are the physical bytes of an entry a tenant's: bytes of its stacks, pieces of 2 MiB of the spread view that
its job was given, or bytes of its host window. DEDUCED: log entry 41. -/
def Tenant.owns (t : Tenant) (e : RangeEntry) : Bool :=
  let len := e.vlimit - e.vbase
  if e.host then e.pbase + len ≤ t.window.2
  else if e.mode = 0 then
    e.pbase + len ≤ 2304 * 2 ^ 30 &&
    ((List.range 24).all t.stackNos.contains || (List.range (len / 2 ^ 21)).all fun i => t.rows.contains (e.pbase / 2 ^ 21 + i))
  else
    e.pbase + len ≤ 288 * 2 ^ 30 &&
    ((List.range 3).all (fun i => t.stackNos.contains (3 * e.die + i)) ||
      (let lo := e.pbase / 256 / 384 * 3072 / 8192
       let hi := ((e.pbase + len - 1) / 256 / 384 * 3072 + 3071) / 8192
       (List.range (hi + 1 - lo)).all fun i => t.rows.contains (lo + i)))

/-- R220, R273: may a tenant map an entry: it owns its bytes, and no bank residency has taken rows of them. -/
def Mach.mayMap (s : Mach) (t : Tenant) (e : RangeEntry) : Bool := t.owns e && !s.onBank e

/-- R281: is an access translated under an earlier table still to be performed. -/
def Mach.undrained (s : Mach) (t : Tenant) : Bool :=
  s.reqs.any fun r => r.gen < t.gen && r.stage != .answered && r.stage != .merging &&
    ((s.proc r.proc).bind fun p => (s.net p.net).map (·.tenant)) == some t.id

/-- R220, R281. DEDUCED: log entry 42. -/
def rtcommit (x : F2) (s : Mach) : Try Done := do
  needTenant s
  match s.tenantNo.bind s.tenant with
  | none => .ok { m := s.setG x.dN 0 }
  | some t =>
    let drain : Try Done := if s.undrained t then engineWait s else .ok { m := s.setG x.dN 0 }
    match s.ctx.issued.commit with
    | some g => if t.gen ≤ g then engineWait s else drain
    | none =>
      if tableOverlaps t.staged then .ok { m := s.setG x.dN (BitVec.ofInt 64 (-1)) }
      else if t.staged.any fun y => y.2.valid && !s.mayMap t y.2 then .ok { m := s.setG x.dN (BitVec.ofInt 64 (-2)) }
      else if t.switch.isSome then engineWait s
      else do
        let s ← s.release
        if t.staged = t.active then
          if s.undrained t then engineWait s else .ok { m := s.setG x.dN 0 }
        else engineWait ({ s with ctx := { s.ctx with issued := { s.ctx.issued with commit := some t.gen } } }.updTenant t.id
          fun y => { y with switch := some y.staged })

def execRtcommit (x : F2) (s : State) : Host.Outcome State Fault Refusal := chain x.len s (rtcommit x)

/-- The first addresses of the 256-byte units that the bytes from va up to a bound touch. -/
def unitStarts (va top : Nat) : List Nat :=
  (List.range ((top - va / 256 * 256 + 255) / 256)).map fun i => max va (va / 256 * 256 + 256 * i)

/-- R281: do two entries map the bytes from va up to a bound to other server bytes. -/
def RangeEntry.differs (x y : RangeEntry) (va top : Nat) : Bool :=
  x.host != y.host ||
  (!(x.mode == y.mode && x.die == y.die && x.pbase + (va - x.vbase) == y.pbase + (va - y.vbase)) &&
    (unitStarts va top).any fun b => x.locate 0 b != y.locate 0 b)

/-- R281: does a residency's source translate otherwise under a new table. -/
def Resid.moved (r : Resid) (old new : Tenant) : Bool :=
  let top := bitsAt r.watch.toNat 0 48 + r.size
  r.watched && r.tenant == old.id &&
  (pageStarts (bitsAt r.watch.toNat 0 48) r.size).any fun b =>
    match old.entryAt b, new.entryAt b with
    | some x, some y => x.differs y b (min top ((b / 2 ^ 21 + 1) * 2 ^ 21))
    | none, none => false
    | _, _ => true

/-- R281: the switch moment: the new table, one generation on, and the marks of moved sources. -/
def Mach.switchTable (s : Mach) (t : Tenant) (tbl : List (Nat × RangeEntry)) : Mach :=
  let new := { t with active := tbl, gen := t.gen + 1, switch := none }
  { s.updTenant t.id fun _ => new with resids := s.resids.map fun r => if r.moved t new then r.mark else r }

/-- R221: has a process of a tenant read some of the elements of a host-shared vector load: the rest comes under the same
table, so the hub puts the switch off. -/
def Mach.midLoad (s : Mach) (ten : Nat) : Bool := (List.range s.procs.length).any fun k =>
  let i := (s.ctxOf k).issued
  (i.host.isSome || !i.hostVal.isEmpty) && ((s.proc k).bind fun p => (s.net p.net).map (·.tenant)) == some ten

def execRangeTableSwitch (tenant : Nat) (s : State) : Host.Outcome State Fault Refusal :=
  match s.toMach.tenant tenant with
  | none => .next s
  | some t => match t.switch with
    | none => .next s
    | some tbl =>
      if s.toMach.midLoad tenant then .next s else .next { s with toMach := (s.toMach.switchTable t tbl).tock }

/-! The run digest's switches. -/

def execDgon (x : F2) (s : State) : Host.Outcome State Fault Refusal :=
  chain x.len s fun m => do
    needTenant m
    .ok { m := { m with ctx := { m.ctx with dgOn := true } } }

def execDgoff (x : F2) (s : State) : Host.Outcome State Fault Refusal :=
  chain x.len s fun m => do
    needTenant m
    .ok { m := { m with ctx := { m.ctx with dgOn := false, dgDone := m.ctx.dgDone || m.ctx.dgOn } } }

/-! Diagnostic counters. -/

/-- R230: does a selector name a counter. DEDUCED: log entry 43. -/
def selectorOk (w : Nat) : Bool :=
  let num := bitsAt w 0 8
  let dom := bitsAt w 8 2
  bitsAt w 10 22 == 0 && bitsAt w 44 20 == 0 && dom < 3 && num < (if dom = 1 then 5 else 8) &&
  (if dom = 2 then bitsAt w 32 12 < Config.servers else bitsAt w 32 12 == 0)

/-- R230: the requests of the transfers so far that moved records and residency images between tiles and rows that no range maps. -/
def Mach.rowRequests (s : Mach) (num spot : Nat) : Word :=
  (List.range s.rowUses).foldl (fun n j => n + Config.rowRequests j num spot) 0

/-- R230: the counter's value; those that count time or traffic are free. DESIGN CHOICE: log entry 9. -/
def Mach.counterValue (s : Mach) (dom num spot : Nat) : Word := match dom with
  | 0 => match num with
    | 0 => s.ctx.cycle
    | 1 => s.ctx.retired
    | 5 => s.ctx.diag[3]
    | 6 => s.ctx.diag[4]
    | 7 => s.ctx.diag[5]
    | _ => Config.diagnostic s.tick dom num
  | 1 => if num < 2 || num = 3 then (s.tile spot).ctr[num]?.getD 0 else Config.diagnostic s.tick dom num
  | _ => if num = 3 || num = 4 || num = 5 then Config.diagnostic s.tick dom num
    else (s.server spot).ctr[num]?.getD 0 + (if num < 2 then s.rowRequests num spot else 0)

def rdctr (x : F2) (s : Mach) : Try Done := do
  let w := (s.g x.aN).toNat
  let dom := bitsAt w 8 2
  if dom = 1 || dom = 2 then needTenant s
  if !selectorOk w then illegal 0x0C (s.g x.aN)
  .ok { m := s.setG x.dN (s.counterValue dom (bitsAt w 0 8) (if dom = 1 then s.here else bitsAt w 32 12)) }

def execRdctr (x : F2) (s : State) : Host.Outcome State Fault Refusal := chain x.len s (rdctr x)

end Sys2Proof.Machine
end

