-- ==== Sys2Proof/Machine/Level.lean ====
section
/-! DEFINITION. The level table and what becomes of its entries (R238 to R243): completion records, the end of processes and
networks, cancels, dependences (R254), the run digest (R228), the dispatch of networks (R252, R255, R257) and their start
(R256). -/

namespace Sys2Proof.Machine

/-! Entries (R239). -/

def Entry.isAt (e : Entry) (ten level index : Nat) : Bool := e.tenant == ten && e.level == level && e.index == index
def Mach.entry (s : Mach) (ten level index : Nat) : Option Entry := s.entries.find? fun e => e.isAt ten level index
def Mach.isLive (s : Mach) (ten level index : Nat) : Bool := ((s.entry ten level index).map (·.live)).getD false
def Mach.updEntry (s : Mach) (ten level index : Nat) (f : Entry → Entry) : Mach :=
  { s with entries := s.entries.map fun e => if e.isAt ten level index then f e else e }

/-- A submission claims an entry: the old record is lost. -/
def Mach.claim (s : Mach) (e : Entry) : Mach :=
  { s with entries := (s.entries.filter fun y => !y.isAt e.tenant e.level e.index) ++ [e] }

/-- R238: one more member of an entry. -/
def Mach.addMember (s : Mach) (ten level index : Nat) : Mach :=
  s.updEntry ten level index fun e => { e with members := e.members + 1, left := e.left + 1 }

/-- R239, R208: the waits on an entry that has become final have their answer, whatever the entry is used for next. -/
def Mach.answerWaits (s : Mach) (e : Entry) (r : Record) : Mach :=
  (List.range s.procs.length).foldl (fun m k => match (m.proc k).bind (·.wait) with
    | some w =>
      if w.kind == .read && w.code == 0x07 && w.val.toNat / 2 ^ 62 == e.level && w.ref == e.index &&
          ((m.netOf k).map fun x => x.tenant == e.tenant).getD false then
        let c := m.ctxOf k
        m.setCtxOf k { c with issued := { c.issued with answer := c.issued.answer.or (some r) } }
      else m
    | none => m) s

/-- R240, R239: a record is fixed: posted to its submitting queue, handed to those that wait for it, and counted one level up. -/
def Mach.fixRecord (s : Mach) (e : Entry) (r : Record) : Mach :=
  let s := (s.updEntry e.tenant e.level e.index fun e => { e with live := false, record := some r }).answerWaits e r
  let s := if r.queue < 65536 then { s with outbox := s.outbox ++ [{ mgmt := false, queue := r.queue, body := .completion r }] } else s
  s.updEntry e.tenant (e.level + 1) e.parent fun p =>
    { p with
      left := p.left - 1, statuses := p.statuses ++ [r.status], discarded := p.discarded + r.discarded
      fault := if r.status = 3 && p.fault.isEmpty then r.fault else p.fault }

/-- R241: the status of an entry above the networks. -/
def statusOf (l : List Nat) : Nat := ([4, 3, 2, 5, 6].find? l.contains).getD 1

def saturate32 (n : Nat) : Nat := min n (2 ^ 32 - 1)

/-! The hub's own accesses, under a tenant's active table. -/

/-- A byte that the hub reads for a network, or a free one where there is none to read. DESIGN CHOICE: log entry 56. -/
def Mach.hubByte (s : Mach) (nid : Nat) (key : Option Nat) (a : Nat) : Byte := match key with
  | some k => if s.poisoned k 1 then Config.lostByte nid a else Mem.get s.mem k
  | none => Config.lostByte nid a

/-- R257: the last value of a watermark counter. -/
def Mach.markValue (s : Mach) (x : Net) (a : Word) : Word :=
  let key := s.hubCounter x.tenant a
  BitVec.ofNat 64 (natOfBytes ((List.range 8).map fun i => s.hubByte x.nid (key.map (· + i)) (a.toNat + i)))

/-- n bytes of a global range of a network's tenant. -/
def Mach.rangeBytes (s : Mach) (x : Net) (a : Word) (n : Nat) : List Byte :=
  (List.range n).map fun i =>
    let w := a + BitVec.ofNat 64 i
    s.hubByte x.nid (match s.translate (some x.tenant) w 1 true false with
      | .ok x => some x.key
      | .error _ => none) w.toNat

/-! The run digest (R228, R229). -/

/-- R228: the message M. -/
def Mach.digestText (s : Mach) (x : Net) (im : Image) : List Byte :=
  (List.range x.chans.length).flatMap (fun i => bytesOfNat 8 i ++ bytesOfWord ((x.chans[i]?).elim 0 (·.check))) ++
  (List.range x.pools.length).flatMap (fun i => bytesOfNat 8 (2 ^ 32 + i) ++ bytesOfWord ((x.pools[i]?).elim 0 (·.check))) ++
  im.digests.flatMap fun d => bytesOfWord d.1 ++ bytesOfNat 8 d.2 ++ s.rangeBytes x d.1 d.2

/-- R228: is a digest produced: some context was done, none was still on. -/
def Net.digestDue (x : Net) : Bool := x.digests.any (·.2) && x.digests.all fun y => !y.1

/-- R229: the 256 bytes of a digest. -/
def Mach.digestOf (s : Mach) (x : Net) (im : Image) : Option (List Byte) :=
  if x.digestDue then
    let h := bytesOfNat 64 (sha512 (s.digestText x im)).toNat
    let ids := bytesOfNat 4 x.nid ++ bytesOfNat 8 im.handle
    some (padTo 256 (h ++ bytesOfNat 132 (Config.identitySign x.nid (h ++ ids)).toNat ++ ids))
  else none

/-! The end of a process and of a network. -/

/-- R278, R243: of what a discarded process had on its way, the requests that no server has accepted are discarded with it; stores
that have left for other tiles are performed. -/
def Mach.dropTraffic (s : Mach) (k : Nat) : Mach :=
  let s := s.drainTiles k none
  { s with
    reqs := s.reqs.filter fun r => r.proc != k || r.stage == .accepted || r.stage == .merging
    copies := s.copies.filter fun c => c.proc != k
    nears := s.nears.filter fun n => n.proc != k }

/-- R157: the array residencies of process k are revoked. -/
def Mach.revokeOwned (s : Mach) (k : Nat) : Mach :=
  (List.range s.resids.length).foldl (fun m i => match m.resids[i]? with
    | some r => if !r.bank && r.owner == k then m.revoke i else m
    | none => m) s

/-- The context of a process that has ended: no place, no accumulator tiles, no stream bindings. -/
def Ctx.ended (c : Ctx) : Ctx :=
  { c with place := none, mOn := false, mN := 0, streams := Vector.replicate 8 {}, issued := {}, fbuf := [] }

def Proc.ended (p : Proc) : Proc :=
  { p with st := .exited, wait := none, record := none, req := false, stop := none, held := false, gated := false,
           cancel := false, saved := none, parts := none }

def Mach.hasExited (s : Mach) (k : Nat) : Bool := (s.proc k).map (·.st) == some .exited

/-- R239, R314: one process of a network fewer that is not final, in the entry that its home hub holds. -/
def Mach.oneLess (s : Mach) (k : Nat) : Mach := match s.netOf k with
  | some x => if x.guest then s else s.updEntry x.tenant 0 x.index fun e => { e with left := e.left - 1 }
  | none => s

/-- R270: process k leaves its tile: what others have sent to the tile is performed first. -/
def Mach.vacate (s : Mach) (k : Nat) : Mach := if s.isPlaced k then s.landAt (s.ctxOf k).tile else s

/-- R243 step 3: process k is discarded. -/
def Mach.endProcess (s : Mach) (k : Nat) : Mach :=
  let s := (((s.dropTraffic k).vacate k).select k).revokeOwned k
  ({ s with ctx := s.ctx.ended }.updProc k Proc.ended).oneLess k

/-- The live network of a tenant at an index, of which this hub is the home. -/
def Mach.liveNet (s : Mach) (ten index : Nat) : Option Nat :=
  (List.range s.nets.length).find? fun n => ((s.net n).map fun x => x.live && !x.guest && x.tenant == ten && x.index == index).getD false

/-- R254: a submission that was never dispatched becomes final. -/
def Mach.dropSub (s : Mach) (i status : Nat) : Mach := match s.subs[i]? with
  | none => s
  | some b =>
    let s := { s with subs := listSet s.subs i fun b => { b with ended := some status } }
    match s.entry b.tenant 0 b.net.index with
    | none => s
    | some e => s.fixRecord e
      { status := status, level := 0, index := b.net.index, nid := 0, discarded := 0
        members := ((s.image b.net.image).map (·.procs.length)).getD 0, wmark := 0, queue := b.queue, fault := [] }

/-- R243: the processes of a network are to be discarded: those not placed at once, the others at a chain boundary. A
cancel stops a cut (R308). -/
def Mach.markNet (s : Mach) (n : Nat) (dep : Bool) : Mach := match s.net n with
  | none => s
  | some x =>
    let s := s.updNet n fun x => { x with cancel := true, depCut := x.depCut || dep, cut := none, active := true }
    x.procs.foldl (fun m k =>
      if m.hasExited k then m
      else if m.isPlaced k then m.updProc k fun p => { p with cancel := true }
      else m.endProcess k) s

/-- R254: can a dependence of submission i no longer be met. -/
def Mach.unmeetable (s : Mach) (i : Nat) : Bool := match s.subs[i]? with
  | none => false
  | some b =>
    b.ended.isNone && ((b.home.bind s.net).map fun x => !x.cancel).getD true &&
    s.deps.any fun d => d.dst == i && d.kind != .anyCompletion && match (s.subs[d.src]?).bind (·.ended) with
      | some st => st != 1 && st != 6
      | none => false

/-- R254: dependants that can no longer run become dependency-cancelled, one after another. -/
def Mach.settleDeps : Nat → Mach → Mach
  | 0, s => s
  | k + 1, s => match (List.range s.subs.length).find? s.unmeetable with
    | none => s
    | some i => Mach.settleDeps k (match (s.subs[i]?).bind (·.home) with
      | some n => s.markNet n true
      | none => s.dropSub i 5)

def Mach.depCancel (s : Mach) : Mach := s.settleDeps (s.subs.length + 1)

/-- R224: the network that last completed at an index with an image. -/
def Tenant.completed (t : Tenant) (index image nid : Nat) : Tenant :=
  { t with ended := (t.ended.filter fun y => !(y.1 == index && y.2.1 == image)) ++ [(index, image, nid)] }

/-- R239, R240: a network becomes final. -/
def Mach.endNet (s : Mach) (n status : Nat) : Mach := match s.net n with
  | none => s
  | some x =>
    let s := x.procs.foldl (fun m k => if m.hasExited k then m else m.endProcess k) s.settle
    let r : Record :=
      { status := status, level := 0, index := x.index, nid := x.nid, discarded := saturate32 x.discard
        members := x.procs.length, wmark := (x.outMark.map (s.markValue x)).getD 0, queue := x.queue
        fault := if status = 3 then (x.faults.head?.map (·.2)).getD [] else []
        digest := if status = 1 then (s.image x.image).bind (s.digestOf x) else none }
    let s := s.updNet n fun x => { x with live := false, cut := none }
    let s := if status = 1 then s.updTenant x.tenant fun t => t.completed x.index x.image x.nid else s
    let s := { s with subs := s.subs.map fun (b : Sub) => if b.home == some n then { b with ended := some status } else b }
    let s := match s.entry x.tenant 0 x.index with
      | some e => s.fixRecord e r
      | none => s
    s.depCancel

/-- R239, R241: an entry whose members are all final, or whose network has come to its end; a job ends as soon as every phase that it
has had is final. DEDUCED: log entry 117. -/
def Mach.finishEntry (s : Mach) (ten level index : Nat) : Mach := match s.entry ten level index with
  | none => s
  | some e =>
    if !e.live then s
    else if level = 0 then match s.liveNet ten index with
      | none => s
      | some n => match s.net n with
        | none => s
        | some x =>
          let gone := x.procs.all s.hasExited
          if x.cancel then (if gone then s.endNet n (if x.depCut then 5 else 2) else s)
          else if x.fatal then s.endNet n 3
          else if x.cut.isNone && gone && x.chans.all (·.flight.isEmpty) && x.pools.all (·.puts.isEmpty) then s.endNet n 1
          else s
    else if e.left = 0 && (level = 1 || e.cancel || e.closed || (level = 3 && 0 < e.members)) then
      let status := statusOf (if e.cancel then 2 :: e.statuses else e.statuses)
      s.fixRecord e
        { status := status, level := level, index := index, nid := 0
          discarded := saturate32 e.discarded, members := e.members, wmark := 0, queue := e.queue
          fault := if status = 3 then e.fault else [] }
    else s

/-! Cancels (R243). -/

/-- R207: the hub accepts a cancel: an entry that is unused or final is left as it is. -/
def Mach.askCancel (s : Mach) (ten level index : Nat) : Mach :=
  s.updEntry ten level index fun e => { e with cancel := e.cancel || e.live }

/-- R243 for a network that is live in the level table; its dependants are settled when the whole target is done (step 5). -/
def Mach.cancelNet (s : Mach) (ten index : Nat) : Mach :=
  match (List.range s.subs.length).find? fun i => match s.subs[i]? with
    | some b => b.tenant == ten && b.net.index == index && b.home.isNone && b.ended.isNone
    | none => false with
  | some i => s.dropSub i 2
  | none => match s.liveNet ten index with
    | some n => s.markNet n false
    | none => s

/-- The entry and every live entry beneath it. -/
def Mach.cancelBelow : Nat → Mach → Nat → Nat → Nat → Mach
  | 0, s, _, _, _ => s
  | f + 1, s, ten, level, index =>
    let s := s.updEntry ten level index fun e => { e with cancel := true }
    if level = 0 then s.cancelNet ten index
    else (s.entries.filter fun e => e.tenant == ten && e.level + 1 == level && e.parent == index && e.live).foldl
      (fun m e => Mach.cancelBelow f m ten e.level e.index) s

def execCancelPropagate (tenant level index : Nat) (s : State) : Host.Outcome State Fault Refusal :=
  match s.toMach.entry tenant level index with
  | none => .next s
  | some e =>
    if e.live && e.cancel then .next { s with toMach := (s.toMach.cancelBelow 4 tenant level index).depCancel.tock } else .next s

/-- R243, R315: cancelled (0x19): the hub ends the process at a chain boundary; there is never a record. -/
def execCancelledTrap (proc : Nat) (s : State) : Host.Outcome State Fault Refusal :=
  match s.toMach.proc proc with
  | none => .next s
  | some p => if p.cancel then .next { s with toMach := (s.toMach.endProcess proc).tock } else .next s

/-! A network comes into being. -/

/-- R296: the 4 KiB granules that so many slots take, for a base reservation or for an extension (R299); the base reservations of an image. -/
def baseGranules (slots : Nat) (vector : Bool) : Nat := (slots * tokenBytes vector + 4095) / 4096
def Image.granules (im : Image) : List Nat :=
  im.chans.map (fun c => baseGranules c.slots c.vector) ++ im.pools.map fun p => baseGranules p.slots p.vector

/-- R296: where reservation i begins in the spill region, of the channels and then of the pools, and behind them the growth pool. -/
def Image.spillAt (im : Image) (i : Nat) : Nat := 4096 * (im.granules.take i).foldl (· + ·) 0
def Image.growthAt (im : Image) : Nat := im.spillAt im.granules.length

/-- R273: the MiB of every stack that lie wholly within the pieces of the spread view that a job was given. -/
def Tenant.wholeMib (t : Tenant) : List (Nat × Nat) :=
  (t.rows.filter fun i => i % 12 == 0 && (List.range 12).all fun j => t.rows.contains (i + j)).map fun i => (i / 12, i / 12 + 1)

/-- R296: rows of a tenant's server memory that no range maps, by stack; any stack's for a tenant that was given none. -/
def Mach.roomFor (s : Mach) (ten : Nat) : List (Nat × Nat × Nat) :=
  let t := (s.tenant ten).getD { id := ten }
  let on := fun (k : Nat) (l : List (Nat × Nat)) => l.map fun y => (k, y)
  if t.rows.isEmpty then
    (if t.stackNos.isEmpty then List.range Config.stackCount else t.stackNos).flatMap fun k =>
      on k (gaps 0 (sortBy (·.1) (s.takenRows k))).reverse
  else (List.range Config.stackCount).flatMap fun k => on k (t.wholeMib.filter fun y => !meetsRows (s.heldRows k) y)

/-- n MiB from intervals of rows, each with its stack, from the end of each. -/
def takeSpread : Nat → List (Nat × Nat × Nat) → Option (List (Nat × Nat × Nat))
  | 0, _ => some []
  | _ + 1, [] => none
  | n + 1, (k, a, b) :: r => (takeSpread (n + 1 - (b - a)) r).map fun l => (k, max a (b - (n + 1)), b) :: l

/-- R296: rows for the spill region of a network, in one stack or over several. DESIGN CHOICE: log entry 116. -/
def Mach.spillRows (s : Mach) (ten bytes : Nat) : List (Nat × Nat × Nat) :=
  (takeSpread ((bytes + 2 ^ 20 - 1) / 2 ^ 20) (s.roomFor ten)).getD []

/-- R242: launches at an index so far. -/
def Tenant.launched (t : Tenant) (index : Nat) : Nat := ((t.launches.find? fun y => y.1 == index).map (·.2)).getD 0
def Tenant.launch (t : Tenant) (index : Nat) : Tenant :=
  { t with launches := (t.launches.filter fun y => y.1 != index) ++ [(index, t.launched index + 1)] }

/-- The processes of a network, unplaced, in ascending index; they become ready together (R260). -/
def Mach.addProcs (s : Mach) (n : Nat) (im : Image) (args : List (List Word)) : Mach :=
  let (o, s) := s.takeKey
  (List.range im.procs.length).foldl (fun m i => match im.procs[i]? with
    | none => m
    | some d =>
      let d := match args[i]? with
        | some a => { d with args := a }
        | none => d
      { m with procs := m.procs ++ [{ net := n, index := i, decl := d, order := o }] }) s

/-- What a launch asks for; `replay` names the source of its seeds. -/
structure Launch where
  tenant  : Nat
  index   : Nat
  queue   : Nat
  graph   : Nat
  nid     : Nat
  args    : List (List Word) := []
  replay  : Option Nat := none
  marks   : List Mark := []
  outMark : Option Word := none
  deriving DecidableEq, Repr

/-- R238, R242: the network with its processes, channels, pools and barriers. -/
def Mach.openNet (s : Mach) (im : Image) (l : Launch) : Mach × Nat :=
  let n := s.nets.length
  let k := s.procs.length
  let x : Net :=
    { nid := l.nid, index := l.index, tenant := l.tenant, image := im.handle, queue := l.queue, graph := l.graph
      procs := (List.range im.procs.length).map (k + ·)
      chans := im.chans.map fun d => { decl := d, slots := d.slots, free := d.slots }
      pools := im.pools.map fun d => { decl := d, slots := d.slots }
      bars := im.bars.map fun b => { id := b.1, count := b.2 }
      lap := im.lap, grow := (im.spill - im.growthAt) / 4096, spill := s.spillRows l.tenant im.spill, replay := l.replay
      marks := l.marks, outMark := l.outMark, declared := im.resids.map fun _ => 0 }
  (({ s with nets := s.nets ++ [x] }).addProcs n im l.args, n)

/-- R157: declared bank residencies are created and their fills begin; none where a quota or a stack has no room. -/
def Mach.declareBanks (s : Mach) (n ten : Nat) (im : Image) : Option Mach :=
  (List.range im.resids.length).foldl (fun acc i => acc.bind fun m => match im.resids[i]? with
    | none => some m
    | some d =>
      if !d.bank then some m
      else
        let k := ((m.net n).bind fun x => (x.procs[d.owner]?).or x.procs.head?).getD 0
        match m.newBank ten k d.stack ((d.bytes + 2 ^ 20 - 1) / 2 ^ 20) (m.quotaBank ten d.stack) d.refresh with
        | .error _ => none
        | .ok (h, m) =>
          let m := m.setResid (m.resids.length - 1) fun r =>
            { r with state := .loading, load := d.source, filler := k, pinned := d.pinned }
          some (m.updNet n fun x => { x with declared := x.declared.set i h })) (some s)

/-- R252: every pinned process of a network placed, in ascending index; none where one finds no place. -/
def Mach.seatPinned (s : Mach) (n : Nat) : Option Mach :=
  (((s.net n).map (·.procs)).getD []).foldl (fun acc k => acc.bind fun m =>
    if ((m.proc k).map fun p => p.decl.pinned && p.st == .unplaced).getD false then (m.findPlace k).map (m.seat k) else some m) (some s)

/-- R256: a pre-placed image runs one network at a time. -/
def Mach.imageBusy (s : Mach) (im : Image) : Bool :=
  im.ready && s.nets.any fun x => x.live && x.image == im.handle && x.tenant == im.tenant

/-- R252, R255: the network of a launch, with its pinned processes placed unless their contexts are reserved. -/
def Mach.start (s : Mach) (im : Image) (l : Launch) : Option (Mach × Nat) :=
  if s.imageBusy im then none
  else
    let (m, n) := s.openNet im l
    (m.declareBanks n l.tenant im).bind fun m =>
      (if im.ready then some m else m.seatPinned n).map fun m => (m.updTenant l.tenant (·.launch l.index), n)

/-- R242: the id of the next network at an index. -/
def Mach.nextNid (s : Mach) (ten index : Nat) : Nat := index + 2 ^ 16 * (((s.tenant ten).elim 0 (·.launched index)) % 2 ^ 16)

/-- R252, R30: could an image's pinned processes be placed with nothing else placed, and do its declared residencies keep
within the quotas. -/
def Mach.couldRun (s : Mach) (ten : Nat) (im : Image) : Bool :=
  let bare : Mach := { s with procs := [], nets := [], resids := [], cur := none, ctx := {}, images := [{ im with ready := false }] }
  let (m, n) := bare.openNet { im with ready := false } { tenant := ten, index := 0, queue := 0, graph := 0, nid := 0 }
  (m.seatPinned n).isSome &&
  (List.range im.procs.length).all (fun i => im.declaredArrays i ≤ s.quotaArr ten) &&
  (List.range Config.stackCount).all fun st =>
    ((im.resids.filter fun d => d.bank && d.stack == st).map fun d => (d.bytes + 2 ^ 20 - 1) / 2 ^ 20).foldl (· + ·) 0 ≤ s.quotaBank ten st

/-! Dispatch (R254, R255). -/

def Mach.subCost (s : Mach) (i : Nat) : Nat := ((s.subs[i]?).bind fun b => s.image b.net.image).elim 0 (·.cost)

/-- R255: the remaining path. -/
def Mach.pathOf (s : Mach) : Nat → Nat → Nat
  | 0, _ => 0
  | f + 1, i => s.subCost i + ((s.deps.filter fun d => d.src == i).map fun d => s.pathOf f d.dst).foldl max 0

/-- R254: is a dependence met. An edge from a network that was cut waits for the network resumed from it. -/
def Mach.depMet (s : Mach) (d : Dep) : Bool := match s.subs[d.src]? with
  | none => true
  | some a => match d.kind with
    | .completion => a.ended == some 1
    | .anyCompletion => a.ended.isSome && a.ended != some 6
    | .watermark => a.home.isSome && a.ended != some 6

def Mach.subReady (s : Mach) (i : Nat) : Bool := match s.subs[i]? with
  | none => false
  | some b => b.home.isNone && b.ended.isNone && !s.unmeetable i &&
      ((s.entry b.tenant 0 b.net.index).map fun e => !e.cancel).getD false &&
      s.deps.all fun d => d.dst != i || s.depMet d

/-- R255: highest remaining path, then lower queue, then older. -/
def Mach.dispatchOrder (s : Mach) (ten : Nat) : List Nat :=
  let ready := (List.range s.subs.length).filter fun i => ((s.subs[i]?).map fun b => b.tenant == ten).getD false && s.subReady i
  let key := fun i => ((2 ^ 128 - s.pathOf s.subs.length i) * 2 ^ 16 + ((s.subs[i]?).elim 0 (·.queue))) * 2 ^ 64 + i
  sortBy key ready

/-- Submission i dispatched, where its pinned processes can be placed. -/
def Mach.dispatchSub (s : Mach) (i : Nat) : Option Mach := match s.subs[i]? with
  | none => none
  | some b => (s.image b.net.image).bind fun im =>
    let marks := (s.deps.filter fun d => d.dst == i && d.kind == .watermark).filterMap fun d =>
      ((s.subs[d.src]?).bind (·.home)).map fun n => ({ producer := n, ctr := d.ctr } : Mark)
    let l : Launch :=
      { tenant := b.tenant, index := b.net.index, queue := b.queue, graph := b.net.graph
        nid := s.nextNid b.tenant b.net.index, args := b.args, replay := b.net.replay, marks := marks
        outMark := (s.deps.find? fun d => d.src == i && d.kind == .watermark).map (·.ctr) }
    (s.start im l).map fun (m, n) =>
      ({ m with subs := listSet m.subs i fun b => { b with home := some n } }).initMarks i b.tenant

def execNetworkDispatch (tenant : Nat) (s : State) : Host.Outcome State Fault Refusal :=
  match (s.toMach.dispatchOrder tenant).findSome? s.toMach.dispatchSub with
  | some m => .next { s with toMach := m.tock }
  | none => .next s

/-- R256, R252: the start message: reserved contexts take their start values, and with every pinned process placed the
network runs. -/
def Mach.startNet (s : Mach) (n : Nat) : Option Mach := match s.net n with
  | none => none
  | some x =>
    if !x.live || x.started || x.cancel || x.resumed then none
    else
      let pre := ((s.image x.image).map (·.ready)).getD false
      let s := if pre then x.procs.foldl (fun m k => if m.isReady k then (match m.findPlace k with
        | some pl => m.seat k pl
        | none => m) else m) s else s
      if x.procs.all fun k => ((s.proc k).map fun p => !p.decl.pinned || p.st != .unplaced).getD true then
        some (s.updNet n fun x => { x with started := true, active := true })
      else none

def execLaunchStart (net : Nat) (s : State) : Host.Outcome State Fault Refusal :=
  match s.toMach.startNet net with
  | some m => .next { s with toMach := m.tock }
  | none => .next s

end Sys2Proof.Machine
end

