-- ==== Sys2Proof/Machine/Fabric.lean ====
section
/-! DEFINITION. Channels and pools under way: arrivals, slot returns, re-binding (R292 to R295), lap closes (R205, R258), and
the Snowplough (R297 to R302). -/

namespace Sys2Proof.Machine

/-! Tokens on their way. -/

/-- R294: a token held for the reader: in its tile's buffer while the reader is placed, a base slot is free and no older token
stands in spill; else in spill. DEDUCED: log entry 118. -/
def Chan.hold (c : Chan) (t : Tok) (placed : Bool) : Chan :=
  { c with buf := c.buf ++ [t]
           inTile := if placed && c.inTile = c.buf.length && c.inTile < c.decl.slots then c.inTile + 1 else c.inTile }

/-- R292, R294, R304: the oldest token in flight reaches its reader: held in order, discarded where the reader has exited; a
gate marks the channel. -/
def Net.arrive (x : Net) (ch : Nat) (placed : Bool) : Net := match x.chan ch with
  | none => x
  | some c => match c.flight with
    | [] => x
    | .gate :: r => x.updChan ch fun c => { c with flight := r, gated := x.cut.isSome }
    | t :: r =>
      let x := x.updChan ch fun c =>
        let c := { c with flight := r, arrivals := (c.arrivals + 1) % 2 ^ 32 }
        if c.rExited then c else c.hold t placed
      if c.rExited && (t matches .scalar _ | .vector _ | .fault _) then { x with discard := x.discard + 1 } else x

/-- R294: does the reader of a channel hold a context. -/
def Mach.readerPlaced (s : Mach) (x : Net) (c : Chan) : Bool := ((x.procs[c.decl.rproc]?).map s.isPlaced).getD false

/-- The next arrival on a channel of network n. -/
def Mach.arriveOn (s : Mach) (n ch : Nat) : Mach := match s.net n with
  | some x => match x.chan ch with
    | some c => s.updNet n fun y => y.arrive ch (s.readerPlaced x c)
    | none => s
  | none => s

/-- Tokens and slot returns of a channel that a span link carries arrive with its flits (R314). -/
def execTokenArrival (net ch : Nat) (s : State) : Host.Outcome State Fault Refusal :=
  match (s.toMach.net net).bind fun x => x.chan ch with
  | none => .next s
  | some c =>
    if c.flight.isEmpty || c.span.isSome then .next s
    else .next { s with toMach := (s.toMach.arriveOn net ch).tock }

def execSlotReturn (net ch : Nat) (s : State) : Host.Outcome State Fault Refusal :=
  match (s.toMach.net net).bind fun x => x.chan ch with
  | none => .next s
  | some c =>
    if c.returns = 0 || c.span.isSome then .next s
    else .next { s with toMach := (s.toMach.updNet net fun x =>
      x.updChan ch fun c => { c with returns := c.returns - 1, free := c.free + 1 }).tock }

/-! Re-binding (R295, R314). -/

/-- R295 step 2: every token sent on a route within the package is delivered. -/
def Mach.deliverAll (s : Mach) (n ch : Nat) : Mach :=
  (List.range ((((s.net n).bind fun x => x.chan ch).map (·.flight.length)).getD 0)).foldl (fun m _ => m.arriveOn n ch) s

/-- R295 steps 3 and 4: a placed reader's tile takes the first tokens, as far as its base slots go, and the writer has the new
route. -/
def Chan.bound (c : Chan) (placed : Bool) (route : Option Nat) : Chan :=
  { c with inTile := if placed then min c.buf.length c.decl.slots else 0, span := route, sent := 0, rebind := false }

/-- R314: the lowest-numbered working span link. -/
def State.workingLink (s : State) : Option Nat := firstBelow 12 fun k => ((s.port.links[k]?).map (·.up)).getD false

def trapBytes (t : Trap) : List Byte :=
  [BitVec.ofNat 8 t.cause, BitVec.ofNat 8 t.reason, BitVec.ofNat 8 t.opnd, BitVec.ofNat 8 (t.whole.toNat + 2 * t.raw.toNat)] ++
    bytesOfNat 4 t.elem ++ bytesOfWord t.value ++ bytesOfNat 8 t.ref

def trapOfBytes (b : List Byte) : Trap :=
  { cause := field b 0 1, reason := field b 1 1, opnd := field b 2 1, elem := field b 4 4, value := BitVec.ofNat 64 (field b 8 8)
    ref := field b 16 8, whole := field b 3 1 % 2 == 1, raw := field b 3 1 / 2 % 2 == 1 }

/-- What a token is to the other hub, and its bytes. -/
def Tok.what : Tok → Nat
  | .scalar _ => 1
  | .vector _ => 2
  | .eos => 3
  | .gate => 4
  | .fault _ => 5

def Tok.data : Tok → List Byte
  | .fault t => trapBytes t
  | t => t.words.flatMap bytesOfWord

def tokOf (what : Nat) (b : List Byte) : Tok := match what with
  | 1 => .scalar (BitVec.ofNat 64 (field b 0 8))
  | 2 => .vector (BitVec.ofNat 4096 (field b 0 512))
  | 4 => .gate
  | 5 => .fault (trapOfBytes b)
  | _ => .eos

/-- Bytes of the data of a token. -/
def tokSize (what : Nat) : Nat := match what with
  | 1 => 8
  | 2 => 512
  | 5 => 24
  | _ => 0

/-- A token as the bulk class carries it, and tokens read back. -/
def Tok.bytes (t : Tok) : List Byte := bytesOfNat 8 t.what ++ t.data

def toksOf : Nat → List Byte → List Tok
  | 0, _ => []
  | n + 1, b => if b.length < 8 then [] else
    let w := field b 0 8
    tokOf w (b.drop 8) :: toksOf n (b.drop (8 + tokSize w))

/-- What stands before a transfer of the bulk class: what it is (a process 1, the tokens of a channel 2, a network 3, a snapshot 4) with
marks from bit 8 on (a network whose home is the other hub, a process that a cut holds), the network, its tenant, the process or the
channel, the bytes that follow, and those of a record among them. DESIGN CHOICE: log entry 122. -/
def bulkHead (what nid ten id len rcd : Nat) : List Byte :=
  bytesOfNat 4 what ++ bytesOfNat 4 nid ++ bytesOfNat 4 id ++ bytesOfNat 4 ten ++ bytesOfNat 8 len ++ bytesOfNat 8 rcd

def Net.bulkHead (x : Net) (what id len rcd : Nat) : List Byte :=
  Sys2Proof.Machine.bulkHead (what + 256 * x.guest.toNat) x.nid x.tenant id len rcd

/-- What the bulk class carries of a channel: its check, its marks, and the tokens held. -/
def Chan.bytes (c : Chan) : List Byte :=
  bytesOfWord c.check ++ bytesOfNat 8 (c.rExited.toNat + 2 * c.wExited.toNat + 4 * c.closed.toNat) ++ c.buf.flatMap Tok.bytes

/-- R310: bytes that a span link is to carry in its bulk class. -/
def State.bulkTo (s : State) (link : Nat) (l : List Byte) : State :=
  { s with port := { s.port with links := s.port.links.setIfInBounds link { (s.port.links[link]?.getD {}) with
      bulkOut := (s.port.links[link]?.getD {}).bulkOut ++ l } } }

/-- R295, R314: a re-binding goes through once the old route is empty; the count of free slots and the order of the tokens stay. A
channel between packages takes the lowest-numbered working link, and the tokens held go to a reader that has come to stand on the
other package. DESIGN CHOICE: log entry 80. -/
def State.rebind (s : State) (net ch : Nat) : Option State :=
  match (s.toMach.net net).bind fun x => (x.chan ch).map fun c => (x, c) with
  | none => none
  | some (x, c) =>
    let route := if s.toMach.spans x c.decl then s.workingLink else none
    if !x.live || !c.rebind || c.sent != 0 || (s.toMach.spans x c.decl && route.isNone) then none
    else
      let m := if c.span.isSome then s.toMach else s.toMach.deliverAll net ch
      let body := (((m.net net).bind fun x => x.chan ch).map Chan.bytes).getD []
      let there := s.toMach.isAway x c.decl.rproc
      let s := { s with toMach := m.updNet net fun y => y.updChan ch fun c => { c.bound (s.toMach.readerPlaced x c) route with far := there } }
      some (match s.workingLink with
        | some l => if there && !c.far then s.bulkTo l (x.bulkHead 2 ch body.length 0 ++ body) else s
        | none => s)

def execChannelRebind (net ch : Nat) (s : State) : Host.Outcome State Fault Refusal :=
  match s.rebind net ch with
  | some s' => .next { s' with toMach := s'.toMach.tock }
  | none => .next s

/-! Lap closes (R205, R258, R259). -/

/-- R205: does process k wait in a pool request. -/
def Mach.inPool (s : Mach) (k : Nat) : Bool := match s.proc k with
  | none => false
  | some p => match p.wait with
    | none => false
    | some w => (w.kind == .read && w.code == 0x03 && (s.ctxOf k).issued.got.isNone) || (w.kind == .write && w.pool && !s.waitMet k w)

/-- The processes of a pool's members that have not exited. -/
def Mach.poolMembers (s : Mach) (x : Net) (p : Pool) : List Nat :=
  ((p.decl.members.map (·.1)).eraseDups.filterMap fun i => x.procs[i]?).filter fun k => !s.hasExited k

/-- R205, R308: may the pool's next lap close; a close that would append and serve nothing is not made. DEDUCED: log entry 58. -/
def Mach.mayClose (s : Mach) (x : Net) (p : Pool) : Bool :=
  let live := s.poolMembers x p
  x.live && x.lap != 0 &&
  live.all (fun k => !((s.proc k).map (·.held)).getD false && (p.closed < (s.ctxOf k).lapNo || s.inPool k)) &&
  (live.any (fun k => p.closed ≤ (s.ctxOf k).lapNo) || (!p.gets.isEmpty && !(p.toks.isEmpty && p.puts.isEmpty)) ||
    (live.isEmpty && !p.puts.isEmpty))

/-- R205, R227: the puts of the lap join the pool in order-key order, then in program order. -/
def Pool.append (p : Pool) : Pool :=
  let now := sortBy (·.key) (p.puts.filter fun y => y.lap ≤ p.closed)
  { p with
    toks := p.toks ++ now.map (·.tok)
    check := now.foldl (fun c y => foldTok c y.tok) p.check
    puts := p.puts.filter fun y => p.closed < y.lap }

/-- R205: the unserved requests up to the lap, by lap and then by order key. -/
def Pool.waiting (p : Pool) : List PoolGet :=
  sortBy (fun y => y.lap * 2 ^ 64 + y.key) (p.gets.filter fun y => y.lap ≤ p.closed)

def Mach.closeLap (s : Mach) (n i : Nat) (p : Pool) : Mach :=
  let p := p.append
  let served := p.waiting.zip p.toks
  let s := served.foldl (fun m (y : PoolGet × Tok) =>
    let c := m.ctxOf y.1.proc
    m.setCtxOf y.1.proc { c with issued := { c.issued with got := some y.2 } }) s
  s.updNet n fun x => x.updPool i fun _ =>
    { p with toks := p.toks.drop served.length, gets := p.gets.filter fun g => !(served.any fun y => y.1 == g), closed := p.closed + 1 }

def execLapClose (net pool : Nat) (s : State) : Host.Outcome State Fault Refusal :=
  match s.toMach.net net with
  | none => .next s
  | some x => match x.pools[pool]? with
    | none => .next s
    | some p => if s.toMach.mayClose x p then .next { s with toMach := (s.toMach.closeLap net pool p).tock } else .next s

/-! The Snowplough. -/

/-- R297: how a process counts. -/
inductive Stance where
  | active | onRead | onWrite | absent
  deriving DecidableEq, Repr

/-- R297: a wait that counts as active: on a counter of a watermark edge whose producer is live, or on a live entry. -/
def Mach.waitActive (s : Mach) (x : Net) (k : Nat) (w : Wait) : Bool :=
  (w.code == 0x06 && x.marks.any fun m => ((s.net m.producer).map (·.live)).getD false && match s.waitKey k w with
    | .ok y => s.hubCounter x.tenant m.ctr == some y
    | .error _ => false) ||
  (w.code == 0x07 && s.isLive x.tenant (w.val.toNat / 2 ^ 62) w.ref)

def Mach.stance (s : Mach) (x : Net) (k : Nat) : Stance := match s.proc k with
  | none => .absent
  | some p =>
    let waiting : Stance := match p.wait with
      | none => .active
      | some w =>
        if w.code == 0x08 then (if s.settled k then .onRead else .active)
        else if s.waitMet k w && !p.away then .active
        else match w.kind with
          | .engine => .active
          | .write => .onWrite
          | .read => if s.waitActive x k w then .active else .onRead
    match p.st with
    | .exited => .absent
    | .parked => .onRead
    | .blocked => waiting
    | .unplacedBlocked => waiting
    | .swapped => waiting
    | _ => if p.away then waiting else .active

/-- R298: are all processes of a network blocked or absent, with some blocked. -/
def Mach.stuck (s : Mach) (x : Net) : Bool :=
  x.procs.all (fun k => s.stance x k != .active) && x.procs.any fun k => s.stance x k != .absent

def Net.counts (x : Net) : List (Nat × Nat) := x.chans.map fun c => (c.pushes, c.arrivals)

/-- R314: do processes of a network stand on the other package. -/
def Mach.hasAway (s : Mach) (x : Net) : Bool := x.procs.any fun k => ((s.proc k).map fun p => p.away && p.st != .exited).getD false

/-- R298: may its home hub begin a sweep of the network; none is made during a cut (R308). -/
def Mach.sweepable (s : Mach) (x : Net) : Bool := x.live && x.started && !x.guest && x.cut.isNone && !x.fatal && !x.cancel && s.stuck x

def execSweepFirstPass (net : Nat) (s : State) : Host.Outcome State Fault Refusal :=
  match s.toMach.net net with
  | none => .next s
  | some x =>
    if s.toMach.sweepable x then
      .next { s with toMach := (s.toMach.updNet net fun x => { x with active := false, sweep := .first x.counts, heard := 0 }).tock }
    else .next s

/-- R298: quiescence at the second pass, which the other package of the network has seen as well. DEDUCED: log entry 59. -/
def Mach.quiescent (s : Mach) (x : Net) (first : List (Nat × Nat)) : Bool :=
  s.sweepable x && !x.active && x.counts == first && (!s.hasAway x || x.heard == 4) &&
  x.chans.all (fun c => c.pushes == c.arrivals && c.flight.isEmpty && c.returns == 0 && !c.rebind) &&
  x.procs.all (fun k => s.settled k && !(s.isPlaced k && (s.ctxOf k).streams.toList.any Stream.wants)) &&
  x.pools.all fun p => !s.mayClose x p

/-- The chain at which a process waits. -/
def Mach.waitChain (s : Mach) (k : Nat) : List Half :=
  let c := s.ctxOf k
  match (s.proc k).bind (·.saved), c.place with
  | some (slot, _), none => s.savedChain slot c.pc.toNat
  | _, _ =>
    let hs := c.fbuf.map (·.1)
    match decodeWords hs with
    | .ok _ n => hs.take n
    | .bad _ n => hs.take n

/-- R301, R319: the record that the hub forms of a process at its waiting chain. -/
def Mach.hubRecord (s : Mach) (k : Nat) (t : Trap) : List Word :=
  let c := s.ctxOf k
  let ch := s.waitChain k
  makeRecord t ch.length c.idx.toNat c.place c.nid.toNat c.pc.toNat ch c.tenantLevel false

/-- R299, R301: the hub parks a blocked process, or has the other hub park one that stands there; what its chain has issued stays
issued. DEDUCED: log entry 61. -/
def Mach.parkByHub (s : Mach) (n k : Nat) (t : Trap) : Mach :=
  let r := s.hubRecord k t
  let pc := (s.ctxOf k).next
  if ((s.proc k).map (·.away)).getD false then s.updProc k fun p => { p with ask := some t }
  else (s.updProc k fun p => { p with st := .parked, wait := none, park := pc, record := some r, req := false }).deliver n k
    (s.ctxOf k).idx.toNat r

/-- R301: the deadlock trap of a process by its wait; the arrival count is that of now. -/
def Mach.deadlockTrap (s : Mach) (x : Net) (k : Nat) : Trap := match (s.proc k).bind (·.wait) with
  | none => { cause := 0x17 }
  | some w =>
    let v := if w.code = 0x04 then BitVec.ofNat 64 ((x.barrier w.ref).elim 0 (·.here.length)) else w.val
    { cause := 0x17, reason := w.code, opnd := w.opnd, value := v, ref := w.ref }

/-- R302: the network ends faulted with the deadlock record of process k. -/
def Mach.endDeadlocked (s : Mach) (n k : Nat) (x : Net) : Mach :=
  let r := s.hubRecord k (s.deadlockTrap x k)
  s.updNet n fun y => { y with faults := [((s.ctxOf k).idx.toNat, r)], fatal := true, dead := true, active := true }

/-- R301, R302: a deadlock is declared. -/
def Mach.declareDeadlock (s : Mach) (n : Nat) (x : Net) : Mach :=
  let stopped := x.procs.filter fun k => s.stance x k == .onRead && !s.isParked k
  let rest := stopped.filter fun k => some k != s.supOf n
  let onFaults : Bool := match s.supOf n with
    | some k => stopped.contains k && (((s.proc k).bind (·.wait)).map fun w => w.code == 0x09).getD false
    | none => false
  if onFaults && !rest.isEmpty then
    (rest.foldl (fun m k => m.parkByHub n k (s.deadlockTrap x k)) s).updNet n fun y => { y with dead := true }
  else match (if onFaults then s.supOf n else stopped.head?) with
    | some k => s.endDeadlocked n k x
    | none => s.updNet n fun y => { y with dead := true }

/-- R299: what blocked writers wait on: slots, whether it is a pool, its id. -/
def Mach.blockedOn (s : Mach) (x : Net) : List (Nat × Bool × Nat) :=
  (x.procs.filter fun k => s.stance x k == .onWrite).filterMap fun k => ((s.proc k).bind (·.wait)).map fun w =>
    ((if w.pool then (x.pools[w.ref]?).elim 0 (·.slots) else (x.chan w.ref).elim 0 (·.slots)), w.pool, w.ref)

def Mach.narrowest (s : Mach) (x : Net) : Option (Nat × Bool × Nat) :=
  (sortBy (fun y => (y.1 * 2 + y.2.1.toNat) * 2 ^ 32 + y.2.2) (s.blockedOn x)).head?

/-- R300: slots doubled, taken from the growth pool. -/
def Net.growAt (x : Net) (pool : Bool) (id need : Nat) : Net :=
  let x := { x with grow := x.grow - need }
  if pool then x.updPool id fun p => { p with slots := 2 * p.slots }
  else x.updChan id fun c => { c with free := c.free + c.slots, grown := c.grown + need, slots := 2 * c.slots }

/-- R299: the writer that receives spill exhausted: of those blocked there, the one with the lowest order key. DESIGN CHOICE: log entry 60. -/
def Mach.exhausted (s : Mach) (n : Nat) (x : Net) (pool : Bool) (id : Nat) : Mach :=
  let ks := x.procs.filter fun k => s.stance x k == .onWrite &&
    (((s.proc k).bind (·.wait)).map fun w => w.pool == pool && w.ref == id).getD false
  match (sortBy (fun k => ((s.proc k).map Proc.key).getD 0) ks).head? with
  | some k => s.parkByHub n k
      { cause := 0x18, opnd := Config.unstatedOpnd (s.ctxOf k).freeKey, value := Config.unstatedTval (s.ctxOf k).freeKey, ref := id }
  | none => s

/-- R299: how a quiescent network is dealt with. -/
def Mach.plough (s : Mach) (n : Nat) (x : Net) : Mach := match s.narrowest x with
  | some (slots, pool, id) =>
    let vec := if pool then (x.pools[id]?).elim false (·.decl.vector) else (x.chan id).elim false (·.decl.vector)
    let need := baseGranules slots vec
    if need ≤ x.grow then s.updNet n fun y => y.growAt pool id need else s.exhausted n x pool id
  | none => if x.dead then s else s.declareDeadlock n x

def execSweepSecondPass (net : Nat) (s : State) : Host.Outcome State Fault Refusal :=
  match s.toMach.net net with
  | none => .next s
  | some x => match x.sweep with
    | .idle => .next s
    | .first counts =>
      if s.toMach.hasAway x && x.heard < 4 then .next s else
      let m := if s.toMach.quiescent x counts then s.toMach.plough net x else s.toMach
      .next { s with toMach := (m.updNet net fun y => { y with sweep := .idle }).tock }

end Sys2Proof.Machine
end

