-- ==== Sys2Proof/Machine/Hub.lean ====
section
/-! DEFINITION. `exit` (R89) and the network instructions `launch`, `cancel`, `ccget` and `dgget` (R206 to R208, R229). -/

namespace Sys2Proof.Machine

/-! `exit`. -/

/-- The wait of `exit` (R301, reason 0x08). -/
def exitWait {α : Type} (s : Mach) : Try α := await { kind := .engine, code := 0x08 } s

/-- R89: copies, fills, `mresv` requests and accesses of the context that have not completed. -/
def Mach.outstanding (s : Mach) : Bool :=
  s.copies.any (fun c => c.proc == s.self) || s.nears.any (fun n => n.proc == s.self) ||
  s.resids.any (fun r => r.filler == s.self && r.state == .loading) || s.hostOpen s.self

/-- R89, R189: the earliest fault of a copy or a fill; its delivery clears the entry. -/
def Mach.copyFaultHeld (s : Mach) : Try Unit := match s.ctx.faults with
  | [] => .ok ()
  | f :: r => .error (.trapIn { cause := 0x1C, reason := f.cause, opnd := 5, value := f.addr, ref := f.desc.toNat }
      { s with ctx := { s.ctx with faults := r } })

def Tok.isData : Tok → Bool
  | .eos => false
  | .gate => false
  | _ => true

/-- R89: the reader of a channel exits: what stands in the buffer is discarded. DEDUCED: log entry 97. -/
def Chan.readerExit (c : Chan) : Chan := { c with buf := [], inTile := 0, rExited := true }

/-- R89, R240: the channels of a process that exits, and the data tokens that it discards. -/
def Net.exitOf (x : Net) (i : Nat) : Net :=
  let lost := ((x.chans.filter fun c => c.decl.rproc == i).map fun c => c.buf.countP Tok.isData).foldl (· + ·) 0
  { x with
    chans := x.chans.map fun c =>
      let c := if c.decl.rproc == i then c.readerExit else c
      if c.decl.wproc == i then { c with wExited := true } else c
    discard := x.discard + lost
    active := true }

/-- R89 up to its retirement. -/
def exitChain (s : Mach) : Try Mach := do
  let s := (s.drainTiles s.self none).drainReqs s.self fun _ => true
  if s.outstanding then exitWait s
  s.copyFaultHeld
  s.heldWrites
  .ok s

/-- R89: the process has exited: counted once, its residencies revoked, its context released. -/
def Mach.leave (s : Mach) (x : F2) : Mach :=
  let s := s.retire x.len
  let k := s.self
  let s := s.vacate k
  let idx := s.ctx.idx.toNat
  let marks := (s.ctx.dgOn, s.ctx.dgDone)
  let s := (s.revokeOwned k).updCur fun y => { y.exitOf idx with digests := y.digests ++ [marks] }
  ({ s with ctx := s.ctx.ended }.updProc k Proc.ended).oneLess k

def execExit (x : F2) (s : State) : Host.Outcome State Fault Refusal :=
  match exitChain s.toMach with
  | .ok m => .next { s with toMach := m.leave x }
  | .error (.trap t) => .next { s with toMach := s.toMach.takeTrap x.len t }
  | .error (.trapIn t m) => .next { s with toMach := m.takeTrap x.len t }
  | .error (.wait w m) => .next { s with toMach := m.block w }

/-! `launch`. -/

/-- R206: the arguments of a launch: eight doublewords for each process, at a generic address. -/
def launchArgs (ea : Word) (n : Nat) (s : Mach) : Try (List (List Word) × Mach) := do
  if ea = 0 then .ok ([], s)
  else
    if ea.toNat % 8 ≠ 0 then raise (memTrap 0x03 0 ea)
    let xs ← s.homes ea (64 * n) 8 true false
    let (bs, s) ← s.engineRead ea 0 (joinSpots 8 xs)
    let ws := (pieces (8 * n) 8 bs).map fun b => (BitVec.ofNat 64 (natOfBytes b) : Word)
    .ok (pieces n 8 ws, s)

/-- A pre-placed image of a tenant. -/
def Mach.readyImage (s : Mach) (ten h : Nat) : Option Image :=
  s.images.find? fun i => i.handle == h && i.tenant == ten && i.live && i.ready

/-- R206, R255: the hub's answer to a launch: a graph of one network in the issuer's phase. DEDUCED: log entry 55. -/
def Mach.hubLaunch (s : Mach) (ten index : Nat) (im : Image) (args : List (List Word)) (again : Bool) : Word × Mach :=
  if s.isLive ten 0 index then (BitVec.ofInt 64 (-2), s)
  else
    let phase := ((s.curNet.bind fun x => s.entry ten 1 x.graph).map (·.parent)).getD 0
    let (g, s') := s.takeKey
    let graph := 65536 + g
    let nid := s.nextNid ten index
    let source := ((s.tenant ten).bind fun t => t.ended.find? fun y => y.1 == index && y.2.1 == im.handle).map (·.2.2)
    let l : Launch :=
      { tenant := ten, index := index, queue := 65536, graph := graph, nid := nid, args := args
        replay := if again then some (source.getD nid) else none }
    match s'.start im l with
    | none => (BitVec.ofInt 64 (-3), s)
    | some (m, _) =>
      let m := m.addMember ten 2 phase
      let m := m.claim { tenant := ten, level := 1, index := graph, parent := phase, queue := 65536, members := 1, left := 1 }
      (0, m.claim { tenant := ten, level := 0, index := index, parent := graph, queue := 65536
                    members := im.procs.length, left := im.procs.length })

/-- DEDUCED: log entries 52, 100. -/
def launch (x : F2) (s : Mach) : Try Done := do
  let a := s.g x.aN
  let key ← s.ownLocal a 64 64 true false
  s.clean key 64 a
  let d := s.readNat a key 64
  let index := fieldAt d 8 4
  if 65536 ≤ index || 2 ≤ fieldAt d 12 4 || fieldAt d 24 40 ≠ 0 then illegal 0x0C a
  let s ← s.release
  let ten := s.tenantNo.getD 0
  match s.readyImage ten (fieldAt d 0 8) with
  | none => .ok { m := s.setG x.dN (BitVec.allOnes 64) }
  | some im =>
    let (args, s) ← launchArgs (BitVec.ofNat 64 (fieldAt d 16 8)) im.procs.length s
    let (r, s) := s.hubLaunch ten index im args (fieldAt d 12 4 == 1)
    .ok { m := s.setG x.dN r }

def execLaunch (x : F2) (s : State) : Host.Outcome State Fault Refusal := chain x.len s (launch x)

/-! Targets of the level table. -/

/-- R207: level and index of a target operand. -/
def entryTarget (w : Word) : Try (Nat × Nat) :=
  if bitsAt w.toNat 16 46 ≠ 0 then illegal 0x0C w else .ok (w.toNat / 2 ^ 62, w.toNat % 2 ^ 16)

def cancel (x : F2) (s : Mach) : Try Done := do
  needTenant s
  let (level, index) ← entryTarget (s.g x.aN)
  .ok { m := s.askCancel (s.tenantNo.getD 0) level index }

def execCancel (x : F2) (s : State) : Host.Outcome State Fault Refusal := chain x.len s (cancel x)

/-- R208, R301: the wait on an entry that is not final. -/
def entryWait {α : Type} (w : Word) (index : Nat) (s : Mach) : Try α :=
  await { kind := .read, code := 0x07, opnd := 2, ref := index, val := w } s

def ccget (x : F2) (s : Mach) : Try Done := do
  let w := s.g x.aN
  let (level, index) ← entryTarget w
  match s.ctx.issued.answer.or (s.finalRecord (s.tenantNo.getD 0) level index) with
  | none => entryWait w index s
  | some r => .ok { m := s.setG x.dN (BitVec.ofNat 64 (r.status + 2 ^ 32 * r.discarded)) }

def execCcget (x : F2) (s : State) : Host.Outcome State Fault Refusal := chain x.len s (ccget x)

/-- DEDUCED: log entry 54. -/
def dgget (x : F2) (s : Mach) : Try Done := do
  if !x.w then illegal 0x0C s.unstated
  let w := s.g x.aN
  let (level, index) ← entryTarget w
  if level ≠ 0 then illegal 0x0C w
  let key ← s.ownLocal (s.g x.eN) 64 256 false true
  match s.ctx.issued.answer.or (s.finalRecord (s.tenantNo.getD 0) 0 index) with
  | none => entryWait w index s
  | some r => match r.digest with
    | some bs => .ok { m := (s.put key bs).setG x.dN 0 }
    | none => .ok { m := s.setG x.dN (BitVec.allOnes 64) }

def execDgget (x : F2) (s : State) : Host.Outcome State Fault Refusal := chain x.len s (dgget x)

end Sys2Proof.Machine
end

