-- ==== Sys2Proof/Machine/Teardown.lean ====
section
/-! DEFINITION. The end of a level-table entry, whose record is posted (R240), and the progress of the teardown, the reset
and the close of a queue (R266, R330, R339). -/

namespace Sys2Proof.Machine

/-! Teardown (R266). -/

/-- Steps 2 and 3, again and again until all is final: networks in a cut are left to finish it. -/
def Mach.cancelQueue (s : Mach) (ten queue : Nat) : Mach :=
  let s := (List.range s.subs.length).foldl (fun m i => match m.subs[i]? with
    | some b => if b.tenant == ten && b.queue == queue && b.home.isNone && b.ended.isNone then m.dropSub i 2 else m
    | none => m) s
  let s := (List.range s.nets.length).foldl (fun m n => match m.net n with
    | some x => if x.live && x.tenant == ten && x.queue == queue && x.cut.isNone && !x.cancel then m.markNet n false else m
    | none => m) s |>.depCancel
  { s with entries := s.entries.map fun (e : Entry) =>
      if e.tenant == ten && e.level == 2 && e.queue == queue then { e with closed := true } else e }

/-- Has every record of a queue been posted. -/
def Mach.queueDone (s : Mach) (ten queue : Nat) : Bool :=
  s.entries.all fun e => !(e.live && e.tenant == ten && e.queue == queue && e.level < 3)

/-- R330, R329: what a queue becomes: torn down, open again, or closed. -/
def SqpQueue.endTeardown (q : SqpQueue) : SqpQueue := match q.ending with
  | .torn => { q with tearing := false, torn := true }
  | .reopen => q.reopen
  | .close => { q with tearing := false, isOpen := false }

/-- R339: the level-table entries of a closed queue are cleared. -/
def Mach.clearQueue (s : Mach) (ten queue : Nat) : Mach :=
  { s with entries := s.entries.filter fun e => e.live || e.tenant != ten || e.queue != queue }

/-- A teardown goes on; behind the queue's last record its acknowledgement is sent. DEDUCED: log entry 72. -/
def State.tearOne (s : State) (q : SqpQueue) : State :=
  let m := s.toMach.cancelQueue q.tenant q.queue
  let s := { s with toMach := m }
  let room := ((s.port.queueOf false q.queue).map fun y => decide (y.unacked.length < keptMessages)).getD false
  if m.queueDone q.tenant q.queue && room && !(m.outbox.any fun o => !o.mgmt && o.queue == q.queue) then
    let s := if q.ending = .close then { s with toMach := s.toMach.clearQueue q.tenant q.queue }
      else (s.send { mgmt := false, queue := q.queue, body := .teardown }).flush
    { s with port := s.port.updQueue false q.queue SqpQueue.endTeardown }
  else s

/-- What the hub does for its queues whenever something has changed. -/
def State.portWork (s : State) : State :=
  let s := s.flush
  (s.port.queues.filter fun q => q.tearing).foldl State.tearOne s |>.flush

/-! The end of an entry. -/

def execEntryFinal (tenant level index : Nat) (s : State) : Host.Outcome State Fault Refusal :=
  .next { s with toMach := (s.toMach.finishEntry tenant level index).tock }.portWork

end Sys2Proof.Machine
end

