-- ==== Sys2Proof/Machine/Cut.lean ====
section
/-! DEFINITION. The slalom cut (R209, R303 to R308): its start, gates, and the snapshot (R307). -/

namespace Sys2Proof.Machine

/-! Sources (R303). -/

/-- The processes (by index) from which a channel or a pool leads to process index i. -/
def Net.feeds (x : Net) (i : Nat) : List Nat :=
  (x.chans.filter fun c => c.decl.rproc == i).map (·.decl.wproc) ++
  (x.pools.filter fun p => p.decl.members.any fun m => m.1 == i && m.2.2 == 1).flatMap fun p =>
    (p.decl.members.filter fun m => m.2.2 == 2).map (·.1)

/-- The processes that reach one of a list through channels and pools. -/
def Net.reaching (x : Net) : Nat → List Nat → List Nat
  | 0, l => l
  | f + 1, l => x.reaching f (l ++ l.flatMap x.feeds).eraseDups

def Net.reachers (x : Net) (i : Nat) : List Nat := x.reaching x.procs.length (x.feeds i).eraseDups

/-- R303: nothing reaches i that i does not reach, and i is the lowest of the processes with which it reaches round. -/
def Net.isSource (x : Net) (i : Nat) : Bool :=
  let r := x.reachers i
  r.all fun j => (x.reachers j).contains i && i ≤ j

/-- R209, R308: a cut starts: gates at the sources, a sweep in progress discarded; a second cut has no effect. -/
def Mach.startCut (s : Mach) (n : Nat) (addr : Word) : Mach := match s.net n with
  | none => s
  | some x =>
    if !x.live || x.cut.isSome || x.cancel || x.fatal then s
    else
      let s := s.updNet n fun x => { x with cut := some addr, sweep := .idle, active := true }
      (List.range x.procs.length).foldl (fun m i =>
        if x.isSource i then m.updProc (x.procs[i]?.getD 0) fun p => { p with gated := !p.away } else m) s

/-- R209: `cut`. DEDUCED: log entry 53. -/
def cut (x : F2) (s : Mach) : Try Done := do
  needTenant s
  if !x.w then illegal 0x0C s.unstated
  let a := s.g x.aN
  if a.toNat / 2 ^ 16 ≠ 0 then illegal 0x0C a
  let ten := s.tenantNo.getD 0
  if (s.curNet.map fun y => y.live && y.index == a.toNat).getD false then illegal 0x0C a
  let e := s.g x.eN
  if e.toNat % 4096 ≠ 0 then raise { cause := 0x03, opnd := 3, value := e }
  if !isGlobal e then illegal 0x0C e
  match s.liveNet ten a.toNat with
  | some n => .ok { m := s.startCut n e }
  | none => .ok { m := s }

def execCut (x : F2) (s : State) : Host.Outcome State Fault Refusal := chain x.len s (cut x)

/-! Gates (R304). -/

/-- R304: does a channel count as gated. -/
def Chan.counts (c : Chan) : Bool := c.gated || (c.wExited && c.flight.isEmpty)

def Mach.heldOrGone (s : Mach) (k : Nat) : Bool := s.hasExited k || ((s.proc k).map (·.held)).getD false

/-- R304: has the moment come at which process k takes its gate. -/
def Mach.gateDue (s : Mach) (k : Nat) : Bool := match s.proc k with
  | none => false
  | some p => match s.net p.net with
    | none => false
    | some x =>
      let ins := x.chans.filter fun c => c.decl.rproc == p.index
      let pools := x.pools.filter fun y => y.decl.members.any fun m => m.1 == p.index && m.2.2 == 1
      x.cut.isSome && x.live && !p.held && !p.away && p.st != .exited &&
      (p.gated || ins.any (·.gated) ||
       (ins.all (fun c => c.gated || c.wExited) && pools.all fun y => y.decl.members.all fun m =>
          m.2.2 != 2 || m.1 == p.index || ((x.procs[m.1]?).map s.heldOrGone).getD true))

/-- R304: the process is held at the chain that would run next; its gates go out behind its last tokens. DEDUCED: log entry 62. -/
def Mach.takeGate (s : Mach) (k : Nat) : Mach := match s.proc k with
  | none => s
  | some p =>
    let s := s.updProc k fun p =>
      { p with held := true, gated := false, req := false, stop := none
               st := if p.st = .saving then (if p.wait.isSome then .blocked else .running) else p.st }
    s.updNet p.net fun x => { x with
      chans := x.chans.map fun c => if c.decl.wproc == p.index then { c with flight := c.flight ++ [.gate] } else c
      active := true }

def execTakeGate (proc : Nat) (s : State) : Host.Outcome State Fault Refusal :=
  if s.toMach.gateDue proc && s.toMach.settled proc then .next { s with toMach := (s.toMach.takeGate proc).tock } else .next s

/-! The snapshot (R307). -/

/-- Bytes with the offsets of their poisoned words. -/
structure Blob where
  bytes : List Byte
  bad   : List Nat := []
  deriving DecidableEq, Repr

def Blob.join (a b : Blob) : Blob := { bytes := a.bytes ++ b.bytes, bad := a.bad ++ b.bad.map (· + a.bytes.length) }
def Blob.concat (l : List Blob) : Blob := l.foldl Blob.join { bytes := [] }
def upTo (n a : Nat) : Nat := (n + a - 1) / a * a
def Blob.pad (b : Blob) : Blob := { b with bytes := padTo (upTo b.bytes.length 64) b.bytes }

/-- R307: a token behind its tag; a faulted token is a poisoned word. -/
def Tok.blob (vector : Bool) : Tok → Blob
  | .scalar w => { bytes := bytesOfNat 8 1 ++ bytesOfWord w }
  | .vector d => { bytes := bytesOfNat 8 2 ++ bytesOfNat 512 d.toNat }
  | .fault _ => { bytes := bytesOfNat 8 (if vector then 2 else 1) ++ bytesOfNat (tokenBytes vector) 0, bad := [8] }
  | _ => { bytes := bytesOfNat 8 3 }

/-- Poisoned words of n bytes from a location. -/
def Mach.badWords (s : Mach) (key n : Nat) : List Nat :=
  if s.bad.isEmpty then [] else ((List.range ((n + 7) / 8)).map (8 * ·)).filter fun o => s.poisoned (key + o) (min 8 (n - o))

/-- A process that has not begun: its context and segments as a start gives them. -/
def Mach.freshCtx (s : Mach) (k : Nat) : Ctx := match s.proc k, s.netOf k, s.imageOf k with
  | some p, some x, some im => { startCtx x im ((s.tenant x.tenant).getD { id := x.tenant }) p { x := 0, y := 0, ctx := 0 } with place := none }
  | _, _, _ => {}

def Mach.snapCtx (s : Mach) (k : Nat) : Ctx :=
  if ((s.proc k).map (·.started)).getD false then s.ctxOf k else s.freshCtx k

/-- R307: the window image: the bytes of win0, win2, win1 and win3, from the tile, from the hub, or from the segment. -/
def Mach.windowImage (s : Mach) (k : Nat) : Blob := match s.proc k with
  | none => { bytes := [] }
  | some p =>
    let c := s.snapCtx k
    Blob.concat ([0, 2, 1, 3].map fun i =>
      let (a, b) := winSpan (c.win[i]?.getD 0)
      let n := b - a
      if !p.started then
        { bytes := padTo n ((((s.imageOf k).map fun im => (im.segment p.decl p.index).find? fun y => y.1 == i).join.map (·.2)).getD [] |>.take n) }
      else
        let key := match c.place, p.saved with
          | none, some (slot, _) => Key.save slot (2 ^ 20 + a)
          | _, _ => Key.tile c.tile a
        { bytes := Mem.bytes s.mem key n, bad := s.badWords key n })

/-- R304, R307: the save record, which the hub holds already for a process that is swapped out, a parked process's fault record, and
the supervisor's fault-channel tokens. -/
def Mach.recordBlob (s : Mach) (x : Net) (k : Nat) : Blob := match s.proc k with
  | none => { bytes := [] }
  | some p =>
    if p.st = .exited then { bytes := [] }
    else
      let c := s.snapCtx k
      let pc := if p.st = .parked then p.park else c.next
      let rcd : Blob := match c.place, p.saved with
        | none, some (slot, len) => { bytes := Mem.bytes s.mem (Key.save slot 0) len, bad := s.badWords (Key.save slot 0) len }
        | _, _ => { bytes := saveRecord c 4 0xFF pc, bad := recordPoison c 0xFF }
      let fault := if p.st = .parked then (p.record.getD []).flatMap bytesOfWord else []
      let toks := if p.decl.sup then x.faultBuf ++ x.faultQ.flatMap (·.2) else []
      rcd.join { bytes := fault ++ toks.flatMap bytesOfWord }

/-- The processes to which the pool has handed a token that their chains have still to take, with the tokens. -/
def Mach.servedAt (s : Mach) (x : Net) (i : Nat) : List (Nat × Tok) := x.procs.filterMap fun k =>
  let y := (s.ctxOf k).issued
  if y.pool = i && !s.hasExited k then y.got.map fun t => (k, t) else none

/-- Pool data: tokens, put lists (lap, order key, process index, token), requests (the same, with an empty tag), and what
has been handed out (with its token). -/
def Mach.poolBlob (s : Mach) (x : Net) (i : Nat) (p : Pool) : Blob :=
  let vec := p.decl.vector
  let entry := fun (lap key k : Nat) (t : Blob) =>
    ({ bytes := bytesOfNat 8 lap ++ bytesOfNat 8 key ++ bytesOfNat 8 (((s.proc k).map (·.index)).getD 0) } : Blob).join t
  Blob.concat (p.toks.map (Tok.blob vec) ++ p.puts.map (fun y => entry y.lap y.key y.proc (y.tok.blob vec)) ++
    p.gets.map (fun y => entry y.lap y.key y.proc { bytes := bytesOfNat 8 0 }) ++
    (s.servedAt x i).map fun y => entry 0 0 y.1 (y.2.blob vec))

def Chan.blob (c : Chan) : Blob := Blob.concat (c.buf.map (Tok.blob c.decl.vector))

/-- Offsets of blobs laid one after another, each from a 64-byte boundary. -/
def offsetsFrom : Nat → List Blob → List Nat
  | _, [] => []
  | o, b :: r => o :: offsetsFrom (o + upTo b.bytes.length 64) r

/-- R307: the array residencies that travel: those of the network's processes that are not revoked. -/
def Mach.netResids (s : Mach) (x : Net) : List Resid :=
  s.resids.filter fun r => !r.bank && r.state != .revoked && x.procs.contains r.owner

def Mach.residEntry (s : Mach) (r : Resid) : List Byte :=
  bytesOfNat 4 r.handle ++ bytesOfNat 1 r.state.code ++
  bytesOfNat 1 (r.refresh.toNat + 2 * r.pinned.toNat + 4 * r.global.toNat) ++
  bytesOfNat 2 (((s.proc r.owner).map (·.index)).getD 0) ++ bytesOfWord r.source ++ bytesOfNat 16 0

/-- R307: the whole snapshot of network number n. -/
def Mach.snapshot (s : Mach) (x : Net) (im : Image) : Blob :=
  let np := x.procs.length
  let recs := x.procs.map (s.recordBlob x)
  let wins := x.procs.map fun k => if s.hasExited k then { bytes := [] } else s.windowImage k
  let cbs := x.chans.map Chan.blob
  let pbs := (List.range x.pools.length).map fun i => (x.pools[i]?).elim { bytes := [] } (s.poolBlob x i)
  let res := s.netResids x
  let o1 := 256
  let o2 := o1 + upTo (32 * np) 64
  let o3 := o2 + upTo (32 * x.chans.length) 64
  let o4 := o3 + 64 * x.pools.length
  let o5 := o4 + upTo (16 * x.bars.length) 64
  let o6 := o5 + upTo (32 * res.length) 64
  let blobs := recs ++ wins ++ cbs ++ pbs
  let offs := offsetsFrom o6 blobs
  let data := Blob.concat (blobs.map Blob.pad)
  let at0 := fun i => offs[i]?.getD 0
  let procs := (List.range np).flatMap fun i => match (x.procs[i]?).bind s.proc with
    | none => bytesOfNat 32 0
    | some p =>
      bytesOfNat 1 (if p.st = .exited then 3 else if p.st = .parked then 2 else 1) ++ bytesOfNat 3 0 ++
      bytesOfNat 4 (if p.decl.sup then x.faultBuf.length + 8 * x.faultQ.length else 0) ++ bytesOfNat 8 (at0 i) ++
      bytesOfNat 8 (at0 (np + i)) ++ bytesOfNat 8 ((wins[i]?).elim 0 (·.bytes.length))
  let chans := (List.range x.chans.length).flatMap fun i => match x.chans[i]? with
    | none => bytesOfNat 32 0
    | some c =>
      bytesOfNat 4 c.slots ++ bytesOfNat 4 c.buf.length ++ bytesOfNat 1 (c.rExited.toNat + 2 * c.wExited.toNat) ++
      bytesOfNat 7 0 ++ bytesOfWord c.check ++ bytesOfNat 8 (at0 (2 * np + i))
  let pools := (List.range x.pools.length).flatMap fun i => match x.pools[i]? with
    | none => bytesOfNat 64 0
    | some p =>
      padTo 64 (bytesOfNat 4 p.slots ++ bytesOfNat 4 p.toks.length ++ bytesOfWord p.check ++ bytesOfNat 8 p.closed ++
        bytesOfNat 4 p.puts.length ++ bytesOfNat 4 p.gets.length ++ bytesOfNat 8 (at0 (2 * np + x.chans.length + i)) ++
        bytesOfNat 4 (s.servedAt x i).length)
  let bars := x.bars.flatMap fun b =>
    bytesOfNat 1 b.id ++ bytesOfNat 3 0 ++ bytesOfNat 4 b.count ++ bytesOfNat 4 b.gen ++ bytesOfNat 4 b.here.length
  let head := bytesOfNat 8 0x5452494553435554 ++ bytesOfNat 4 1 ++ bytesOfNat 4 x.nid ++ bytesOfNat 8 x.image ++ bytesOfNat 4 np ++
    bytesOfNat 4 x.chans.length ++ bytesOfNat 4 x.pools.length ++ bytesOfNat 4 x.bars.length ++ bytesOfNat 4 x.lap ++
    bytesOfNat 4 res.length ++ bytesOfNat 8 im.spill ++ bytesOfNat 8 (o6 + data.bytes.length) ++
    bytesOfNat 8 o1 ++ bytesOfNat 8 o2 ++ bytesOfNat 8 o3 ++ bytesOfNat 8 o4 ++ bytesOfNat 8 o5
  let tables := padTo 256 head ++ padTo (o2 - o1) procs ++ padTo (o3 - o2) chans ++ pools ++ padTo (o5 - o4) bars ++
    padTo (o6 - o5) (res.flatMap s.residEntry)
  ({ bytes := tables } : Blob).join data

/-- R306: a snapshot is written in whole ECC words through the tenant's table; the first word that fails stops it, and those before
it stand as written. -/
def hubWrite (ten : Nat) (a : Word) (pos : Nat) : List (List Byte) → Mach → Option Trap × Mach
  | [], s => (none, s)
  | w :: r, s =>
    let ea := a + BitVec.ofNat 64 pos
    match s.translate (some ten) ea 32 false true with
    | .error t => (some t, s)
    | .ok x =>
      let s := if x.host then s.put x.key w
        else (((s.settle.countServer (serverOf x.key) 1 1).markStale x.key 32).cleanse x.key 32).put x.key w
      hubWrite ten a (pos + 32) r s

/-- Poison at offsets of what stands at a tenant's global address. -/
def Mach.poisonRange (s : Mach) (ten : Nat) (a : Word) (offs : List Nat) : Mach :=
  offs.foldl (fun m o => match m.translate (some ten) (a + BitVec.ofNat 64 o) 1 false true with
    | .ok x => m.poison x.key
    | .error _ => m) s

/-- R306, R201: the cut is abandoned: processes go on, a chain that is run again with a fresh time-out, gates are discarded, and the
failure is reported. -/
def Mach.abandonCut (s : Mach) (n : Nat) (x : Net) (t : Trap) : Mach :=
  let rcd := makeRecord t 0 0xFFFF none x.nid 0 [] true false
  let s := x.procs.foldl (fun m k =>
    let c := m.ctxOf k
    let m := if ((m.proc k).map (·.held)).getD false then m.setCtxOf k { c with issued := c.issued.again } else m
    m.updProc k fun p => { p with held := false, gated := false }) s
  let s := s.updNet n fun x => { x with
    cut := none
    chans := x.chans.map fun c => { c with
      gated := false, flight := c.flight.take c.sent ++ (c.flight.drop c.sent).filter fun t => t != .gate }
    active := true }
  if ((s.supOf n).map fun k => !s.hasExited k).getD false then s.deliver n s.procs.length 0xFFFF rcd
  else s.updNet n fun x => { x with faults := [(0xFFFF, rcd)], fatal := true }

/-- What the hub keeps beside the snapshot. -/
def Mach.carryOf (s : Mach) (x : Net) (snap : List Byte) : Carry :=
  { tenant := x.tenant, nid := x.nid, snap := snap, discard := x.discard
    closed := (List.range x.chans.length).filter fun i => (x.chans[i]?).elim false (·.closed)
    declared := x.declared, digests := x.digests
    issued := x.procs.map fun k => { (s.ctxOf k).issued.again with host := none, hostVal := [] }
    fresh := (List.range x.procs.length).filter fun i =>
      (((x.procs[i]?).bind s.proc).map fun p => !p.started && p.st != .exited).getD false
    bars := x.bars.map fun b => (b.sstep, b.here.map fun k => ((s.proc k).map (·.index)).getD 0)
    diag := x.procs.map fun k => (s.ctxOf k).diag
    replay := x.replay }

/-- R306: is every process held or gone, with its record at this hub, and has every channel received its gate. -/
def Mach.cutDone (s : Mach) (x : Net) : Bool :=
  x.cut.isSome && x.live && !x.guest && !x.cancel && !x.fatal && !s.hasAway x && x.procs.all s.heldOrGone && x.chans.all fun c => c.counts && c.flight.isEmpty

def Mach.completeCut (s : Mach) (n : Nat) (x : Net) (im : Image) (a : Word) : Mach :=
  let snap := s.snapshot x im
  let bytes := padTo (upTo snap.bytes.length 32) snap.bytes
  match hubWrite x.tenant a 0 (pieces (snap.bytes.length / 32 + 1) 32 bytes) s with
  | (some t, m) => m.abandonCut n x { t with opnd := 5, elem := 0 }
  | (none, m) =>
    let carry := s.carryOf x bytes
    let m := m.poisonRange x.tenant a snap.bad
    { m with carries := carry :: m.carries.filter fun (c : Carry) => c.snap != bytes || c.tenant != x.tenant }.endNet n 6

def execCutComplete (net : Nat) (s : State) : Host.Outcome State Fault Refusal :=
  match s.toMach.net net with
  | none => .next s
  | some x => match x.cut, s.toMach.image x.image with
    | some a, some im =>
      if s.toMach.cutDone x then .next { s with toMach := (s.toMach.completeCut net x im a).tock }.portWork else .next s
    | _, _ => .next s

end Sys2Proof.Machine
end

