-- ==== Sys2Proof/Machine/Image.lean ====
section
/-! DEFINITION. The loader: a network image read from a tenant's global range, checked in the order of R249 and turned
into its tables (R244 to R248). -/

namespace Sys2Proof.Machine

/-- n bytes of a tenant's global range from an address, none where one cannot be read (R279, R325). -/
def Mach.readRange (s : Mach) (ten : Nat) : Nat → Word → Nat → Option (List Byte)
  | 0, _, _ => some []
  | f + 1, a, n =>
    if n = 0 then some []
    else
      let k := min n (32 - a.toNat % 32)
      match s.translate (some ten) a k true false with
      | .error _ => none
      | .ok x =>
        if s.poisoned x.key k then none
        else (s.readRange ten f (a + BitVec.ofNat 64 k) (n - k)).map fun r => Mem.bytes s.mem x.key k ++ r

def Mach.readAll (s : Mach) (ten : Nat) (a : Word) (n : Nat) : Option (List Byte) := s.readRange ten (n / 32 + 2) a n

/-- R244: the numbers of the header. -/
structure ImageHead where
  nproc : Nat
  nchan : Nat
  npool : Nat
  lap   : Nat
  nbar  : Nat
  nres  : Nat
  ndig  : Nat
  rtblk : Nat
  nfig  : Nat
  spill : Nat
  cost  : Nat
  tabs  : List Nat
  deriving DecidableEq, Repr

def imageHead (b : List Byte) : ImageHead :=
  { nproc := field b 12 4, nchan := field b 16 4, npool := field b 20 4, lap := field b 24 4, nbar := field b 28 4
    nres := field b 32 4, ndig := field b 36 4, rtblk := field b 40 4, nfig := field b 44 4, spill := field b 48 8
    cost := field b 56 8, tabs := (List.range 7).map fun i => field b (64 + 8 * i) 8 }

/-- Entry i of table t of the header, with entries of n bytes. -/
def ImageHead.entry (h : ImageHead) (b : List Byte) (t n i : Nat) : List Byte := (b.drop (h.tabs[t]?.getD 0 + n * i)).take n

/-- R244: header fields in range. -/
def ImageHead.ok (h : ImageHead) (b : List Byte) : Bool :=
  field b 0 8 == 0x5452494553544E57 && field b 8 4 == 1 && field b 120 8 == 0 &&
  1 ≤ h.nproc && h.nproc ≤ 65536 && h.nchan ≤ 262144 && h.npool ≤ 256 && (h.lap == 0 || (256 ≤ h.lap && h.lap ≤ 65536)) &&
  h.nbar ≤ 64 && h.nres ≤ 4096 && h.ndig ≤ 64 && h.rtblk % 64 == 0 && h.rtblk + 64 + 4 * h.nres ≤ Config.localBytes &&
  h.nfig ≤ 4194304 && h.spill % 4096 == 0 && h.tabs.all fun o => o % 64 == 0

/-- Entries and their size of each table. -/
def ImageHead.sizes (h : ImageHead) : List (Nat × Nat) :=
  [(h.nproc, 128), (h.nchan, 16), (h.npool, 16), (h.nbar, 8), (h.nres, 32), (h.ndig, 16), (h.nfig, 16)]

/-- R245: an entry of the process table. -/
def procOf (e : List Byte) : ProcDecl :=
  let u := field e
  let hint := u 106 2
  { entry := u 0 4, tenant := u 4 1 == 1, sup := u 5 1 % 2 == 1, pinned := bitsAt (u 5 1) 1 1 == 1, allow := u 6 1, share := u 7 1
    win := (List.range 4).map fun i => BitVec.ofNat 64 (u (8 + 8 * i) 8)
    args := (List.range 8).map fun i => BitVec.ofNat 64 (u (40 + 8 * i) 8)
    hkind := u 104 1, hint := hint, lx := u 108 1, ly := u 109 1, lc := u 110 1, seg := u 112 8
    segLen := [u 120 8 % 2 ^ 24, bitsAt (u 120 8) 24 24, bitsAt (u 120 8) 48 16] }

/-- R245: bytes of a segment. -/
def ProcDecl.segBytes (d : ProcDecl) : Nat :=
  let up := fun n => (n + 63) / 64 * 64
  up (d.segLen[0]?.getD 0) + up (d.segLen[1]?.getD 0) + 64 * d.segLen[2]?.getD 0

def rawSpan (w : Word) : Nat × Nat := (bitsAt w.toNat 0 24, bitsAt w.toNat 24 24)
def ProcDecl.room (d : ProcDecl) (i : Nat) : Nat := let s := rawSpan (d.win[i]?.getD 0); s.2 - s.1

def procOk (n : Nat) (e : List Byte) : Bool :=
  let u := field e
  let d := procOf e
  d.entry % 2 == 0 && d.entry < 2 ^ 24 && u 4 1 ≤ 1 && u 5 1 < 4 && d.allow ≤ 32 && d.share ≤ 15 && d.hkind ≤ 2 && u 105 1 == 0 &&
  (d.hkind != 2 || d.hint < n) && d.lx < 64 && d.ly < 32 && d.lc < 8 && u 111 1 == 0 &&
  d.segLen[0]?.getD 0 ≤ d.room 0 && d.segLen[1]?.getD 0 ≤ d.room 2 && 64 * d.segLen[2]?.getD 0 ≤ d.room 1

/-- R246. -/
def chanOf (e : List Byte) : ChanDecl :=
  { wproc := field e 0 2, rproc := field e 4 2, wend := field e 2 1, rend := field e 3 1, slots := field e 8 2
    vector := field e 10 1 == 1, discard := field e 11 1 == 1 }

def chanOk (e : List Byte) : Bool :=
  let c := chanOf e
  field e 6 2 == 0 && field e 12 4 == 0 && 1 ≤ c.slots && c.slots ≤ 4096 && field e 10 1 ≤ 1 && field e 11 1 ≤ 1 &&
  (if c.vector then c.wend == 0 && c.rend == 0 else c.wend < 16 && c.rend < 16)

/-- R247: a pool with its members, and whether its fields are in range. -/
def memberOf (w : Nat) : Nat × Nat × Nat := (w % 2 ^ 16, bitsAt w 16 4, bitsAt w 20 2)
def poolOf (b e : List Byte) : PoolDecl :=
  { vector := field e 0 1 == 1, slots := field e 2 2
    members := (List.range (min (field e 4 4) b.length)).map fun i => memberOf (field b (field e 8 8 + 4 * i) 4) }
def poolOk (b e : List Byte) : Bool :=
  field e 0 1 ≤ 1 && field e 1 1 == 0 && 1 ≤ field e 2 2 && field e 2 2 ≤ 4096 &&
  (List.range (min (field e 4 4) b.length)).all fun i =>
    let w := field b (field e 8 8 + 4 * i) 4
    w < 2 ^ 22 && (bitsAt w 20 2 == 1 || bitsAt w 20 2 == 2)

def barOk (e : List Byte) : Bool := field e 0 1 < 64 && field e 1 3 == 0 && 1 ≤ field e 4 4 && field e 4 4 ≤ 65536

def residOf (e : List Byte) : ResDecl :=
  { bank := field e 0 1 == 1, refresh := field e 1 1 % 2 == 1, pinned := bitsAt (field e 1 1) 1 1 == 1, owner := field e 2 2
    stack := field e 4 4, bytes := field e 8 8, source := BitVec.ofNat 64 (field e 16 8) }
def residOk (e : List Byte) : Bool := field e 0 1 ≤ 1 && field e 1 1 < 4 && field e 24 8 == 0

/-- R248. -/
def figOf (b e : List Byte) : FigDecl :=
  { proc := field e 0 2, num := field e 2 1
    words := (List.range (min (field e 4 2) 256)).map fun i => BitVec.ofNat 64 (field b (field e 8 8 + 8 * i) 8) }
def figOk (n : Nat) (e : List Byte) : Bool :=
  field e 0 2 < n && field e 2 1 < 64 && field e 3 1 == 0 && 1 ≤ field e 4 2 && field e 4 2 ≤ 256 && field e 6 2 == 0 && field e 8 8 % 8 == 0

/-- The image as the loader's tables, before any check. -/
def imageOf (handle tenant : Nat) (b : List Byte) : Image :=
  let h := imageHead b
  let tab {α : Type} (t n k : Nat) (f : List Byte → α) : List α := (List.range k).map fun i => f (h.entry b t n i)
  let procs := tab 0 128 h.nproc procOf
  { handle := handle, tenant := tenant, procs := procs, chans := tab 1 16 h.nchan chanOf, pools := tab 2 16 h.npool (poolOf b)
    bars := tab 3 8 h.nbar fun e => (field e 0 1, field e 4 4)
    resids := tab 4 32 h.nres residOf
    digests := tab 5 16 h.ndig fun e => (BitVec.ofNat 64 (field e 0 8), field e 8 8)
    figs := tab 6 16 h.nfig (figOf b), lap := h.lap, rtblk := h.rtblk, spill := h.spill, cost := h.cost
    segs := procs.map fun d => (b.drop d.seg).take d.segBytes }

/-- Condition 1: fields in range. -/
def fieldsBad (h : ImageHead) (b : List Byte) : Bool :=
  let all (t n k : Nat) (f : List Byte → Bool) : Bool := (List.range k).all fun i => f (h.entry b t n i)
  !(all 0 128 h.nproc (procOk h.nproc) && all 1 16 h.nchan chanOk && all 2 16 h.npool (poolOk b) && all 3 8 h.nbar barOk &&
    all 4 32 h.nres residOk && all 6 16 h.nfig (figOk h.nproc))

/-- Condition 2: a table, a list or a segment reaches beyond the image. -/
def tablesBad (h : ImageHead) (b : List Byte) : Bool :=
  (List.range 7).any fun i => match h.sizes[i]? with
    | some (k, n) => 0 < k && b.length < h.tabs[i]?.getD 0 + k * n
    | none => false

def listsBad (h : ImageHead) (b : List Byte) (im : Image) : Bool :=
  im.procs.any (fun d => 0 < d.segBytes && b.length < d.seg + d.segBytes) ||
  (List.range h.npool).any (fun i => let e := h.entry b 2 16 i; 0 < field e 4 4 && b.length < field e 8 8 + 4 * field e 4 4) ||
  (List.range h.nfig).any fun i => let e := h.entry b 6 16 i; b.length < field e 8 8 + 8 * field e 4 2

/-- Condition 3. -/
def Image.supBad (im : Image) : Bool := 1 < im.procs.countP (·.sup) || im.procs.any fun d => d.sup && !d.tenant

/-- Condition 4. -/
def ProcDecl.winBad (d : ProcDecl) : Bool :=
  let sp := d.win.map rawSpan
  sp.any (fun y => y.1 % 64 != 0 || y.2 % 64 != 0) ||
  (List.range 4).any fun i => (List.range i).any fun j => spansMeet (sp[i]?.getD (0, 0)) (sp[j]?.getD (0, 0))

/-- The q registers that channels and pools bind: process and register. -/
def Image.binds (im : Image) : List (Nat × Nat) :=
  (im.chans.filter fun c => !c.vector).flatMap (fun c => [(c.wproc, c.wend), (c.rproc, c.rend)]) ++
  im.pools.flatMap fun p => p.members.map fun m => (m.1, m.2.1)

def repeats {α : Type} [BEq α] : List α → Bool
  | [] => false
  | a :: r => r.contains a || repeats r

/-- Condition 5, with R20 for q15 of the supervisor. -/
def Image.chanBad (im : Image) : Bool :=
  let n := im.procs.length
  im.chans.any (fun c => n ≤ c.wproc || n ≤ c.rproc) || im.binds.any (fun b => n ≤ b.1) || repeats im.binds ||
  im.binds.any fun b => b.2 == 15 && ((im.procs[b.1]?).map (·.sup)).getD false

/-- Condition 8. -/
def Image.residBad (im : Image) : Bool :=
  im.resids.any fun r => if r.bank then 23 < r.stack else im.procs.length ≤ r.owner

/-- Condition 10. -/
def Image.blockBad (im : Image) : Bool := im.procs.any fun d => d.win.any fun w => spansMeet (rawSpan w) im.runtimeSpan

/-- Condition 11. -/
def Image.figBad (im : Image) : Bool :=
  im.figs.any (fun f => f.num == 31 || f.num == 63 || (verifyFigure f.words 0).isSome) ||
  repeats (im.figs.map fun f => (f.proc, f.num)) ||
  (List.range im.procs.length).any fun i => 256 < ((im.figs.filter fun f => f.proc == i).map (·.words.length)).foldl (· + ·) 0

/-- R31, R12: the windows as the device takes them: reserved bits zero, win1 and win3 not exported. -/
def ProcDecl.device (d : ProcDecl) : ProcDecl :=
  { d with win := (List.range d.win.length).map fun i => windowBits i (d.win[i]?.getD 0) }

/-- R249: the position in its list of the first condition that holds, or the image. DEDUCED: log entry 67. -/
def loadImage (handle tenant : Nat) (b : List Byte) : Except Nat Image :=
  if b.length < 128 then .error 2
  else
    let h := imageHead b
    if !h.ok b then .error 1
    else if tablesBad h b then .error 2
    else
      let im := imageOf handle tenant b
      if fieldsBad h b then .error 1
      else if listsBad h b im then .error 2
      else if im.supBad then .error 3
      else if im.procs.any (·.winBad) then .error 4
      else if im.chanBad then .error 5
      else if !im.pools.isEmpty && im.lap = 0 then .error 6
      else if repeats (im.bars.map (·.1)) then .error 7
      else if im.residBad then .error 8
      else if im.spill < im.growthAt then .error 9
      else if im.blockBad then .error 10
      else if im.figBad then .error 11
      else .ok { im with procs := im.procs.map ProcDecl.device }

/-! Pre-placing (R256). -/

/-- The contexts that the processes of an image take, in ascending index, beside what is placed now. -/
def Mach.planSlots (s : Mach) (im : Image) : Option (List Place) :=
  let (m, n) := s.deselect.openNet im { tenant := im.tenant, index := 0, queue := 0, graph := 0, nid := 0 }
  (((m.net n).map (·.procs)).getD []).foldl (fun acc k => acc.bind fun (l, m) =>
    (m.findPlace k).map fun pl => (l ++ [pl], m.seat k pl)) (some (([] : List Place), m)) |>.map (·.1)

/-- The segments of process i written on the tile of its reserved context. -/
def Mach.preload (s : Mach) (im : Image) (slots : List Place) : Mach :=
  (List.range im.procs.length).foldl (fun m i => match im.procs[i]?, slots[i]? with
    | some d, some pl => (im.segment d i).foldl (fun m y => m.loadWindow (tileNo pl.x pl.y) (d.win[y.1]?.getD 0) y.2) m
    | _, _ => m) s

end Sys2Proof.Machine
end

