-- ==== Sys2Proof/Machine/Peer.lean ====
section
/-! DEFINITION. What the two hubs of a network that spans two packages tell one another (R310, R314): the home hub serves barriers,
pools, sweeps, cuts and the fault channel, and the other one reports what its processes do. DESIGN CHOICE: log entries 122, 123. -/

namespace Sys2Proof.Machine

/-! The form of a message. -/

/-- The network in bytes 0 to 3, the channel, barrier or pool in bytes 4 to 7, what the message is in byte 8, the part of a token in
byte 9, the tenant in bytes 10 to 13, and in byte 14 whether the sender's hub is the home. -/
def Net.tag (x : Net) (id what part : Nat) : List Byte :=
  bytesOfNat 4 x.nid ++ bytesOfNat 4 id ++ [BitVec.ofNat 8 what, BitVec.ofNat 8 part] ++ bytesOfNat 4 x.tenant ++ [BitVec.ofNat 8 (!x.guest).toNat, 0]

def tagId (b : List Byte) : Nat := field b 4 4
def tagWhat (b : List Byte) : Nat := field b 8 1
def tagPart (b : List Byte) : Nat := field b 9 1

/-- A live network by its id and tenant, on the side of it that the sender is not. -/
def Mach.netOver (s : Mach) (nid ten : Nat) (fromHome : Bool) : Option (Nat × Net) :=
  (List.range s.nets.length).findSome? fun n => (s.net n).bind fun x =>
    if x.live && x.nid == nid && x.tenant == ten && x.guest == fromHome then some (n, x) else none

def Mach.netOfTag (s : Mach) (b : List Byte) : Option (Nat × Net) := s.netOver (field b 0 4) (field b 10 4) (field b 14 1 % 2 == 1)

/-- The process that a message names, of those on the other package or of those here. -/
def Mach.procOfTag (s : Mach) (b : List Byte) (away : Bool) : Option (Nat × Nat) :=
  (s.netOfTag b).bind fun y => (y.2.procs[field b 16 8]?).bind fun k =>
    if ((s.proc k).map fun p => p.away == away && p.st != .exited).getD false then some (y.1, k) else none

def Mach.indexOf (s : Mach) (k : Nat) : Nat := ((s.proc k).map (·.index)).getD 0

/-- A message about a process. -/
def Mach.words (s : Mach) (x : Net) (k id what : Nat) (body : List Byte) : List Byte :=
  x.tag id what 0 ++ bytesOfNat 8 (s.indexOf k) ++ body

/-- A message, with what has then been told. -/
abbrev Word? := Option (List Byte × Mach)

def Mach.mine (s : Mach) (x : Net) (away : Bool) : List Nat := x.procs.filter fun k => ((s.proc k).map fun p => p.away == away && p.st != .exited).getD false

/-! What a hub has to tell of a process (R297, R298, R318, R89). -/

def tokenIn (t : Tok) : List Byte := bytesOfNat 8 t.what ++ t.data
def tokenOut (b : List Byte) : Tok := tokOf (field b 0 8) (b.drop 8)

/-- R205: the start of the lap that a process is in. -/
def Ctx.lapStart (c : Ctx) : Nat := if c.lapLen = 0 then 0 else c.lapNo * c.lapLen

/-- How a process stands: it goes on (0), is blocked on a read (1) or a write (2), has exited (3), or is parked (4); with its wait,
its digest marks and its fault record. -/
def Mach.standing (s : Mach) (k : Nat) (p : Proc) : List Byte :=
  let c := s.ctxOf k
  let w := p.wait.getD { kind := .engine }
  let st := if p.st = .exited then 3 else if p.st = .parked then 4
    else if p.wait.isNone || s.waitMet k w then 0
    else match w.kind with
      | .read => 1
      | .write => 2
      | .engine => if w.code = 0x08 && s.settled k then 1 else 0
  bytesOfNat 8 c.lapStart ++ [BitVec.ofNat 8 st, BitVec.ofNat 8 w.code, BitVec.ofNat 8 w.opnd, BitVec.ofNat 8 w.pool.toNat] ++
    bytesOfNat 4 w.ref ++ bytesOfWord w.val ++ bytesOfWord w.goal ++ bytesOfNat 8 (c.dgOn.toNat + 2 * c.dgDone.toNat) ++
    (p.record.getD []).flatMap bytesOfWord

/-- A report of a process here: all of it to the home hub, an exit to the other one. -/
def Mach.sayReport (s : Mach) (x : Net) : Word? :=
  x.procs.findSome? fun k => (s.proc k).bind fun p =>
    let now := s.standing k p
    if p.away || p.told == now || (!x.guest && p.st != .exited) then none
    else some (s.words x k 0 5 now, s.updProc k fun p => { p with told := now })

/-- R318: a supervisor that stands on the other package has its records there, and a process there that is resumed goes on. -/
def Mach.sayFault (s : Mach) (n : Nat) (x : Net) : Word? := match x.faultQ, s.supOf n with
  | (i, r) :: rest, some k =>
    if ((s.proc k).map (·.away)).getD false then
      some (x.tag 0 16 0 ++ bytesOfNat 8 i ++ r.flatMap bytesOfWord, s.updNet n fun x => { x with faultQ := rest })
    else none
  | _, _ => none

def Mach.sayResume (s : Mach) (x : Net) : Word? := (s.mine x true).findSome? fun k => (s.proc k).bind fun p =>
  if p.st == .unplaced && p.started then some (s.words x k 0 17 [], s.updProc k fun p => { p with st := .swapped }) else none

/-! What the home hub has to tell. -/

/-- R202: an arrival counted, then a generation complete. -/
def Mach.sayCounted (s : Mach) (n : Nat) (x : Net) : Word? := (s.mine x true).findSome? fun k =>
  ((s.ctxOf k).pending.find? fun y => !x.told.counted.contains (k, y)).map fun y =>
    (s.words x k y.1 6 (bytesOfNat 8 y.2), s.updNet n fun x => { x with told := { x.told with
      counted := (k, y) :: x.told.counted.filter fun z => z.1 != k || z.2.1 != y.1 } })

def Mach.sayGeneration (s : Mach) (n : Nat) (x : Net) : Word? :=
  (x.bars.find? fun b => b.gen != 0 && !x.told.gens.contains (b.id, b.gen)).map fun b =>
    (x.tag b.id 7 0 ++ bytesOfNat 8 b.gen, s.updNet n fun x => { x with told := { x.told with
      gens := (b.id, b.gen) :: x.told.gens.filter fun z => z.1 != b.id } })

/-- R205: a token that a lap close has handed out, and a slot lent to a put that waits for one. -/
def Mach.sayServed (s : Mach) (x : Net) : Word? := (s.mine x true).findSome? fun k =>
  let c := s.ctxOf k
  c.issued.got.map fun t => (s.words x k c.issued.pool 8 (tokenIn t), s.setCtxOf k { c with issued := {} })

def Mach.sayLent (s : Mach) (n : Nat) (x : Net) : Word? := (s.mine x true).findSome? fun k => ((s.proc k).bind (·.wait)).bind fun w =>
  (x.pools[w.ref]?).bind fun p =>
    if w.kind == .write && w.pool && 0 < p.free && !p.lent.contains k then
      some (s.words x k w.ref 15 [], s.updNet n fun x => x.updPool w.ref fun p => { p with lent := p.lent ++ [k] })
    else none

/-- R300: a channel has grown. -/
def Mach.sayGrown (s : Mach) (n : Nat) (x : Net) : Word? :=
  ((List.range x.chans.length).zip x.chans).findSome? fun (i, c) =>
    if c.slots = c.decl.slots || x.told.slots.contains (i, c.slots) then none
    else some (x.tag i 14 0 ++ bytesOfNat 8 c.slots, s.updNet n fun x => { x with told := { x.told with
      slots := (i, c.slots) :: x.told.slots.filter fun z => z.1 != i } })

/-- R298: a pass of a sweep visits the other package; the second when the first has ended. -/
def Mach.saySweep (s : Mach) (n : Nat) (x : Net) : Word? :=
  if x.sweep = .idle || !s.hasAway x || (x.heard != 0 && x.heard != 2) then none
  else some (x.tag 0 9 0 ++ bytesOfNat 8 (x.heard / 2 + 1), s.updNet n fun x => { x with heard := x.heard + 1 })

/-- R303, R304: a cut has begun, a process here is held at it. -/
def Mach.sayCut (s : Mach) (n : Nat) (x : Net) : Word? :=
  if x.cut.isSome && !x.told.cut then some (x.tag 0 10 0, s.updNet n fun x => { x with told := { x.told with cut := true } })
  else ((s.mine x false).find? fun k => ((s.proc k).map (·.held)).getD false && !x.told.held.contains k).map fun k =>
    (s.words x k 0 20 [], s.updNet n fun x => { x with told := { x.told with held := k :: x.told.held } })

/-- R299, R301: the other hub is to park a process. -/
def Mach.sayPark (s : Mach) (x : Net) : Word? := (s.mine x true).findSome? fun k => (s.proc k).bind fun p => p.ask.map fun t =>
  (s.words x k 0 19 (trapBytes t), s.updProc k fun p => { p with ask := none })

def Mach.homeSays (s : Mach) (n : Nat) (x : Net) : Word? :=
  if !x.told.opened then none
  else if !x.live then
    if x.told.final then none else some (x.tag 0 13 0, s.updNet n fun x => { x with told := { x.told with final := true } })
  else (s.sayCounted n x).or <| (s.sayGeneration n x).or <| (s.sayServed x).or <| (s.sayLent n x).or <| (s.sayGrown n x).or <|
    (s.sayCut n x).or <| (s.sayPark x).or <| (s.sayFault n x).or <| (s.sayResume x).or <| (s.saySweep n x).or (s.sayReport x)

/-! What the other hub has to tell the home. -/

/-- R202, R203: an arrival for the root, behind the tokens and the stores of its process. -/
def Mach.sayArrival (s : Mach) (n : Nat) (x : Net) : Word? := x.bars.findSome? fun b =>
  (b.here.find? fun k => !x.told.arrived.contains (b.id, k) && s.delivered x [k]).map fun k =>
    (s.words x k b.id 2 [BitVec.ofNat 8 b.sstep.toNat], s.updNet n fun x => { x with told := { x.told with arrived := (b.id, k) :: x.told.arrived } })

/-- R205: a put, for which a slot was lent, and a request. -/
def Mach.sayPut (s : Mach) (n : Nat) (x : Net) : Word? := ((List.range x.pools.length).zip x.pools).findSome? fun (i, p) =>
  match p.puts, p.gets with
  | y :: r, _ => some (s.words x y.proc i 3 (bytesOfNat 8 y.lap ++ tokenIn y.tok),
      s.updNet n fun x => x.updPool i fun p => { p with puts := r, slots := p.slots - 1 })
  | [], y :: r => some (s.words x y.proc i 4 (bytesOfNat 8 y.lap), s.updNet n fun x => x.updPool i fun p => { p with gets := r })
  | [], [] => none

/-- R298: what a pass has found here: every process blocked or absent; at the second pass also no activity, equal and unchanged
counts, and nothing under way. -/
def Mach.passFinds (s : Mach) (x : Net) (pass : Nat) : Bool :=
  let here := s.mine x false
  here.all (fun k => s.stance x k != .active) &&
  (pass = 1 || (!x.active && x.sweep == .first x.counts && here.all s.settled &&
    x.chans.all fun c => c.pushes == c.arrivals && c.flight.isEmpty && c.returns == 0 && !c.rebind))

def Mach.sayPass (s : Mach) (n : Nat) (x : Net) : Word? :=
  if x.heard = 0 then none
  else some (x.tag 0 18 0 ++ bytesOfNat 8 (x.heard + 256 * (s.passFinds x x.heard).toNat),
    s.updNet n fun x => { x with heard := 0, sweep := if x.heard = 1 then .first x.counts else .idle, active := x.heard != 1 && x.active })

/-- R227, R240: the check of a channel once an end of it has exited, and tokens discarded. -/
def Mach.sayCheck (s : Mach) (n : Nat) (x : Net) : Word? :=
  if 0 < x.discard then some (x.tag 0 23 0 ++ bytesOfNat 8 x.discard, s.updNet n fun x => { x with discard := 0 })
  else ((List.range x.chans.length).zip x.chans).findSome? fun (i, c) =>
    if !(c.wExited || c.rExited) || s.isAway x c.decl.wproc || x.told.checks.contains (i, c.check) then none
    else some (x.tag i 21 0 ++ bytesOfWord c.check, s.updNet n fun x => { x with told := { x.told with
      checks := (i, c.check) :: x.told.checks.filter fun z => z.1 != i } })

def Mach.guestSays (s : Mach) (n : Nat) (x : Net) : Word? :=
  if !x.live then none
  else (s.sayArrival n x).or <| (s.sayPut n x).or <| (s.sayCheck n x).or <| (s.sayFault n x).or <| (s.sayResume x).or <|
    (s.sayReport x).or (s.sayPass n x)

/-- The next message of a network. -/
def Mach.says (s : Mach) (n : Nat) (x : Net) : Word? := if x.guest then s.guestSays n x else s.homeSays n x

/-! What is heard. -/

/-- The wait that a report shows. -/
def waitIn (b : List Byte) (kind : WaitKind) : Wait :=
  { kind := kind, code := field b 33 1, opnd := field b 34 1, ref := field b 36 4
    val := BitVec.ofNat 64 (field b 40 8), goal := BitVec.ofNat 64 (field b 48 8), pool := field b 35 1 % 2 == 1 }

/-- R89: a process exits on the other package. -/
def Mach.awayExit (s : Mach) (n k : Nat) (marks : Bool × Bool) : Mach := match s.proc k with
  | none => s
  | some p =>
    let s := (s.revokeOwned k).updNet n fun y => { y.exitOf p.index with digests := y.digests ++ [marks] }
    ((s.setCtxOf k (s.ctxOf k).ended).updProc k Proc.ended).oneLess k

/-- R297, R298, R302, R318: how a process on the other package stands. -/
def Mach.report (s : Mach) (n k : Nat) (b : List Byte) : Mach :=
  let c := s.ctxOf k
  let now := BitVec.ofNat 64 (field b 24 8)
  let s := (s.setCtxOf k { c with retired := now }).updNet n fun x => { x with active := true, dead := false }
  let stands (st : PState) (w : Option Wait) : Mach := s.updProc k fun p => { p with st := st, wait := w }
  match field b 32 1 with
  | 0 => stands .swapped none
  | 1 => stands .unplacedBlocked (some (waitIn b .read))
  | 2 => stands .unplacedBlocked (some (waitIn b .write))
  | 3 => s.awayExit n k (field b 56 1 % 2 == 1, field b 56 1 / 2 % 2 == 1)
  | 4 =>
    let r := (List.range 8).map fun i => BitVec.ofNat 64 (field b (64 + 8 * i) 8)
    (s.updProc k fun p => { p with st := .parked, wait := none, record := some r }).deliver n k (s.ctxOf k).idx.toNat r
  | _ => s

/-- R205: a put or a request of a process on the other package, and the slot that was lent for it. -/
def Mach.putIn (s : Mach) (n k : Nat) (b : List Byte) : Mach := s.updNet n fun x => x.updPool (tagId b) fun p =>
  { p with lent := p.lent.erase k
           puts := p.puts ++ [{ proc := k, key := ((s.proc k).map Proc.key).getD 0, lap := field b 24 8, tok := tokenOut (b.drop 32) }] }

def Mach.getIn (s : Mach) (n k : Nat) (b : List Byte) : Mach :=
  (s.setCtxOf k { s.ctxOf k with issued := { asked := true, pool := tagId b } }).updNet n fun x => x.updPool (tagId b) fun p =>
    { p with gets := p.gets ++ [{ proc := k, key := ((s.proc k).map Proc.key).getD 0, lap := field b 24 8 }] }

/-- What the home hub hears. -/
def Mach.homeHears (s : Mach) (n : Nat) (b : List Byte) : Mach :=
  let away (f : Nat → Mach) : Mach := ((s.procOfTag b true).map fun y => f y.2).getD s
  match tagWhat b with
  | 2 => away fun k => s.updNet n fun x => x.updBarrier (tagId b) fun y => { y with flight := y.flight ++ [(k, field b 24 1 % 2 == 1)] }
  | 3 => away fun k => s.putIn n k b
  | 4 => away fun k => s.getIn n k b
  | 18 => s.updNet n fun x => { x with
      heard := if x.heard = 2 * (field b 16 1) - 1 then (if field b 17 1 = 1 then x.heard + 1 else 5) else x.heard }
  | 21 => s.updNet n fun x => x.updChan (tagId b) fun c => { c with check := BitVec.ofNat 64 (field b 16 8) }
  | 23 => s.updNet n fun x => { x with discard := x.discard + field b 16 8 }
  | _ => s

/-- R202: an arrival is counted in generation g: what stands at this hub until then has no generation yet. -/
def Mach.countedIn (s : Mach) (n k g : Nat) (b : List Byte) : Mach :=
  let c := s.ctxOf k
  let s := if (c.pendingAt (tagId b)).isNone then s
    else s.setCtxOf k { c with pending := insertBy (·.1) (tagId b, g) (c.clearPending (tagId b)).pending }
  s.updNet n fun x => { x.updBarrier (tagId b) fun y => { y with here := y.here.filter (· != k) } with
    told := { x.told with arrived := x.told.arrived.filter fun z => z != (tagId b, k) } }

/-- R202: a generation is complete: it is not that of the arrivals that the root has not counted. -/
def Mach.generationIn (s : Mach) (n g : Nat) (b : List Byte) : Mach := match (s.net n).bind fun x => x.barrier (tagId b) with
  | none => s
  | some y =>
    let s := y.here.foldl (fun m k =>
      let c := m.ctxOf k
      m.setCtxOf k { c with pending := insertBy (·.1) (tagId b, g) (c.clearPending (tagId b)).pending }) s
    s.updNet n fun x => x.updBarrier (tagId b) fun y => { y with gen := g }

/-- R314: a network whose home is the other hub is at its end here. -/
def Mach.dropGuest (s : Mach) (n : Nat) : Mach := match s.net n with
  | none => s
  | some x =>
    let s := (s.mine x false).foldl (fun m k => m.endProcess k) s.settle
    s.updNet n fun x => { x with live := false, cut := none }

/-- R300: the slots of a channel that has grown. -/
def Chan.grownTo (c : Chan) (slots : Nat) : Chan := { c with free := c.free + (slots - c.slots), slots := max slots c.slots }

/-- What the other hub hears from the home. -/
def Mach.guestHears (s : Mach) (n : Nat) (b : List Byte) : Mach :=
  let here (f : Nat → Mach) : Mach := ((s.procOfTag b false).map fun y => f y.2).getD s
  match tagWhat b with
  | 6 => here fun k => s.countedIn n k (field b 24 8) b
  | 7 => s.generationIn n (field b 16 8) b
  | 8 => here fun k => s.setCtxOf k { s.ctxOf k with issued := { (s.ctxOf k).issued with got := some (tokenOut (b.drop 24)) } }
  | 9 => s.updNet n fun x => { x with heard := field b 16 8 }
  | 10 => s.startCut n 0
  | 13 => s.dropGuest n
  | 14 => s.updNet n fun x => x.updChan (tagId b) fun c => c.grownTo (field b 16 8)
  | 15 => s.updNet n fun x => x.updPool (tagId b) fun p => { p with slots := p.slots + 1 }
  | 19 => here fun k => if ((s.proc k).map (·.wait.isSome)).getD false then s.parkByHub n k (trapOfBytes (b.drop 24)) else s
  | 20 => ((s.procOfTag b true).map fun y => s.updProc y.2 fun p => { p with held := true }).getD s
  | _ => s

/-- A message of the other hub. -/
def Mach.hears (s : Mach) (b : List Byte) : Mach := match s.netOfTag b with
  | none => s
  | some (n, x) => match tagWhat b with
    | 5 => ((s.procOfTag b true).map fun y => s.report n y.2 b).getD s
    | 16 => s.updNet n fun x => { x with faultQ := x.faultQ ++ [(field b 16 8, (List.range 8).map fun i => BitVec.ofNat 64 (field b (24 + 8 * i) 8))], active := true }
    | 17 => ((s.procOfTag b false).map fun y => if s.isParked y.2 then s.unpark y.2 else s).getD s
    | _ => if x.guest then s.guestHears n b else s.homeHears n b

/-! What the bulk class brings and takes (R310, R314). -/

def Issued.bytes (i : Issued) : List Byte :=
  bytesOfNat 1 ((i.arrived.map (· + 1)).getD 0) ++ bytesOfNat 1 i.asked.toNat ++ bytesOfNat 6 0 ++ bytesOfNat 8 i.pool ++
    padTo 32 ((i.got.map tokenIn).getD [])

def issuedIn (b : List Byte) : Issued :=
  { arrived := if field b 0 1 = 0 then none else some (field b 0 1 - 1), asked := field b 1 1 = 1, pool := field b 8 8
    got := if field b 16 8 = 0 then none else some (tokenOut (b.drop 16)) }

/-- The windows of a record, in ascending number. -/
def Saved.spans (r : Saved) : List (Nat × Nat) := (List.range 4).map fun i => winSpan (windowBits i (r.special (0x18 + i)))

/-- A process that goes to the other package: its record, its windows, what its chain has issued, and the free slots, checks and
marks of the channels that it writes. -/
def Mach.processBytes (s : Mach) (x : Net) (k slot len : Nat) : List Byte :=
  let r := s.heldRecord slot len
  let idx := s.indexOf k
  Mem.bytes s.mem (Key.save slot 0) len ++ r.spans.flatMap (fun y => Mem.bytes s.mem (Key.save slot (2 ^ 20 + y.1)) (y.2 - y.1)) ++
    (s.ctxOf k).issued.bytes ++ (x.chans.filter fun c => c.decl.wproc == idx).flatMap fun c =>
      bytesOfNat 8 c.free ++ bytesOfWord c.check ++ bytesOfNat 8 c.closed.toNat

/-- The channels that a process which has come writes, as its package left them; those of a cut have their state already. -/
def Net.writerIn (x : Net) (idx : Nat) (b : List Byte) : Net :=
  let own := ((List.range x.chans.length).zip x.chans).filter fun y => y.2.decl.wproc == idx
  ((List.range own.length).zip own).foldl (fun x (i, y) => x.updChan y.1 fun c =>
    if c.gated then c else
      { c with free := field b (24 * i) 8, check := BitVec.ofNat 64 (field b (24 * i + 8) 8), closed := field b (24 * i + 16) 8 = 1 }) x

/-- A process has come whole: it is swapped out here from now on, with its record and its windows, held where a cut holds it. -/
def Mach.processIn (s : Mach) (n k : Nat) (held : Bool) (len : Nat) (b : List Byte) : Mach :=
  if !((s.proc k).map fun p => p.away && p.st != .exited).getD false then s
  else
    let r : Saved := { bits := natOfBytes (b.take len), len := len, bad := [] }
    let (slot, s) := s.takeKey
    let s := s.put (Key.save slot 0) (b.take len)
    let (s, o) := r.spans.foldl (fun (y : Mach × Nat) w =>
      (y.1.put (Key.save slot (2 ^ 20 + w.1)) ((b.drop y.2).take (w.2 - w.1)), y.2 + (w.2 - w.1))) (s, len)
    let s := s.setCtxOf k { s.ctxOf k with issued := issuedIn (b.drop o) }
    let s := s.updProc k fun p =>
      { p with away := false, held := held, gated := false, st := if p.st = .parked then .parked else .swapped, wait := none
               saved := some (slot, len), park := r.pc, ask := none, told := [] }
    (s.updNet n fun x => { x.writerIn (s.indexOf k) (b.drop (o + 48)) with
      pools := x.pools.map fun p => { p with lent := p.lent.erase k } }).rebindOf k

/-- The tokens of a channel have come; those of a cut complete its record. -/
def Chan.stateIn (c : Chan) (guest writerAway : Bool) (b : List Byte) : Chan :=
  let toks := toksOf b.length (b.drop 16)
  let f := field b 8 8
  let c := { c with buf := toks, inTile := 0, far := false, free := if guest && !writerAway then c.free else c.slots - toks.length }
  if guest then c else { c with
    check := BitVec.ofNat 64 (field b 0 8), rExited := c.rExited || f % 2 == 1, wExited := c.wExited || f / 2 % 2 == 1
    closed := f / 4 % 2 == 1, gated := true }

/-- R314: a network that the other hub launched or resumed, with all of its processes there: its image is this hub's image of that
number. This hub closes no lap, counts no generation and has no slot of a pool but what the home lends it. -/
def Mach.openGuest (s : Mach) (nid ten index image : Nat) : Mach :=
  match s.images.find? fun i => i.handle == image && i.tenant == ten && i.live with
  | none => s
  | some im =>
    if (s.netOver nid ten true).isSome || !((s.tenant ten).map fun t => !t.gone).getD false then s
    else
      let (m, n) := s.openNet im { tenant := ten, index := index, queue := 65536, graph := 0, nid := nid }
      let m := m.updNet n fun x => { x with
        guest := true, started := true, lap := 0
        pools := x.pools.map fun p => { p with slots := 0 }
        bars := x.bars.map fun b => { b with count := 0 } }
      ((m.net n).map (·.procs)).getD [] |>.foldl (fun m k => (m.updProc k fun p => { p with ctx := m.freshCtx k }).updProc k fun p =>
        { p with away := true, started := true }) m

/-- A transfer that has come whole. -/
def Mach.bulkIn (s : Mach) (b : List Byte) : Mach :=
  let body := (b.drop 32).take (field b 16 8)
  let fromHome := field b 1 1 % 2 = 0
  match field b 0 1, s.netOver (field b 4 4) (field b 12 4) fromHome with
  | 1, some (n, x) => match x.procs[field b 8 4]? with
    | some k => s.processIn n k (field b 1 1 / 2 % 2 == 1) (field b 24 8) body
    | none => s
  | 2, some (n, x) => s.updNet n fun y => { y.updChan (field b 8 4) fun c => c.stateIn x.guest (s.isAway x c.decl.wproc) body with active := true }
  | 3, _ => s.openGuest (field b 4 4) (field b 12 4) (field b 8 4) (field body 0 8)
  | 4, _ =>
    (hubWrite (field b 12 4) (BitVec.ofNat 64 (field body 0 8)) 0 (pieces (body.length / 32) 32 (body.drop 8)) s).2
  | _, _ => s

/-- R304, R314: at a cut the processes here go home once all of them are held or gone and every channel that ends or begins here is
recorded: first the channels read here, then the processes. -/
def Mach.goesHome (s : Mach) (x : Net) : Bool :=
  x.guest && x.live && x.cut.isSome && x.bars.all (·.here.isEmpty) && (s.mine x false).all (fun k => s.heldOrGone k && s.settled k) &&
  x.chans.all fun c => c.flight.isEmpty && c.sent == 0 && c.returns == 0 && (s.isAway x c.decl.rproc || c.counts)

def Mach.homeward (s : Mach) (n : Nat) (x : Net) : List Byte × Mach :=
  let chans := ((List.range x.chans.length).zip x.chans).flatMap fun (i, c) =>
    if s.isAway x c.decl.rproc then [] else x.bulkHead 2 i c.bytes.length 0 ++ c.bytes
  let (bs, s) := (s.mine x false).foldl (fun (y : List Byte × Mach) k => match y.2.proc k with
    | none => y
    | some p =>
      let (slot, len, m) := match p.saved with
        | some (slot, len) => (slot, len, y.2)
        | none => y.2.putAway k 4 0xFF (if p.st == PState.parked then p.park else (y.2.ctxOf k).next)
      let body := m.processBytes x k slot len
      (y.1 ++ x.bulkHead (1 + 512) (m.indexOf k) body.length len ++ body, m.endProcess k)) (chans, s)
  (bs, s.updNet n fun x => { x with live := false, cut := none })

end Sys2Proof.Machine
end

