-- ==== Sys2Proof/Machine/Snapshot.lean ====
section
/-! DEFINITION. Resuming a snapshot (R217, R309). -/

namespace Sys2Proof.Machine

/-! Reading a snapshot. -/

/-- n ECC words of a tenant's global range, none where one cannot be read. -/
def Mach.hubRead (s : Mach) (ten : Nat) (a : Word) : Nat → Option (List Byte)
  | 0 => some []
  | n + 1 => match s.translate (some ten) a 32 true false with
    | .error _ => none
    | .ok x =>
      if s.poisoned x.key 32 then none
      else (s.hubRead ten (a + 32) n).map fun r => Mem.bytes s.mem x.key 32 ++ r

abbrev Snap := List Byte

def Snap.slice (p : Snap) (o n : Nat) : List Byte := (p.drop o).take n
def Snap.u (p : Snap) (o n : Nat) : Nat := natOfBytes (p.slice o n)
def Snap.w (p : Snap) (o : Nat) : Word := BitVec.ofNat 64 (p.u o 8)
def Snap.nid (p : Snap) : Nat := p.u 12 4
def Snap.image (p : Snap) : Nat := p.u 16 8
def Snap.section (p : Snap) (i : Nat) : Nat := p.u (64 + 8 * i) 8

/-- R217, R307: the snapshot at an address, whole, with a good header. -/
def Mach.readSnapshot (s : Mach) (ten : Nat) (a : Word) : Option Snap :=
  (s.hubRead ten a 8).bind fun h =>
    if natOfBytes (h.take 8) ≠ 0x5452494553435554 || natOfBytes ((h.drop 8).take 4) ≠ 1 then none
    else s.hubRead ten a ((natOfBytes ((h.drop 56).take 8) + 31) / 32)

/-- R307: n tokens from an offset, and where they end. -/
def Snap.tokens (p : Snap) : Nat → Nat → List Tok × Nat
  | 0, o => ([], o)
  | n + 1, o =>
    let (t, o') : Tok × Nat := match p.u o 8 % 4 with
      | 1 => (.scalar (p.w (o + 8)), o + 16)
      | 2 => (.vector (BitVec.ofNat 4096 (p.u (o + 8) 512)), o + 520)
      | _ => (.eos, o + 8)
    let (r, e) := p.tokens n o'
    (t :: r, e)

/-- n entries of a pool's lists: lap, order key, process index, token. -/
def Snap.poolEntries (p : Snap) : Nat → Nat → List (Nat × Nat × Nat × Option Tok) × Nat
  | 0, o => ([], o)
  | n + 1, o =>
    let (ts, e) := p.tokens 1 (o + 24)
    let (r, e) := p.poolEntries n e
    ((p.u o 8, p.u (o + 8) 8, p.u (o + 16) 8, if p.u (o + 24) 8 = 0 then none else ts.head?) :: r, e)

/-- R300: granules that the growth of a channel or a pool has taken. -/
def grownGranules (vector : Bool) (slots : Nat) : Nat → Nat → Nat
  | 0, _ => 0
  | f + 1, n => if n < slots then baseGranules n vector + grownGranules vector slots f (2 * n) else 0

/-! Rebuilding (R309). -/

def Snap.chan (p : Snap) (carry : Option Carry) (i : Nat) (d : ChanDecl) : Chan :=
  let o := p.section 1 + 32 * i
  let (toks, _) := p.tokens (p.u (o + 4) 4) (p.u (o + 24) 8)
  { decl := d, slots := p.u o 4, free := p.u o 4 - toks.length, buf := toks, check := p.w (o + 16)
    rExited := p.u (o + 8) 1 % 2 == 1, wExited := bitsAt (p.u (o + 8) 1) 1 1 == 1
    closed := match carry with
      | some c => c.closed.contains i
      | none => toks.contains .eos
    grown := grownGranules d.vector (p.u o 4) 64 d.slots }

/-- A pool, with the tokens that it had handed out, by process index. -/
def Snap.pool (p : Snap) (procs : List Nat) (i : Nat) (d : PoolDecl) : Pool × List (Nat × Tok) :=
  let o := p.section 2 + 64 * i
  let at0 := p.u (o + 32) 8
  let num := fun j => (procs[j]?).getD 0
  let (toks, e) := p.tokens (p.u (o + 4) 4) at0
  let (puts, e) := p.poolEntries (p.u (o + 24) 4) e
  let (gets, e) := p.poolEntries (p.u (o + 28) 4) e
  let (served, _) := p.poolEntries (p.u (o + 40) 4) e
  ({ decl := d, slots := p.u o 4, toks := toks, check := p.w (o + 8), closed := p.u (o + 16) 8
     puts := puts.map fun y => { proc := num y.2.2.1, key := y.2.1, lap := y.1, tok := y.2.2.2.getD .eos }
     gets := gets.map fun y => { proc := num y.2.2.1, key := y.2.1, lap := y.1 } },
   served.filterMap fun y => y.2.2.2.map fun t => (y.2.2.1, t))

/-- R203, R355: a generation that has all its arrivals still waits for its condition. -/
def Snap.bar (p : Snap) (carry : Option Carry) (procs : List Nat) (i : Nat) (b : Nat × Nat) : Barrier :=
  let o := p.section 3 + 16 * i
  let kept := carry.bind fun c => c.bars[i]?
  { id := b.1, count := b.2, gen := p.u (o + 8) 4, sstep := (kept.map (·.1)).getD false, due := b.2 != 0 && p.u (o + 12) 4 == b.2
    here := match kept with
      | some y => y.2.map fun j => (procs[j]?).getD 0
      | none => List.replicate (p.u (o + 12) 4) (procs.head?.getD 0) }

/-- R307, R170: an array residency, without a slot until its process is placed; one that was ready is evicted. -/
def Snap.resid (p : Snap) (ten : Nat) (procs : List Nat) (i : Nat) : Resid :=
  let o := p.section 4 + 32 * i
  let h := p.u o 4
  let f := p.u (o + 5) 1
  { bank := false, handle := h, spot := tileNo (bitsAt h 24 7) (bitsAt h 18 6), slot := bitsAt h 8 4, gen := h % 256
    owner := (procs[p.u (o + 6) 2]?).getD 0, tenant := ten
    state := match p.u (o + 4) 1 with
      | 2 => .evicted
      | 3 => .evicted
      | 4 => .stale
      | _ => .empty
    refresh := f % 2 == 1, pinned := bitsAt f 1 1 == 1, global := bitsAt f 2 1 == 1, source := p.w (o + 8), noSlot := true }

/-- What the chain at which a process goes on has issued: what the hub kept, or what the snapshot shows. -/
def Snap.issued (x : Net) (carry : Option Carry) (served : List (Nat × Nat × Tok)) (k i : Nat) (c : Ctx) (chain : Decoded) : Issued :=
  match carry.bind fun y => y.issued[i]? with
  | some y => y
  | none =>
    let got := served.find? fun y => y.2.1 == i
    let pool := (List.range x.pools.length).find? fun j => (x.pools[j]?).elim false fun y => y.gets.any fun g => g.proc == k
    { got := got.map (·.2.2), asked := pool.isSome || got.isSome, pool := (pool.or (got.map (·.1))).getD 0
      arrived := match chain with
        | .ok (.bar y) _ => if (c.pendingAt y.aImm).isSome then some y.aImm else none
        | .ok (.sstep y) _ => if (c.pendingAt y.aImm).isSome then some y.aImm else none
        | _ => none }

/-- R309: process i of network n from its entry; none where its record fails a check of R215. -/
def Mach.rebuildProc (s : Mach) (n : Nat) (p : Snap) (carry : Option Carry) (served : List (Nat × Nat × Tok)) (i : Nat) : Option Mach :=
  match (s.net n).bind fun x => (x.procs[i]?).map fun k => (x, k) with
  | none => some s
  | some (x, k) => match s.proc k with
    | none => some s
    | some q =>
      let o := p.section 0 + 32 * i
      let st := p.u o 1
      if st = 3 then some (s.updProc k fun q => { q with st := .exited, started := true })
      else if (carry.map fun c => c.fresh.contains i).getD false then some s
      else
        let base := s.freshCtx k
        let at0 := p.u (o + 8) 8
        let len := p.u (at0 + 56) 4
        let r : Saved := { bits := natOfBytes (p.slice at0 len), len := (p.slice at0 len).length, bad := [] }
        let m' := { s.select k with ctx := base }
        match m'.recordCheck q r with
        | some _ => none
        | none =>
          let c := { r.restore base ((m'.recordQueues q.decl.sup r).getD []) with
            place := none, diag := (carry.bind fun y => y.diag[i]?).getD base.diag }
          let image := p.slice (p.u (o + 16) 8) (p.u (o + 24) 8)
          let spans := [0, 2, 1, 3].map fun j => winSpan (c.win[j]?.getD 0)
          let (slot, m) := m'.takeKey
          let m := m.put (Key.save slot 0) (p.slice at0 len)
          let (m, _) := spans.foldl (fun (acc : Mach × List Byte) y =>
            (acc.1.put (Key.save slot (2 ^ 20 + y.1)) (acc.2.take (y.2 - y.1)), acc.2.drop (y.2 - y.1))) (m, image)
          let hs := (List.range 5).map fun j => BitVec.ofNat 16 (Mem.nat m.mem (Key.save slot (2 ^ 20 + c.pc.toNat + 2 * j)) 2)
          let c := { c with issued := Snap.issued x carry served k i c (decodeWords hs) }
          let words := fun (from0 cnt : Nat) => (List.range cnt).map fun j => p.w (from0 + 8 * j)
          let m := { m with ctx := c }.updProc k fun q =>
            { q with started := true, saved := some (slot, len), park := c.next
                     st := if st = 2 then .parked else .unplaced
                     record := if st = 2 then some (words (at0 + len) 8) else none }
          let toks := words (at0 + len) (p.u (o + 4) 4)
          let late := (toks.length - 512 + 7) / 8 * 8
          let queued := (pieces (late / 8 + 1) 8 (toks.drop (toks.length - late))).map fun l =>
            (bitsAt ((l.head?).getD 0).toNat 32 16, l)
          some (if q.decl.sup then m.updNet n fun x => { x with faultBuf := toks.take (toks.length - late), faultQ := queued } else m)

/-- R217: a placement entry is a hint of kind 1. -/
def Image.hinted (im : Image) (place : List Hint) : Image :=
  { im with procs := (List.range im.procs.length).filterMap fun i => (im.procs[i]?).map fun d =>
      match place.find? fun h => h.proc == i with
      | some h => { d with hkind := 1, hint := h.x + 256 * h.y }
      | none => d }

/-- R309 step 1: process k of a snapshot on a place; a parked one stays parked. -/
def Mach.revive (s : Mach) (k : Nat) : Option Mach := match s.proc k with
  | none => none
  | some p => match p.saved with
    | none => if p.st == .unplaced && !p.started then (s.findPlace k).map (s.seat k) else none
    | some (slot, len) => (s.findPlace k).map fun pl =>
        let m := s.restoreAt k slot (s.heldRecord slot len) pl
        let m := { m with ctx := { m.ctx with issued := p.ctx.issued } }
        if p.st = .parked then m.updProc k fun q => { q with st := .parked } else m

/-- Processes of a network revived, in ascending index, as far as `all` demands it and places allow. -/
def Mach.reviveAll (s : Mach) (n : Nat) (pick : Proc → Bool) (all : Bool) : Option Mach :=
  (((s.net n).map (·.procs)).getD []).foldl (fun acc k => acc.bind fun m => match m.proc k with
    | none => some m
    | some p =>
      if p.st == .exited || m.isPlaced k || !pick p then some m
      else match m.deselect.revive k with
        | some m => some m
        | none => if all then none else some m) (some s)

def refused (x : Int) : Word := BitVec.ofInt 64 x

/-- What the hub keeps beside this snapshot; beside one that is changed, what it kept last of the network. -/
def Mach.carryFor (s : Mach) (ten : Nat) (p : Snap) : Option Carry :=
  let mine := s.carries.filter fun c => c.tenant == ten && c.nid == p.nid
  (mine.find? fun c => c.snap == p).or mine.head?

/-- R217: the hub's answer to a resumption, and the rebuilt network: its pinned processes placed, all else recorded. DEDUCED: log entry 64. -/
def Mach.hubResume (s : Mach) (ten : Nat) (a : Word) (index queue : Nat) (place : List Hint) (phase : Nat) : Word × Mach :=
  match s.settle.readSnapshot ten a with
  | none => (refused (-1), s)
  | some p => match s.images.find? fun i => i.handle == p.image && i.tenant == ten && i.live with
    | none => (refused (-1), s)
    | some im =>
      if p.u 24 4 ≠ im.procs.length || p.u 28 4 ≠ im.chans.length || p.u 32 4 ≠ im.pools.length || p.u 36 4 ≠ im.bars.length then
        (refused (-1), s)
      else
        let carry := s.carryFor ten p
        let old := (List.range s.nets.length).find? fun n => ((s.net n).map fun x =>
          !x.live && x.tenant == ten && x.nid == p.nid && s.subs.any fun b => b.home == some n && b.ended == some 6).getD false
        let (g, m) := s.deselect.takeKey
        let graph := 65536 + g
        let l : Launch :=
          { tenant := ten, index := index, queue := queue, graph := graph, nid := p.nid
            replay := carry.bind (·.replay), marks := ((old.bind s.net).map (·.marks)).getD []
            outMark := (old.bind s.net).bind (·.outMark) }
        let (m, n) := m.openNet (im.hinted place) l
        let procs := ((m.net n).map (·.procs)).getD []
        let pools := (List.range im.pools.length).filterMap fun i => (im.pools[i]?).map (p.pool procs i)
        let served := ((List.range pools.length).zip pools).flatMap fun (i, y) => y.2.map fun t => (i, t.1, t.2)
        let chans := (List.range im.chans.length).filterMap fun i => (im.chans[i]?).map (p.chan carry i)
        let grown := (chans.map (·.grown)).foldl (· + ·) 0 +
          (pools.map fun y => grownGranules y.1.decl.vector y.1.slots 64 y.1.decl.slots).foldl (· + ·) 0
        let resids := (List.range (p.u 44 4)).map (p.resid ten procs)
        let m := m.updNet n fun x => { x with
          resumed := true
          chans := chans
          pools := pools.map (·.1)
          bars := (List.range im.bars.length).filterMap fun i => (im.bars[i]?).map (p.bar carry procs i)
          grow := x.grow - grown
          discard := (carry.map (·.discard)).getD 0
          declared := (carry.map (·.declared)).getD x.declared
          digests := (carry.map (·.digests)).getD [] }
        let m := { m with resids := m.resids ++ resids }
        match (List.range procs.length).foldl (fun acc i => acc.bind fun m => m.rebuildProc n p carry served i) (some m) with
        | none => (refused (-1), s)
        | some m =>
          if s.isLive ten 0 index then (refused (-2), s)
          else if procs.any (fun k => s.quotaArr ten < resids.countP fun r => r.owner == k) then (refused (-3), s)
          else match m.reviveAll n (·.decl.pinned) true with
            | none => (refused (-3), s)
            | some m =>
              if s.nets.any fun x => x.live && !x.guest && x.nid == p.nid then (refused (-4), s)
              else
                let left := procs.countP fun k => !m.hasExited k
                let m := m.addMember ten 2 phase
                let m := m.claim { tenant := ten, level := 1, index := graph, parent := phase, queue := queue, members := 1, left := 1 }
                let m := m.claim { tenant := ten, level := 0, index := index, parent := graph, queue := queue, members := procs.length, left := left }
                let m := { m with
                  subs := m.subs.map fun (b : Sub) => if old.isSome && b.home == old then { b with home := some n, ended := none } else b
                  nets := m.nets.map fun (x : Net) => { x with marks := x.marks.map fun (y : Mark) => if some y.producer == old then { y with producer := n } else y } }
                (0, m.deselect)

/-! `resume.snap`. -/

/-- R217: a placement entry, or none where it is malformed: one with a row that no tile has is; one that names a process beyond the
network's is ignored. DESIGN CHOICE: log entry 131. -/
def placeEntry (w : Nat) : Option Hint :=
  if bitsAt w 22 2 ≠ 0 || bitsAt w 30 34 ≠ 0 || 32 ≤ bitsAt w 16 6 then none
  else some { proc := bitsAt w 0 16, x := bitsAt w 24 6, y := bitsAt w 16 6 }

def resumeSnap (x : F2) (s : Mach) : Try Done := do
  needTenant s
  let a := s.g x.aN
  let key ← s.ownLocal a 64 64 true false
  s.clean key 64 a
  let d := s.readNat a key 64
  let snap : Word := BitVec.ofNat 64 (fieldAt d 0 8)
  let place := fieldAt d 16 8
  let n := fieldAt d 24 4
  if !isGlobal snap || fieldAt d 0 8 % 4096 ≠ 0 || 65536 ≤ fieldAt d 8 4 || fieldAt d 12 4 ≠ 0 || 65536 < n || fieldAt d 28 36 ≠ 0 then
    illegal 0x0C a
  let hints ← if place = 0 then .ok [] else do
    let at0 : Word := BitVec.ofNat 64 place
    if place % 8 ≠ 0 then illegal 0x0C a
    let k ← s.ownLocal at0 8 (8 * n) true false
    s.clean k (8 * n) at0
    let es := (List.range n).map fun i => placeEntry (s.readNat (at0 + BitVec.ofNat 64 (8 * i)) (k + 8 * i) 8)
    if es.any (·.isNone) then illegal 0x0C a
    .ok (es.filterMap id)
  let ten := s.tenantNo.getD 0
  let phase := ((s.curNet.bind fun y => s.entry ten 1 y.graph).map (·.parent)).getD 0
  let (r, m) := s.hubResume ten snap (fieldAt d 8 4) 65536 hints phase
  .ok { m := (match s.cur with
    | some k => m.select k
    | none => m).setG x.dN r }

def execResumeSnap (x : F2) (s : State) : Host.Outcome State Fault Refusal := chain x.len s (resumeSnap x)

/-- R309: the other processes of the network number k are placed where they fit, and the network goes on. -/
def execSnapshotRebuild (k : Nat) (s : State) : Host.Outcome State Fault Refusal :=
  match s.toMach.net k with
  | none => .next s
  | some x =>
    if x.resumed && !x.started && x.live && !x.cancel then
      let m := (s.toMach.reviveAll k (fun _ => true) false).getD s.toMach
      .next { s with toMach := (m.updNet k fun x => { x with started := true, active := true }).tock }
    else .next s

end Sys2Proof.Machine
end

