-- ==== Sys2Proof/Machine/Sqp.lean ====
section
/-! DEFINITION. What the hub does with each message of the Swius Queue Protocol (R330 to R332, R334, R335, R338). A message
function answers with the new state, the code of R332, a detail and data; a refused message has no effect. -/

namespace Sys2Proof.Machine

structure Answer where
  s      : State
  code   : Nat := 0
  detail : Nat := 0
  data   : List Byte := []
  deriving DecidableEq, Repr

/-- R332: a refused message. -/
def refuse (s : State) (code : Nat) (detail : Nat := 0) : Answer := { s := s, code := code, detail := detail }

/-- R330: the class of queue that a message type belongs to; `device` is management queue 0. -/
inductive MsgLevel where
  | work | mgmt | device
  deriving DecidableEq, Repr

def onDevice (h : Sqp) : Bool := h.mgmt && h.queue == 0

/-- A message on a queue of the wrong class is malformed; one above its queue's level is not permitted. DEDUCED: log entry 69. -/
def onLevel (l : MsgLevel) (h : Sqp) (s : State) (f : State → Answer) : Answer :=
  if h.mgmt != (l != .work) then refuse s 6
  else if l = .device && !onDevice h then refuse s 8
  else f s

def withMach (s : State) (m : Mach) : State := { s with toMach := m }

/-! Submissions (R254, R330). -/

/-- Entries of queue SRAM in use, and the room beyond it. -/
def queueEntries : Nat := 262144
def Sub.waits (b : Sub) : Bool := b.home.isNone && b.ended.isNone
def Mach.inSram (s : Mach) : Nat := s.subs.countP fun b => b.waits && !b.aside
def Mach.inOverflow (s : Mach) (ten : Nat) : Nat := s.subs.countP fun b => b.waits && b.aside && b.tenant == ten

/-- R331, R332: n more entries of a tenant find no room. -/
def Mach.sramFull (s : Mach) (ten n : Nat) : Bool :=
  (queueEntries - s.inSram) + (Config.overflow ten - s.inOverflow ten) < n

/-- The launch arguments of a submission: the image's, or eight doublewords for each process at a global address. -/
def Mach.subArgs (s : Mach) (ten : Nat) (a : Word) (n : Nat) : Option (List (List Word)) :=
  if a = 0 then some []
  else if !isGlobal a || a.toNat % 8 ≠ 0 then none
  else (s.settle.readAll ten a (64 * n)).map fun bs =>
    pieces n 8 ((pieces (8 * n) 8 bs).map fun b => BitVec.ofNat 64 (natOfBytes b))

def Mach.tenantImage (s : Mach) (ten h : Nat) : Option Image := s.images.find? fun i => i.handle == h && i.tenant == ten && i.live

/-- What stands against a submission of a network, or its image and arguments. DEDUCED: log entry 66. -/
def Mach.checkSub (s : Mach) (ten : Nat) (m : SubmitNet) : Except Nat (Image × List (List Word)) :=
  if 65536 ≤ m.index then .error 6
  else match s.tenantImage ten m.image with
    | none => .error 1
    | some im =>
      if s.isLive ten 0 m.index then .error 2
      else match s.subArgs ten m.args im.procs.length with
        | none => .error 6
        | some args => if s.couldRun ten im then .ok (im, args) else .error 3

/-- A phase that is not live is opened; a job that had become final is live again. DEDUCED: log entry 117. -/
def Mach.usePhase (s : Mach) (ten phase queue : Nat) : Mach :=
  if s.isLive ten 2 phase then s
  else
    let s := if s.isLive ten 3 0 then s else s.claim { tenant := ten, level := 3, index := 0, parent := 0, queue := 65536 }
    (s.claim { tenant := ten, level := 2, index := phase, parent := 0, queue := queue }).addMember ten 3 0

/-- A graph claims its entry in a phase. -/
def Mach.useGraph (s : Mach) (ten graph phase queue : Nat) : Mach :=
  ((s.usePhase ten phase queue).claim { tenant := ten, level := 1, index := graph, parent := phase, queue := queue }).addMember ten 2 phase

/-- A network claims its entry and waits in queue SRAM, or in its tenant's overflow region (R331). -/
def Mach.useNet (s : Mach) (ten queue graph : Nat) (m : SubmitNet) (im : Image) (args : List (List Word)) : Mach :=
  let s := (s.addMember ten 1 graph).claim
    { tenant := ten, level := 0, index := m.index, parent := graph, queue := queue, members := im.procs.length, left := im.procs.length }
  { s with subs := s.subs ++
      [{ tenant := ten, queue := queue, net := { m with graph := graph }, args := args, aside := queueEntries ≤ s.inSram }] }

/-- May a graph of a phase be joined by a network: its phase, and the code against it. DEDUCED: log entry 65. -/
def Mach.graphBad (s : Mach) (ten graph phase : Nat) : Option Nat := match s.entry ten 1 graph, s.entry ten 2 phase with
  | some g, p =>
    if g.live then (if g.cancel then some 2 else if g.parent = phase then none else some 6)
    else (p.bind fun p => if p.live && p.cancel then some 2 else if p.live && p.closed then some 6 else none)
  | none, some p => if p.live && p.cancel then some 2 else if p.live && p.closed then some 6 else none
  | none, none => none

def submitNetworkMsg (h : Sqp) (m : SubmitNet) (s : State) : Answer := onLevel .work h s fun s =>
  let ten := h.tenant
  if 65536 ≤ m.graph || 65536 ≤ m.phase then refuse s 6
  else match s.toMach.checkSub ten m, s.toMach.graphBad ten m.graph m.phase with
    | .error c, _ => refuse s c
    | .ok _, some c => refuse s c
    | .ok (im, args), none =>
      if s.toMach.sramFull ten 1 then refuse s 7
      else
        let x := if s.toMach.isLive ten 1 m.graph then s.toMach else s.toMach.useGraph ten m.graph m.phase h.queue
        { s := withMach s (x.useNet ten h.queue m.graph m im args) }

/-- R238: do the edges among n networks leave no cycle: networks without a predecessor are taken away until none is left. -/
def acyclic : Nat → List Nat → List (Nat × Nat) → Bool
  | 0, left, _ => left.isEmpty
  | f + 1, left, es =>
    let free := left.filter fun i => !es.any fun e => e.2 == i
    acyclic f (left.filter fun i => !free.contains i) (es.filter fun e => !free.contains e.1)

/-- R254, R257: edges between networks of the submission, without a cycle, each watermark counter sound. -/
def Mach.edgesOk (s : Mach) (ten n : Nat) (es : List Edge) : Bool :=
  es.all (fun e => e.src < n && e.dst < n && (e.kind != .watermark || (s.hubCounter ten e.ctr).isSome)) &&
  acyclic (n + 1) (List.range n) (es.map fun e => (e.src, e.dst))

def submitGraphMsg (h : Sqp) (graph phase : Nat) (nets : List SubmitNet) (edges : List Edge) (s : State) : Answer :=
  onLevel .work h s fun s =>
    let ten := h.tenant
    let n := nets.length
    if 65536 ≤ graph || 65536 ≤ phase || n = 0 || 256 < n || !s.toMach.edgesOk ten n edges then refuse s 6
    else if s.toMach.isLive ten 1 graph || repeats (nets.map (·.index)) then refuse s 2
    else match nets.mapM (s.toMach.checkSub ten), s.toMach.graphBad ten graph phase with
      | .error c, _ => refuse s c
      | .ok _, some c => refuse s c
      | .ok l, none =>
        if s.toMach.sramFull ten n then refuse s 7
        else
          let base := s.subs.length
          let m := (nets.zip l).foldl (fun m y => m.useNet ten h.queue graph y.1 y.2.1 y.2.2) (s.toMach.useGraph ten graph phase h.queue)
          { s := withMach s { m with deps := m.deps ++ edges.map fun e =>
              { src := base + e.src, dst := base + e.dst, kind := e.kind, ctr := e.ctr, base := e.base } } }

/-! Phases, cancels, teardown. -/

def openPhaseMsg (h : Sqp) (phase : Nat) (s : State) : Answer := onLevel .work h s fun s =>
  if 65536 ≤ phase then refuse s 6
  else if s.toMach.isLive h.tenant 2 phase then refuse s 2
  else { s := withMach s (s.toMach.usePhase h.tenant phase h.queue) }

def closePhaseMsg (h : Sqp) (phase : Nat) (s : State) : Answer := onLevel .work h s fun s =>
  if !s.toMach.isLive h.tenant 2 phase then refuse s 6
  else { s := withMach s (s.toMach.updEntry h.tenant 2 phase fun e => { e with closed := true }) }

def cancelMsg (h : Sqp) (level index : Nat) (s : State) : Answer := onLevel .work h s fun s =>
  if 4 ≤ level || 65536 ≤ index then refuse s 6 else { s := withMach s (s.toMach.askCancel h.tenant level index) }

/-- R266, R330: a teardown of a work queue begins. -/
def startTeardown (s : State) (queue : Nat) (e : Ending) : State :=
  { s with port := s.port.updQueue false queue fun q => { q with tearing := true, torn := false, ending := e } }

def teardownMsg (h : Sqp) (s : State) : Answer := onLevel .work h s fun s => { s := startTeardown s h.queue .torn }
def resetMsg (h : Sqp) (s : State) : Answer := onLevel .work h s fun s => { s := startTeardown s h.queue .reopen }

/-! Images (R249, R256). -/

/-- DEDUCED: log entry 68. -/
def registerImageMsg (h : Sqp) (addr : Word) (len : Nat) (s : State) : Answer := onLevel .mgmt h s fun s =>
  if !isGlobal addr then refuse s 6
  else match s.toMach.settle.readAll h.tenant addr len with
    | none => refuse s 6
    | some bs =>
      let handle := s.images.length + 1
      match loadImage handle h.tenant bs with
      | .error c => refuse s 4 c
      | .ok im => { s := withMach s { s.toMach with images := s.images ++ [im] }, detail := handle }

def updImage (m : Mach) (h : Nat) (f : Image → Image) : Mach :=
  { m with images := m.images.map fun i => if i.handle == h then f i else i }

def prePlaceMsg (h : Sqp) (handle : Nat) (s : State) : Answer := onLevel .mgmt h s fun s =>
  match s.toMach.tenantImage h.tenant handle with
  | none => refuse s 1
  | some im =>
    if im.ready then { s := s }
    else match s.toMach.planSlots im with
      | none => refuse s 3
      | some l => { s := withMach s ((updImage s.toMach handle fun i => { i with ready := true, slots := l }).preload im l) }

def releaseMsg (h : Sqp) (handle : Nat) (s : State) : Answer := onLevel .mgmt h s fun s =>
  match s.toMach.tenantImage h.tenant handle with
  | none => refuse s 1
  | some im => if im.ready then { s := withMach s (updImage s.toMach handle fun i => { i with ready := false, slots := [] }) } else refuse s 1

/-! Cuts and resumptions (R209, R217). -/

def cutMsg (h : Sqp) (index : Nat) (addr : Word) (s : State) : Answer := onLevel .work h s fun s =>
  if 65536 ≤ index || !isGlobal addr || addr.toNat % 4096 ≠ 0 then refuse s 6
  else match s.toMach.liveNet h.tenant index with
    | some n => { s := withMach s (s.toMach.startCut n addr) }
    | none => { s := s }

def resumeMsg (h : Sqp) (snap : Word) (index : Nat) (place : List Hint) (s : State) : Answer := onLevel .work h s fun s =>
  if 65536 ≤ index || !isGlobal snap || snap.toNat % 4096 ≠ 0 || 65536 < place.length ||
      place.any (fun p => 65536 ≤ p.proc || 64 ≤ p.x || 32 ≤ p.y) then refuse s 6
  else
    let (r, m) := (s.toMach.usePhase h.tenant 0 h.queue).hubResume h.tenant snap index h.queue place 0
    if r = 0 then { s := withMach s m }
    else if r = BitVec.ofInt 64 (-1) then refuse s 1
    else if r = BitVec.ofInt 64 (-2) then refuse s 2
    else if r = BitVec.ofInt 64 (-3) then refuse s 3
    else refuse s 10

/-! Opening and closing queues (R329). -/

/-- The tenant that a queue is assigned to; management queue 0 is the device owner's. -/
def Mach.queueOwner (s : Mach) (mgmt : Bool) (queue : Nat) : Option Nat :=
  if mgmt && queue == 0 then some 0
  else (s.tenants.find? fun t => !t.gone && t.queues.contains (if mgmt then 65536 + queue else queue)).map (·.id)

def queueNoOk (mgmt : Bool) (queue : Nat) : Bool := if mgmt then queue < 16 else queue < 65536

/-- May the sender open or close a queue: the owner any, a tenant its own. -/
def mayManage (h : Sqp) (mgmt : Bool) (queue : Nat) (s : State) : Option Nat := match s.toMach.queueOwner mgmt queue with
  | none => none
  | some t => if onDevice h || (t == h.tenant && !(mgmt && queue == 0)) then some t else none

/-- DEDUCED: log entry 71. -/
def openQueueMsg (h : Sqp) (mgmt : Bool) (queue pub : Nat) (s : State) : Answer := onLevel .mgmt h s fun s =>
  if !queueNoOk mgmt queue || 2 ^ 1064 ≤ pub then refuse s 6
  else match mayManage h mgmt queue s with
    | none => refuse s 8
    | some t =>
      let old := (s.port.queueOf mgmt queue).getD { mgmt := mgmt, queue := queue, tenant := t }
      if old.tearing then refuse s 5
      else
        let hub := Config.hubPublic s.tick
        let q := ({ old with tenant := t, pub := pub, hub := hub, epoch := 0 }.fresh).derive
        { s := { s with port := { s.port with queues := (s.port.queues.filter fun y => !y.isAt mgmt queue) ++ [q] } }, data := bytesBig 133 hub }

def closeQueueMsg (h : Sqp) (mgmt : Bool) (queue : Nat) (s : State) : Answer := onLevel .mgmt h s fun s =>
  if !queueNoOk mgmt queue then refuse s 6
  else match mayManage h mgmt queue s, s.port.queueOf mgmt queue with
    | none, _ => refuse s 8
    | some _, none => refuse s 5
    | some _, some q =>
      if !q.isOpen || q.tearing then refuse s 5
      else if mgmt then { s := { s with port := s.port.updQueue mgmt queue fun y => { y with isOpen := false } } }
      else { s := startTeardown s queue .close }

/-! Jobs (R338, R339, R30). -/

def jobFieldsOk (j : JobDecl) : Bool :=
  j.tenant < 2 ^ 32 && j.tiles.all (· < Config.tiles) && j.stackNos.all (· < Config.stackCount) &&
  j.queues.all (fun q => q < 65552 && q != 65536) && !repeats j.tiles && !repeats j.stackNos && !repeats j.queues && !repeats j.rows &&
  j.rows.all (· < 2304 * 2 ^ 9) && j.bank.all (fun b => b.1 < Config.stackCount) && !repeats (j.bank.map (·.1)) &&
  j.ranges.all (fun r => r.1 < Config.rangeEntries && (rangeImage r.2).isSome) && !repeats (j.ranges.map (·.1))

/-- A resource that another tenant holds, or that is still being zeroed. -/
def Mach.taken (s : Mach) (j : JobDecl) : Bool :=
  j.tiles.any (fun t => (s.tile t).zeroing || s.tenants.any fun y => y.tiles.contains t) ||
  j.stackNos.any (fun k => !(s.bankRows k).isEmpty || s.tenants.any fun y => y.stackNos.contains k || !y.rows.isEmpty) ||
  j.queues.any (fun q => s.tenants.any fun y => y.queues.contains q) ||
  (!j.rows.isEmpty && s.tenants.any fun y => !y.stackNos.isEmpty || y.rows.any j.rows.contains) ||
  j.rows.any fun i => (List.range Config.stackCount).any fun k => meetsRows (s.bankRows k) (mibSpan (i * 2 ^ 21) (2 ^ 21) 3072)

def jobTable (j : JobDecl) : List (Nat × RangeEntry) :=
  sortBy (·.1) (j.ranges.filterMap fun r => (rangeImage r.2).map fun e => (r.1, e))

def jobTenant (j : JobDecl) : Tenant :=
  { id := j.tenant, tiles := j.tiles, stackNos := j.stackNos, queues := j.queues, arr := j.arr.getD 0, bank := j.bank, rows := j.rows
    active := jobTable j, staged := jobTable j, pool := Config.savePool j.tenant }

/-- DEDUCED: log entry 74. -/
def jobStartMsg (h : Sqp) (j : JobDecl) (s : State) : Answer := onLevel .device h s fun s =>
  if !jobFieldsOk j || tableOverlaps (jobTable j) then refuse s 6
  else match s.toMach.tenant j.tenant with
    | some t => refuse s (if t.gone then 3 else 2)
    | none =>
      if s.toMach.taken j || (jobTable j).any (fun e => e.2.valid && !(jobTenant j).owns e.2) then refuse s 3
      else { s := withMach s (({ s.toMach with tenants := s.tenants ++ [jobTenant j] }).claim
              { tenant := j.tenant, level := 3, index := 0, parent := 0, queue := 65536 }) }

/-- R338, R339: what lives is cancelled; images, regions and queues go; the tiles are to be zeroed. DEDUCED: log entry 75. -/
def endJob (s : State) (t : Tenant) : State :=
  let m := s.toMach.updEntry t.id 3 0 fun e => { e with closed := true, cancel := e.cancel || e.live }
  let m := (m.cancelBelow 4 t.id 3 0).depCancel
  let m := (List.range m.nets.length).foldl (fun m n => if ((m.net n).map fun x => x.live && x.guest && x.tenant == t.id).getD false then m.dropGuest n else m) m
  let m := { m.updTenant t.id fun t => { t with gone := true } with
    images := m.images.map fun (i : Image) => if i.tenant == t.id then { i with live := false, ready := false, slots := [] } else i }
  let m := t.tiles.foldl (fun m k => m.updTile k fun y => { y with zeroing := true }) m
  { s with
    toMach := m
    port := { s.port with
      regions := s.port.regions.map fun r => if r.tenant == t.id then { r with live := false } else r
      queues := s.port.queues.map fun q =>
        if q.tenant != t.id || (q.mgmt && q.queue == 0) || !q.isOpen then q
        else if q.mgmt then { q with isOpen := false }
        else { q with tearing := true, torn := false, ending := .close } } }

def jobEndMsg (h : Sqp) (tenant : Nat) (s : State) : Answer := onLevel .device h s fun s =>
  match s.toMach.tenant tenant with
  | some t => if t.gone then refuse s 1 else { s := endJob s t }
  | none => refuse s 1

/-! The other functions of R338. -/

def rangeRegionMsg (h : Sqp) (tenant : Nat) (base : Word) (len : Nat) (rd w : Bool) (s : State) : Answer := onLevel .device h s fun s =>
  if ((s.toMach.tenant tenant).map (·.gone)).getD true then refuse s 1
  else if !isGlobal base || 2 ^ 48 < bitsAt base.toNat 0 48 + len || bitsAt base.toNat 48 14 ≠ 0 then refuse s 6
  else
    let key := s.port.regions.length + 1
    { s := { s with port := { s.port with regions := s.port.regions ++
        [{ rkey := key, tenant := tenant, base := base, len := len, rd := rd, w := w }] } }, detail := key }

def hostWindowMsg (h : Sqp) (tenant base len : Nat) (s : State) : Answer := onLevel .device h s fun s =>
  if (s.toMach.tenant tenant).isNone then refuse s 1
  else if 2 ^ 64 < base + len then refuse s 6
  else { s := withMach s (s.toMach.updTenant tenant fun t => { t with window := (base, len) }) }

def setAgeCapMsg (h : Sqp) (server cap : Nat) (s : State) : Answer := onLevel .device h s fun s =>
  if Config.servers ≤ server || cap < 64 || 65535 < cap then refuse s 6
  else { s := withMach s (s.toMach.updServer server fun y => { y with cap := cap }) }

def setTimeoutMsg (h : Sqp) (ns : Nat) (s : State) : Answer := onLevel .device h s fun s =>
  if ns < 10000 || 100000000 < ns then refuse s 6 else { s := { s with port := { s.port with timeout := ns } } }

/-- R337: an entry of the log in its 64 bytes. -/
def LogEntry.bytes (e : LogEntry) : List Byte :=
  padTo 64 (bytesOfNat 8 e.starts ++ bytesOfNat 1 e.source ++ bytesOfNat 1 e.code ++ bytesOfNat 1 e.spot ++ [0] ++
    bytesOfNat 4 e.detail ++ bytesOfNat 16 e.place)

def readLogMsg (h : Sqp) (s : State) : Answer := onLevel .device h s fun s => { s := s, data := s.port.log.flatMap (·.bytes) }
def clearLogMsg (h : Sqp) (s : State) : Answer := onLevel .device h s fun s => { s := { s with port := { s.port with log := [] } } }

/-- R338: may the sender read the counters of a tile, a server or a die. -/
def Mach.ownsCounter (s : Mach) (ten domain spot : Nat) : Bool := match s.tenant ten with
  | none => false
  | some t => match domain with
    | 1 => t.tiles.contains spot
    | 2 => t.stackNos.contains (spot % 24) || !t.rows.isEmpty
    | _ => t.tiles.any fun k => dieOf k == spot

def counterNoOk (domain spot num : Nat) : Bool := match domain with
  | 1 => spot < Config.tiles && num < 5
  | 2 => spot < Config.servers && num < 8
  | 3 => spot < 8 && num < 9
  | _ => false

/-- R340: the counts of a die stand behind the domains of `rdctr`. -/
def State.counterOf (s : State) (domain spot num : Nat) : Word :=
  if domain = 3 then BitVec.ofNat 64 (((s.port.dies[spot]?).bind fun d => d.soft[num]?).getD 0)
  else s.toMach.counterValue domain num spot

def readCountersMsg (h : Sqp) (domain spot num : Nat) (s : State) : Answer := onLevel .mgmt h s fun s =>
  if !counterNoOk domain spot num then refuse s 6
  else if !onDevice h && !s.toMach.ownsCounter h.tenant domain spot then refuse s 8
  else { s := s, data := bytesOfWord (s.counterOf domain spot num) }

def releaseSeedsMsg (h : Sqp) (nid : Nat) (s : State) : Answer := onLevel .mgmt h s fun s =>
  { s := withMach s { s.toMach with seeds := s.seeds.filter fun (y : Seed) => !(y.tenant == h.tenant && y.nid == nid) } }

def setUdpPortMsg (h : Sqp) (port : Nat) (s : State) : Answer := onLevel .device h s fun s =>
  if 65536 ≤ port then refuse s 6 else { s := { s with port := { s.port with udpPort := port } } }

/-! Identity, attestation, firmware (R334, R335). -/

def certificatesMsg (h : Sqp) (s : State) : Answer := onLevel .device h s fun s => { s := s, data := Config.certificates }

/-- R335: bytes 0 to 255 of the report. DESIGN CHOICE: log entry 11. -/
def State.report (s : State) (nonce : BitVec 512) : List Byte :=
  let table := s.tenants.map fun t => (t.id, t.tiles, t.stackNos, t.queues)
  padTo 256 (bytesOfNat 64 nonce.toNat ++ hashBytes s.port.firmware.body ++ bytesOfNat 4 s.port.firmware.version ++
    bytesOfNat 4 s.port.firmware.fuses ++ bytesOfNat 16 Config.serial.toNat ++ bytesOfNat 1 (if s.port.lastCold then 1 else 2) ++
    bytesOfNat 7 0 ++ bytesOfNat 8 s.port.starts ++ hashBytes (Config.assignments table))

def attestMsg (h : Sqp) (nonce : BitVec 512) (s : State) : Answer := onLevel .mgmt h s fun s =>
  let r := s.report nonce
  { s := s, data := r ++ bytesOfNat 132 (Config.identitySign s.tick r).toNat }

/-- R334: bytes of the whole image that a staged header announces. -/
def firmwareLength (b : List Byte) : Nat := 512 + field b 16 8

/-- R334: the check of a whole image, with the rule on its rollback value. DEDUCED: log entry 76. -/
def firmwareOk (b : List Byte) (fuses : Nat) : Bool :=
  field b 0 8 == 0x574649524D574152 && field b 12 4 < 64 && field b 16 8 ≤ 2 ^ 24 && b.length == firmwareLength b &&
  ((b.drop 220).take 292).all (· == 0) && hashBytes (b.drop 512) == (b.drop 24).take 64 && Config.firmwareSigOk (b.take 220) &&
  fuses ≤ field b 12 4

/-- R334: a chunk is staged; the image that it completes is checked whole and written to flash, or leaves the controller
in recovery. -/
def Firmware.stage (f : Firmware) (bytes : List Byte) : Firmware :=
  let b := f.staged ++ bytes
  if b.length < 512 || (b.length < firmwareLength b && field b 16 8 ≤ 2 ^ 24) then { f with staged := b }
  else if firmwareOk b f.fuses then { f with staged := [], flash := some b }
  else { f with staged := [], recovery := true }

/-- A chunk in order is accepted (R332: a refused message has no effect); what it completes fails or holds by itself. -/
def firmwareMsg (h : Sqp) (bytes : List Byte) (s : State) : Answer := onLevel .device h s fun s =>
  if bytes.isEmpty || 8144 < bytes.length then refuse s 6
  else { s := { s with port := { s.port with firmware := s.port.firmware.stage bytes } } }

/-! Delivery (R331). -/

/-- What a message asks for. -/
def State.apply (s : State) (h : Sqp) : Msg → Answer
  | .submitNetwork m => submitNetworkMsg h m s
  | .submitGraph g p ns es => submitGraphMsg h g p ns es s
  | .openPhase p => openPhaseMsg h p s
  | .closePhase p => closePhaseMsg h p s
  | .sqpCancel l i => cancelMsg h l i s
  | .teardownQueue => teardownMsg h s
  | .resetQueue => resetMsg h s
  | .registerImage a n => registerImageMsg h a n s
  | .prePlaceImage i => prePlaceMsg h i s
  | .releaseImage i => releaseMsg h i s
  | .sqpCut i a => cutMsg h i a s
  | .resumeSnapshot a i p => resumeMsg h a i p s
  | .openQueue c q pub => openQueueMsg h c q pub s
  | .closeQueue c q => closeQueueMsg h c q s
  | .jobStart j => jobStartMsg h j s
  | .jobEnd t => jobEndMsg h t s
  | .rangeRegion t b n rd w => rangeRegionMsg h t b n rd w s
  | .hostWindow t b n => hostWindowMsg h t b n s
  | .setAgeCap v c => setAgeCapMsg h v c s
  | .setHostPathTimeout n => setTimeoutMsg h n s
  | .readErrorLog => readLogMsg h s
  | .clearErrorLog => clearLogMsg h s
  | .readCounters d p n => readCountersMsg h d p n s
  | .releaseSeedLog n => releaseSeedsMsg h n s
  | .readCertificateChain => certificatesMsg h s
  | .attest n => attestMsg h n s
  | .firmwareChunk b => firmwareMsg h b s
  | .setSqpUdpPort p => setUdpPortMsg h p s
  | .malformed l => onLevel (match l with
      | 0 => .work
      | 1 => .mgmt
      | _ => .device) h s fun s => refuse s 6

/-- R330, R332: bytes of data that a message of at most 8,144 bytes brings behind the seq of what it answers. -/
def dataBytes : Nat := 8136

/-- R330, R332: the answer, and the data that it brings. DEDUCED: log entry 73. -/
def State.answer (s : State) (mgmt : Bool) (queue seq : Nat) (r : Nat × Nat × List Byte) : State :=
  let data := (pieces (r.2.2.length + 1) dataBytes r.2.2).map fun b =>
    ({ mgmt := mgmt, queue := queue, body := .data seq b } : OutMsg)
  { s with outbox := s.outbox ++ [{ mgmt := mgmt, queue := queue, body := .answer seq r.1 r.2.1 }] ++ data }

/-- R266: a queue whose teardown has begun takes a reset only. -/
def SqpQueue.shut (q : SqpQueue) (i : Msg) : Bool := match i with
  | .resetQueue => q.tearing && q.ending == .close
  | _ => q.tearing || q.torn

/-- A message applied in its turn, and answered. -/
def State.applyAt (s : State) (q : SqpQueue) (h : Sqp) (i : Msg) : State :=
  let seq := q.nextIn
  let s := { s with port := s.port.updQueue q.mgmt q.queue fun y => { y with nextIn := seq + 1 } }
  let r := if q.shut i then refuse s 5 else s.apply h i
  r.s.answer q.mgmt q.queue seq (r.code, r.detail, r.data)

/-- R331: held messages whose turn has come; an acknowledgement that came ahead has had its effect. -/
def State.applyHeld : Nat → State → Bool → Nat → State
  | 0, s, _, _ => s
  | f + 1, s, mgmt, n => match s.port.queueOf mgmt n with
    | none => s
    | some q => match q.held.find? fun y => y.1.seq == q.nextIn with
      | none =>
        if q.skip.contains q.nextIn then
          State.applyHeld f { s with port := s.port.updQueue mgmt n fun z => { z with nextIn := q.nextIn + 1, skip := z.skip.erase q.nextIn } } mgmt n
        else s
      | some y =>
        let s := { s with port := s.port.updQueue mgmt n fun z => { z with held := z.held.filter fun x => x.1.seq != y.1.seq } }
        State.applyHeld f (s.applyAt q y.1 y.2) mgmt n

/-- R331, R330: the highest seq applied in order is acknowledged, by a message that takes its seq like any other. DESIGN CHOICE: log
entry 141. -/
def State.acknowledge (s : State) (mgmt : Bool) (queue : Nat) : State := match s.port.queueOf mgmt queue with
  | none => s
  | some q =>
    if q.nextIn = 0 then s
    else ({ s with port := s.port.updQueue mgmt queue fun q => { q with acks := q.acks ++ [q.nextIn - 1] } } : State).send
      { mgmt := mgmt, queue := queue, body := .ack (q.nextIn - 1) }

/-- R331: how far ahead of its turn a message is held. -/
def heldAhead : Nat := 256

/-- R331: a message of an open queue: out of order, a duplicate, or applied. DEDUCED: log entry 70. -/
def State.inOrder (s : State) (q : SqpQueue) (h : Sqp) (i : Msg) : State :=
  let ack (s : State) : State := s.acknowledge h.mgmt h.queue
  if h.seq < q.nextIn then ack s
  else if q.nextIn + heldAhead < h.seq then s
  else if q.nextIn < h.seq then
    ack (if q.held.any fun y => y.1.seq == h.seq then s
      else { s with port := s.port.updQueue h.mgmt h.queue fun y => { y with held := y.held ++ [(h, i)] } })
  else ack ((s.applyAt q h i).applyHeld (q.held.length + q.skip.length) h.mgmt h.queue)

def State.drop (s : State) : State := { s with port := { s.port with dropped := s.port.dropped + 1 } }

/-- A queue that is answered without being open. -/
def State.known (s : State) (h : Sqp) : State := match s.port.queueOf h.mgmt h.queue with
  | some _ => s
  | none => { s with port := { s.port with queues := s.port.queues ++ [{ mgmt := h.mgmt, queue := h.queue, tenant := h.tenant, isOpen := false }] } }

/-- R329, R331, R332, R336: a message whose tag has been checked arrives. -/
def State.received (h : Sqp) (i : Msg) (s : State) : State :=
  let turn (s : State) (code : Nat) : State := (s.known h).answer h.mgmt h.queue h.seq (code, 0, [])
  let s' :=
    if !queueNoOk h.mgmt h.queue then s.drop
    else if !onDevice h && s.port.start != .ready then turn s 9
    else match s.port.queueOf h.mgmt h.queue with
      | none => turn s 5
      | some q =>
        if !q.isOpen || (!onDevice h && s.port.firmware.recovery) then turn s 5
        else if !onDevice h && q.tenant != h.tenant then s.drop
        else s.inOrder q h i
  { s'.portWork with toMach := s'.portWork.toMach.tock }

def receive (h : Sqp) (i : Msg) (s : State) : Host.Outcome State Fault Refusal := .next (s.received h i)

def execSubmitNetwork (h : Sqp) (m : SubmitNet) (s : State) : Host.Outcome State Fault Refusal := receive h (.submitNetwork m) s
def execSubmitGraph (h : Sqp) (graph phase : Nat) (nets : List SubmitNet) (edges : List Edge) (s : State) :
    Host.Outcome State Fault Refusal := receive h (.submitGraph graph phase nets edges) s
def execOpenPhase (h : Sqp) (phase : Nat) (s : State) : Host.Outcome State Fault Refusal := receive h (.openPhase phase) s
def execClosePhase (h : Sqp) (phase : Nat) (s : State) : Host.Outcome State Fault Refusal := receive h (.closePhase phase) s
def execSqpCancel (h : Sqp) (level index : Nat) (s : State) : Host.Outcome State Fault Refusal := receive h (.sqpCancel level index) s
def execTeardownQueue (h : Sqp) (s : State) : Host.Outcome State Fault Refusal := receive h .teardownQueue s
def execResetQueue (h : Sqp) (s : State) : Host.Outcome State Fault Refusal := receive h .resetQueue s
def execRegisterImage (h : Sqp) (addr : Word) (len : Nat) (s : State) : Host.Outcome State Fault Refusal :=
  receive h (.registerImage addr len) s
def execPrePlaceImage (h : Sqp) (handle : Nat) (s : State) : Host.Outcome State Fault Refusal := receive h (.prePlaceImage handle) s
def execReleaseImage (h : Sqp) (handle : Nat) (s : State) : Host.Outcome State Fault Refusal := receive h (.releaseImage handle) s
def execSqpCut (h : Sqp) (index : Nat) (addr : Word) (s : State) : Host.Outcome State Fault Refusal := receive h (.sqpCut index addr) s
def execResumeSnapshot (h : Sqp) (snap : Word) (index : Nat) (place : List Hint) (s : State) : Host.Outcome State Fault Refusal :=
  receive h (.resumeSnapshot snap index place) s
def execOpenQueue (h : Sqp) (mgmt : Bool) (queue pub : Nat) (s : State) : Host.Outcome State Fault Refusal :=
  receive h (.openQueue mgmt queue pub) s
def execCloseQueue (h : Sqp) (mgmt : Bool) (queue : Nat) (s : State) : Host.Outcome State Fault Refusal :=
  receive h (.closeQueue mgmt queue) s
def execJobStart (h : Sqp) (j : JobDecl) (s : State) : Host.Outcome State Fault Refusal := receive h (.jobStart j) s
def execJobEnd (h : Sqp) (tenant : Nat) (s : State) : Host.Outcome State Fault Refusal := receive h (.jobEnd tenant) s
def execRangeRegion (h : Sqp) (tenant : Nat) (base : Word) (len : Nat) (rd w : Bool) (s : State) : Host.Outcome State Fault Refusal :=
  receive h (.rangeRegion tenant base len rd w) s
def execHostWindow (h : Sqp) (tenant base len : Nat) (s : State) : Host.Outcome State Fault Refusal := receive h (.hostWindow tenant base len) s
def execSetAgeCap (h : Sqp) (server cap : Nat) (s : State) : Host.Outcome State Fault Refusal := receive h (.setAgeCap server cap) s
def execSetHostPathTimeout (h : Sqp) (ns : Nat) (s : State) : Host.Outcome State Fault Refusal := receive h (.setHostPathTimeout ns) s
def execReadErrorLog (h : Sqp) (s : State) : Host.Outcome State Fault Refusal := receive h .readErrorLog s
def execClearErrorLog (h : Sqp) (s : State) : Host.Outcome State Fault Refusal := receive h .clearErrorLog s
def execReadCounters (h : Sqp) (domain spot num : Nat) (s : State) : Host.Outcome State Fault Refusal :=
  receive h (.readCounters domain spot num) s
def execReleaseSeedLog (h : Sqp) (nid : Nat) (s : State) : Host.Outcome State Fault Refusal := receive h (.releaseSeedLog nid) s
def execReadCertificateChain (h : Sqp) (s : State) : Host.Outcome State Fault Refusal := receive h .readCertificateChain s
def execAttest (h : Sqp) (nonce : BitVec 512) (s : State) : Host.Outcome State Fault Refusal := receive h (.attest nonce) s
def execFirmwareChunk (h : Sqp) (bytes : List Byte) (s : State) : Host.Outcome State Fault Refusal := receive h (.firmwareChunk bytes) s
def execSetSqpUdpPort (h : Sqp) (port : Nat) (s : State) : Host.Outcome State Fault Refusal := receive h (.setSqpUdpPort port) s

/-! The hub as sender. -/

/-- R331: what the host has acknowledged is freed, and held records go out. -/
def State.acknowledged (mgmt : Bool) (queue seq : Nat) (s : State) : State :=
  let s := { s with port := s.port.updQueue mgmt queue fun q => { q with unacked := q.unacked.filter fun y => seq < y.1, interval := 100 } }
  { s.portWork with toMach := s.portWork.toMach.tock }

/-- R331: an acknowledgement of the host takes its seq like any other message, and is not acknowledged itself. DESIGN CHOICE: log entry
141. -/
def State.ackIn (h : Sqp) (seq : Nat) (s : State) : State :=
  let s := match s.port.queueOf h.mgmt h.queue with
    | none => s
    | some q =>
      if h.seq = q.nextIn then
        ({ s with port := s.port.updQueue h.mgmt h.queue fun y => { y with nextIn := h.seq + 1 } } : State).applyHeld (q.held.length + q.skip.length) h.mgmt h.queue
      else if q.nextIn < h.seq && h.seq ≤ q.nextIn + heldAhead && !q.skip.contains h.seq then
        { s with port := s.port.updQueue h.mgmt h.queue fun y => { y with skip := y.skip ++ [h.seq] } }
      else s
  s.acknowledged h.mgmt h.queue seq

def execSqpAcknowledgement (mgmt : Bool) (queue seq : Nat) (s : State) : Host.Outcome State Fault Refusal :=
  .next (s.acknowledged mgmt queue seq)

/-- R331: unacknowledged messages go out once more, and the interval doubles up to 100 ms. -/
def execSqpRetransmit (mgmt : Bool) (queue : Nat) (s : State) : Host.Outcome State Fault Refusal :=
  let again := ((s.port.queueOf mgmt queue).map fun q => q.unacked.map fun y => q.datagram y.1 y.2).getD []
  let port := s.port.updQueue mgmt queue fun q => if q.unacked.isEmpty then q else { q with interval := min (2 * q.interval) 100000 }
  .next { s with toMach := s.toMach.tock, port := { port with sent := port.sent ++ again } }

/-! Poison in the hub's own memory (R267). -/

/-- A graph is poisoned: its networks that have not been dispatched end with it, and the error is logged with the entry's place and
the owner, which is the tenant and its graph. DEDUCED: log entry 126. -/
def poisonGraph (s : State) (ten graph place : Nat) : State :=
  let m := (List.range s.subs.length).foldl (fun m i => match m.subs[i]? with
    | some b => if b.tenant == ten && b.net.graph == graph && b.home.isNone && b.ended.isNone then m.dropSub i 4 else m
    | none => m) s.toMach
  let m := (m.updEntry ten 1 graph fun e => { e with statuses := e.statuses ++ [4] }).depCancel
  (withMach s m).logError 3 0 0xFF graph (place + 2 ^ 64 * ten)

/-- The graph that owns an entry of queue SRAM or of the level table. -/
def Mach.ownerOf (s : Mach) : SramSpot → Option (Nat × Nat)
  | .submission i => (s.subs[i]?).bind fun b => if b.waits then some (b.tenant, b.net.graph) else none
  | .dependence ten nid =>
    match s.nets.find? fun x => x.live && x.tenant == ten && x.nid == nid with
    | some x => some (x.tenant, x.graph)
    | none => (s.subs.find? fun b => b.waits && b.tenant == ten && s.nextNid b.tenant b.net.index == nid).map fun b => (b.tenant, b.net.graph)
  | .tagLost _ => none

def spotPlace : SramSpot → Nat
  | .submission i => i
  | .dependence _ nid => nid
  | .tagLost q => q

def execQueueSramPoison (spot : SramSpot) (s : State) : Host.Outcome State Fault Refusal :=
  let s' := match spot, s.toMach.ownerOf spot with
    | .tagLost q, _ => if ((s.port.queueOf false q).map fun (y : SqpQueue) => y.isOpen && !y.tearing).getD false then
        startTeardown (s.logError 3 0 0xFF 0 q) q .reopen else s
    | sp, some (ten, graph) => poisonGraph s ten graph (spotPlace sp)
    | _, none => s
  .next { s'.portWork with toMach := s'.portWork.toMach.tock }

end Sys2Proof.Machine
end

