-- ==== Sys2Proof/Machine/Rdma.lean ====
section
/-! DEFINITION. The bulk-data port (R333). -/

namespace Sys2Proof.Machine

def State.reply (s : State) (r : Rdma) : State := { s with port := { s.port with rdma := s.port.rdma ++ [r] } }

/-- R333: queue pairs of the device. -/
def queuePairs : Nat := 4096

/-- R333: the region of an access that it allows. -/
def Port.regionFor (p : Port) (rkey : Nat) (addr : Word) (n : Nat) (wr : Bool) : Option Region :=
  p.regions.find? fun r => r.rkey == rkey && r.live && (if wr then r.w else r.rd) &&
    r.base.toNat ≤ addr.toNat && addr.toNat + n ≤ r.base.toNat + r.len

/-- R230: an access divided into requests of at most 256 bytes within one server: address and length. -/
def requests : Nat → Word → Nat → List (Word × Nat)
  | 0, _, _ => []
  | f + 1, a, n =>
    if n = 0 then []
    else
      let k := min n (256 - a.toNat % 256)
      (a, k) :: requests f (a + BitVec.ofNat 64 k) (n - k)

def requestsOf (a : Word) (n : Nat) : List (Word × Nat) := requests (n / 256 + 2) a n

/-- The homes of an access, or none where a part of it has none (R279). DEDUCED: log entry 77. -/
def Mach.rdmaHomes (s : Mach) (ten : Nat) (a : Word) (n : Nat) : Option (List (Spot × Nat)) :=
  (requestsOf a n).mapM fun y => match s.translate (some ten) y.1 y.2 false false with
    | .ok x => some (x, y.2)
    | .error _ => none

/-- R275, R276, R168: one request of a host write; the word of a partial write that is poisoned stops it. -/
def Mach.rdmaStore (s : Mach) (x : Spot) (bs : List Byte) : Mach × Bool :=
  if x.host then (s.put x.key bs, true)
  else
    let sv := serverOf x.key
    let s := s.countServer sv 1 1
    let s := if bs.length < 32 then s.countServer sv 2 1 else s
    let (s, bad) := dramWrite (bs.length + 1) (s.markStale x.key bs.length) x.key bs
    (s, bad.isNone)

def rdmaStores : List (Spot × Nat) → List Byte → Mach → Mach × Bool
  | [], _, s => (s, true)
  | (x, n) :: r, bs, s =>
    let (s, ok) := s.rdmaStore x (bs.take n)
    let (s, all) := rdmaStores r (bs.drop n) s
    (s, ok && all)

/-- R333: a write is performed at the servers and then acknowledged. -/
def execRdmaWrite (qp rkey : Nat) (addr : Word) (bytes : List Byte) (s : State) : Host.Outcome State Fault Refusal :=
  if queuePairs ≤ qp then .next { s with port := { s.port with dropped := s.port.dropped + 1 } }
  else match s.port.regionFor rkey addr bytes.length true with
    | none => .next (s.reply (.nakAccess qp))
    | some r => match s.toMach.rdmaHomes r.tenant addr bytes.length with
      | none => .next (s.reply (.nakAccess qp))
      | some hs =>
        let (m, ok) := rdmaStores hs bytes s.toMach.settle
        .next (({ s with toMach := m.tock } : State).reply (if ok then .ack qp else .nakOperation qp []))

/-- One request of a host read: its bytes, or those below the first poisoned word. -/
def Mach.rdmaFetch (s : Mach) (x : Spot) (n : Nat) : Mach × List Byte × Bool :=
  let s := if x.host then s else s.countServer (serverOf x.key) 0 1
  match s.poisonAt x.key n with
  | none => (s, Mem.bytes s.mem x.key n, true)
  | some i => (s.countServer (serverOf x.key) 7 1, Mem.bytes s.mem x.key i, false)

def rdmaFetches : List (Spot × Nat) → Mach → Mach × List Byte × Bool
  | [], s => (s, [], true)
  | (x, n) :: r, s => match s.rdmaFetch x n with
    | (s, bs, false) => (s, bs, false)
    | (s, bs, true) =>
      let (s, rest, ok) := rdmaFetches r s
      (s, bs ++ rest, ok)

/-- R333: a read takes every word from a candidate write (R288); at a poisoned word the data end and a NAK follows. -/
def execRdmaRead (qp rkey : Nat) (addr : Word) (len : Nat) (s : State) : Host.Outcome State Fault Refusal :=
  if queuePairs ≤ qp then .next { s with port := { s.port with dropped := s.port.dropped + 1 } }
  else match s.port.regionFor rkey addr len false with
    | none => .next (s.reply (.nakAccess qp))
    | some r => match s.toMach.rdmaHomes r.tenant addr len with
      | none => .next (s.reply (.nakAccess qp))
      | some hs =>
        let (m, bs, ok) := rdmaFetches hs s.toMach.settle
        .next (({ s with toMach := m.tock } : State).reply (if ok then .data qp bs else .nakOperation qp bs))

/-- R333: SEND and the atomic verbs. -/
def execRdmaRefusedVerb (qp : Nat) (s : State) : Host.Outcome State Fault Refusal :=
  if queuePairs ≤ qp then .next { s with port := { s.port with dropped := s.port.dropped + 1 } }
  else .next (s.reply (.nakInvalid qp))

/-- R328: the largest frame. -/
def frameBytes : Nat := 9216

end Sys2Proof.Machine
end

