-- ==== Sys2Proof/Machine/Frame.lean ====
section
/-! DEFINITION. Frames at the host port (R328): which protocol a frame belongs to, what the hub answers and what it drops; and SQP
datagrams (R329, R330): the header, the tag and the message behind them. -/

namespace Sys2Proof

/-- R330: the request that a payload of a type asks for, or none where it is malformed: the manual names its fields without giving
their places. UNVERIFIED: log entry 120. -/
opaque Config.sqpRequest : Nat → List Byte → Option Machine.Msg

end Sys2Proof

namespace Sys2Proof.Machine

/-! Messages (R330). -/

/-- R330: the type code of a message, and what byte 0 of its payload selects. -/
def Msg.type : Msg → Nat
  | .submitNetwork _ => 0x01
  | .submitGraph _ _ _ _ => 0x02
  | .openPhase _ => 0x03
  | .closePhase _ => 0x03
  | .sqpCancel _ _ => 0x04
  | .teardownQueue => 0x05
  | .resetQueue => 0x06
  | .registerImage _ _ => 0x07
  | .prePlaceImage _ => 0x08
  | .releaseImage _ => 0x08
  | .sqpCut _ _ => 0x09
  | .resumeSnapshot _ _ _ => 0x09
  | .openQueue _ _ _ => 0x10
  | .closeQueue _ _ => 0x10
  | .jobStart _ => 0x20
  | .jobEnd _ => 0x20
  | .rangeRegion _ _ _ _ _ => 0x20
  | .hostWindow _ _ _ => 0x20
  | .setAgeCap _ _ => 0x20
  | .setHostPathTimeout _ => 0x20
  | .readErrorLog => 0x20
  | .clearErrorLog => 0x20
  | .readCounters _ _ _ => 0x20
  | .releaseSeedLog _ => 0x20
  | .readCertificateChain => 0x20
  | .setSqpUdpPort _ => 0x20
  | .attest _ => 0x30
  | .firmwareChunk _ => 0x40
  | .malformed _ => 0

def Msg.second : Msg → Bool
  | .closePhase _ => true
  | .releaseImage _ => true
  | .resumeSnapshot _ _ _ => true
  | .closeQueue _ _ => true
  | _ => false

/-- R330: the queue class of a type code: work, management, management queue 0; none for a code that is dropped. -/
def typeLevel (type : Nat) : Option Nat :=
  if (1 ≤ type && type ≤ 6) || type = 9 then some 0
  else if type = 7 || type = 8 || type = 0x10 || type = 0x20 || type = 0x30 then some 1
  else if type = 0x40 then some 2
  else none

def twofold (type : Nat) : Bool := type = 3 || type = 8 || type = 9 || type = 0x10

/-- R330: the message of a type code and a payload; none for a code that is dropped. -/
def messageOf (type : Nat) (text : List Byte) : Option Msg := (typeLevel type).map fun level =>
  let select := text.take 8
  if twofold type && !(select == [0, 0, 0, 0, 0, 0, 0, 0] || select == [1, 0, 0, 0, 0, 0, 0, 0]) then .malformed level
  else match Config.sqpRequest type text with
    | some m => if m.type = type && (!twofold type || m.second == (text.head? == some 1)) then m else .malformed level
    | none => .malformed level

/-! Datagrams (R329). -/

/-- R329: header and type of a datagram whose header is as the table says. -/
def sqpHeader (b : List Byte) : Option (Sqp × Nat) :=
  if 48 ≤ b.length && b.length ≤ 8192 && field b 0 2 == 0x5153 && field b 2 1 == 1 && field b 6 1 ≤ 1 && field b 7 1 == 0 &&
      field b 16 4 ≤ 8144 && b.length == 48 + field b 16 4 && field b 24 8 == 0 then
    some ({ mgmt := field b 6 1 == 1, queue := field b 4 2, seq := field b 8 8, tenant := field b 20 4 }, field b 3 1)
  else none

/-- R329, R330: a datagram comes in: dropped without an answer where its header, its tag or its type fails. -/
def State.datagram (b : List Byte) (s : State) : State := match sqpHeader b with
  | none => s.drop
  | some (h, type) => match s.port.queueOf h.mgmt h.queue with
    | none => s.drop
    | some q => match gcmOpen q.keyBytes (q.nonce false h.seq) (b.take 32) (b.drop 32) with
      | none => s.drop
      | some text =>
        if type = 0x84 then s.ackIn h (field text 0 8)
        else match messageOf type text with
          | some m => s.received h m
          | none => s.drop

/-! Frames (R328). -/

/-- What a frame carries: an SQP datagram, bulk data, a neighbour-discovery or an echo message, the priorities that priority flow control
pauses and those that it lets go on, or anything else. -/
inductive FrameKind where
  | sqp (datagram : List Byte)
  | bulk
  | icmp (echo : Bool)
  | pause (on off : List Nat)
  | other
  deriving DecidableEq, Repr

/-- Bytes of a frame, most significant first. -/
def fieldBig (b : List Byte) (o n : Nat) : Nat := natBig ((b.drop o).take n)

/-- R328: a RoCE v2 packet of the reliable connected transport: its header's opcode and version, and a check word behind it. PRESUMED: log
entry 121. -/
def roceFrame (f : List Byte) : Bool := 78 ≤ f.length && field f 62 1 < 0x18 && field f 63 1 % 16 = 0

/-- R328: what a priority flow control frame says of the two priorities that the port has it on: those that it names with a time pause,
those that it names with none go on. PRESUMED: log entry 121. -/
def pauseFrame (f : List Byte) : FrameKind :=
  let named := (Config.pausePriorities.eraseDups.take 2).filter fun i => i < 8 && bitsAt (fieldBig f 16 2) i 1 = 1
  let timed := fun i => decide (fieldBig f (18 + 2 * i) 2 ≠ 0)
  .pause (named.filter timed) (named.filter fun i => !timed i)

/-- R328: an Ethernet frame of at most 9,216 bytes with an IPv6 packet, and what stands behind its header. PRESUMED: log entry 121. -/
def frameKind (udpPort : Nat) (f : List Byte) : FrameKind :=
  if 34 ≤ f.length && fieldBig f 12 4 = 0x88080101 then pauseFrame f
  else if frameBytes < f.length || f.length < 54 || fieldBig f 12 2 != 0x86DD || field f 14 1 / 16 != 6 then .other
  else if field f 20 1 = 17 then
    (if fieldBig f 56 2 = udpPort then .sqp (f.drop 62) else if fieldBig f 56 2 = 4791 && roceFrame f then .bulk else .other)
  else if field f 20 1 = 58 then
    (if field f 54 1 = 128 then .icmp true else if 133 ≤ field f 54 1 && field f 54 1 ≤ 137 then .icmp false else .other)
  else .other

/-- R328: an ICMPv6 message is answered. -/
def State.icmpAnswered (echo : Bool) (f : List Byte) (s : State) : State :=
  { s with port := { s.port with frames := s.port.frames ++ [Config.icmpAnswer ((if echo then 1 else 0) :: f)] } }

/-- R328: a frame comes in; its ECN bits change nothing here. What bulk data asks for is done by the steps of R333. -/
def State.frame (f : List Byte) (s : State) : State := match frameKind s.port.udpPort f with
  | .sqp b => s.datagram b
  | .bulk => s
  | .icmp echo => s.icmpAnswered echo f
  | .pause on off => { s with port := { s.port with paused := (s.port.paused.filter fun i => !(on ++ off).contains i) ++ on } }
  | .other => s.drop

/-- R328: a neighbour-discovery or echo frame is answered; one that is neither is dropped. -/
def execIcmpv6NeighbourDiscoveryAndEcho (echo : Bool) (frame : List Byte) (s : State) : Host.Outcome State Fault Refusal :=
  .next (if frameKind s.port.udpPort frame = .icmp echo then s.icmpAnswered echo frame else s.drop)

/-- R328, R329: a frame of another protocol and a datagram that breaks the rules of SQP are dropped and counted, without an answer; a
frame that the hub takes is taken. -/
def execDroppedFrame (frame : List Byte) (s : State) : Host.Outcome State Fault Refusal := .next (s.frame frame)

end Sys2Proof.Machine
end

