-- ==== Sys2Proof/Machine/Random.lean ====
section
/-! DEFINITION. The random generator's instructions (R224 to R226). -/

namespace Sys2Proof.Machine

/-- R338: an event for management queue 0 and for the queues of a tenant. -/
def Mach.post (s : Mach) (code : Nat) (tenant : Option Nat) : Mach :=
  { s with outbox := s.outbox ++ [{ mgmt := true, queue := 0, tenant := tenant, body := .event code }] }

/-- R224: a key taken: the counter starts at 0 and the sequence moves on. -/
def Ctx.seedWith (c : Ctx) (seed : BitVec 128) : Ctx := { c with rngKey := seed, rngctl := 0, seedSeq := c.seedSeq + 1 }

/-- R224, R326: a poisoned entry of the log traps where a replay takes it; the manual states no
reason (DESIGN CHOICE: log entry 125). DEDUCED: log entry 50. -/
def rseed (x : F2) (s : Mach) : Try Done :=
  let q := s.ctx.seedSeq.toNat
  let take (m : Mach) (seed : BitVec 128) : Try Done :=
    .ok { m := ({ m with ctx := m.ctx.seedWith seed }).setG x.dN (seed.truncate 64) }
  if s.ctx.replay then
    let src := (s.curNet.bind (·.replay)).getD s.ctx.nid.toNat
    match s.seeds.find? fun e => some e.tenant == s.tenantNo && e.nid == src && e.proc == s.ctx.idx.toNat && e.seq == q with
    | some e =>
      if e.bad then raise { cause := 0x16, reason := Config.unstatedReason s.ctx.freeKey, value := s.unstated } else take s e.s
    | none => raise { cause := 0x0E, reason := 0x02, value := BitVec.ofNat 64 q }
  else if Config.seedEntries ≤ s.seeds.length then
    engineWait (if s.ctx.issued.asked then s else
      ({ s with ctx := { s.ctx with issued := { s.ctx.issued with asked := true } } }).post 0x01 s.tenantNo)
  else
    let seed := Config.entropy s.tick
    take { s with seeds := s.seeds ++
      [{ tenant := s.tenantNo.getD 0, nid := s.ctx.nid.toNat, proc := s.ctx.idx.toNat, seq := q, s := seed }] } seed

def execRseed (x : F2) (s : State) : Host.Outcome State Fault Refusal := chain x.len s (rseed x)

/-- R225. -/
def rstream (x : F2) (s : Mach) : Try Done :=
  let a := s.g x.aN
  if a.toNat / 2 ^ 16 ≠ 0 then illegal 0x0C a
  else .ok { m := { s with ctx := { s.ctx with
    rngId := BitVec.ofNat 32 (a.toNat * 2 ^ 16 + s.ctx.rngId.toNat % 2 ^ 16)
    rngctl := if x.w then s.g x.eN else 0 } } }

def execRstream (x : F2) (s : State) : Host.Outcome State Fault Refusal := chain x.len s (rstream x)

/-- R226: outputs c up to c + n - 1 concatenated, the first lowest. -/
def outputsFrom (key : BitVec 128) (id : Word32) (c : Nat) : Nat → Nat
  | 0 => 0
  | n + 1 => genOut key id c + 2 ^ 128 * outputsFrom key id (c + 1) n

/-- R226: the fraction that a draw of `bits` bits gives, exactly. -/
def fractionOf (f : Fmt) (z : Nat) : Nat :=
  let (sh, e) : Nat × Int := match f with
    | .bf16 => (24, -8)
    | .fp16 => (21, -11)
    | .fp32 => (8, -24)
    | _ => (11, -53)
  (Ex.round f 0 0 { v := .num { neg := false, m := z / 2 ^ sh, e := e } , fl := 0 }).1

/-- R226: `bits` consumed by an element, and the element from them. -/
def randomVector (x : F2) (ok : Fmt → Bool) (bits : Fmt → Nat) (elem : Fmt → Nat → Nat) (s : Mach) : Try Done := do
  let f ← s.needFmt ok
  let w := f.width
  let ops := [s.vop w 0 x.dN false true]
  checkGroups s.ctx.grp ops
  s.cleanGov x.pre
  let _ ← s.sources ops w
  let n := (s.ctx.vl * bits f + 127) / 128
  s.checkOutputs n
  let zs := elems (bits f) s.ctx.vl (outputsFrom s.ctx.rngKey s.ctx.rngId s.ctx.rngctl.toNat n)
  let rs := s.activeOnly x.pre s.ctx.vl fun i => elem f (zs[i]?.getD 0)
  moveOut x w ops rs (s.advanceRng n)

def execVrand (x : F2) (s : State) : Host.Outcome State Fault Refusal :=
  chain x.len s (randomVector x inI Fmt.width fun _ z => z)

def execVrandf (x : F2) (s : State) : Host.Outcome State Fault Refusal :=
  chain x.len s (randomVector x (fun f => f == .bf16 || f == .fp16 || f == .fp32 || f == .fp64)
    (fun f => if f == .fp64 then 64 else 32) fractionOf)

end Sys2Proof.Machine
end

