-- ==== Sys2Proof/Machine/Scheduler.lean ====
section
/-! DEFINITION. The lane-group arbiter (R262) and the round robin of the matrix array (R264). They decide when work is done,
never what it computes: the queues here hold instructions whose effects are already in the state. -/

namespace Sys2Proof.Machine

/-- R261: the chains that go into the vector queue: the vector and the matrix instructions. -/
def Chain.queued (c : Chain) : Bool := match c.page with
  | 0 => (19 ≤ c.op && c.op ≤ 28) || (c.op == 18 && c.f == 2)
  | 1 => true
  | 2 => (c.op == 0 && 2 ≤ c.f) || c.op == 1 || (c.op == 2 && 6 ≤ c.f)
  | 3 => c.op == 2 && 5 ≤ c.f
  | 6 => c.f == 2 || c.f == 3
  | _ => false

/-- R261: the front end of the selected process stalls at an instruction: its vector queue is full. -/
def Mach.stalls (s : Mach) (i : Instr) : Bool :=
  (i.chain.map Chain.queued).getD false &&
  queueLength ≤ ((s.tile s.here).arb.queue ((s.ctx.place.map (·.ctx)).getD 0)).length

/-- R262: the share weight of each context of a tile; a context that holds no process has none. -/
def Mach.weights (s : Mach) (t : Nat) : List Nat := (List.range 8).map fun c =>
  match (s.onTile t).find? fun k => ((s.ctxOf k).place.map (·.ctx)) == some c with
  | some k => (s.ctxOf k).share.toNat
  | none => 0

/-- R262: the ready vector head of a context, and the ready matrix head (R264). -/
def Arbiter.vectorHead (a : Arbiter) (c : Nat) : Option VecJob := (a.ready c).filter fun j => !j.matrix
def Arbiter.matrixHead (a : Arbiter) (c : Nat) : Option VecJob := (a.ready c).filter (·.matrix)

/-- R262 step 1. -/
def Arbiter.barred (a : Arbiter) (w : List Nat) (x k : Nat) : Bool :=
  (List.range 8).any fun c => c != x && 1 ≤ w[c]?.getD 0 && (a.vectorHead c).isSome &&
    (((a.atHead[c]?.join).getD a.total)[x]?.getD 0) + 128 < (a.total[x]?.getD 0) + k

/-- The head of context c leaves its queue; a queue that empties sets the deficit to zero. -/
def Arbiter.dequeue (a : Arbiter) (c : Nat) : Arbiter :=
  let left := (a.queue c).drop 1
  { a with
    queues := a.queues.setIfInBounds c left
    d := if left.isEmpty then a.d.setIfInBounds c 0 else a.d
    atHead := a.atHead.setIfInBounds c none }

/-- R262: the head of context x is bound to lane group g. -/
def Arbiter.bindTo (a : Arbiter) (g x : Nat) (j : VecJob) : Arbiter :=
  ({ a with
    total := a.total.setIfInBounds x (a.total[x]?.getD 0 + j.cost)
    d := a.d.setIfInBounds x (a.d[x]?.getD 0 - j.cost)
    groups := a.groups.setIfInBounds g (some (x, j, j.cost)) }.dequeue x).notice

/-- R262 step 2: the walk from the pointer on. It passes a context without a ready head, and one with D < k, whose D grows; the
pointer moves along with it as far as the first context that it must stay at. DEDUCED: log entry 93. -/
def Arbiter.walk (w : List Nat) : Nat → Nat → Bool → Arbiter → Arbiter × Option (Nat × VecJob)
  | 0, _, _, a => (a, none)
  | f + 1, c, stays, a =>
    let next := (c + 1) % 8
    let moved : Arbiter := if stays then a else { a with ptr := next }
    match a.vectorHead c with
    | none => Arbiter.walk w f next stays moved
    | some j =>
      if a.d[c]?.getD 0 < j.cost then
        Arbiter.walk w f next stays { moved with d := a.d.setIfInBounds c (min 128 (a.d[c]?.getD 0 + 8 * w[c]?.getD 0)) }
      else if w[c]?.getD 0 = 0 || a.barred w c j.cost then Arbiter.walk w f next true a
      else (a, some (c, j))

/-- One choice for free lane group g; a context of weight 0 only where step 2 binds none. -/
def Arbiter.choose (w : List Nat) (a : Arbiter) (g : Nat) : Arbiter := match Arbiter.walk w 144 (a.ptr % 8) false a with
  | (a, some (c, j)) => a.bindTo g c j
  | (a, none) =>
    match ((List.range 8).map fun i => (a.ptr + i) % 8).findSome? fun c => (a.vectorHead c).bind fun j =>
        if w[c]?.getD 0 = 0 && !a.barred w c j.cost then some (c, j) else none with
    | some (c, j) => a.bindTo g c j
    | none => a

/-- One cycle of work: what ends in it leaves its lane group, or the array. -/
def workOn (o : Option (Nat × VecJob × Nat)) : Option (Nat × VecJob × Nat) := match o with
  | some (c, j, n + 2) => some (c, j, n + 1)
  | _ => none

def Arbiter.cycle (a : Arbiter) : Arbiter := { a with groups := a.groups.map workOn }.notice

/-- R262: a cycle of the lane-group arbiter: one choice for each free lane group, in ascending number. -/
def Arbiter.turn (w : List Nat) (a : Arbiter) : Arbiter :=
  let a := a.cycle
  ((List.range 4).filter fun g => ((a.groups[g]?).map (·.isNone)).getD false).foldl (Arbiter.choose w) a

/-- Has the arbiter of a tile anything to do. -/
def Arbiter.idle (a : Arbiter) : Bool := a.queues.toList.all (·.isEmpty) && a.groups.toList.all (·.isNone) && a.array.isNone

def execLaneGroupBind (tile : Nat) (s : State) : Host.Outcome State Fault Refusal :=
  if (s.toMach.tile tile).arb.idle then .next s
  else .next { s with toMach := (s.toMach.updTile tile fun t => { t with arb := t.arb.turn (s.toMach.weights tile) }).tock }

/-- R264: the array, once free, goes to the first context with a ready matrix head after the one last served. -/
def Arbiter.grant (a : Arbiter) : Arbiter :=
  let a := { a with array := workOn a.array }.notice
  if a.array.isSome then a
  else match ((List.range 8).map fun i => (a.served + 1 + i) % 8).findSome? fun c => (a.matrixHead c).map fun j => (c, j) with
    | some (c, j) => ({ a with array := some (c, j, j.cost), served := c }.dequeue c).notice
    | none => a

def execArrayGrant (tile : Nat) (s : State) : Host.Outcome State Fault Refusal :=
  if (s.toMach.tile tile).arb.idle then .next s
  else .next { s with toMach := (s.toMach.updTile tile fun t => { t with arb := t.arb.grant }).tock }

end Sys2Proof.Machine
end

