-- ==== Sys2Proof/Machine/Span.lean ====
section
/-! DEFINITION. Span links (R310 to R314): flits and their CRC, replay, credits, lane repair, retraining, the loss of a link, and what
the flits carry between this hub and the other one. -/

namespace Sys2Proof.Machine

/-! Flits (R310). -/

/-- CRC-64 of ECMA-182: polynomial 0x42F0_E1EB_A9EA_3693, initial value zero, most significant bit first. -/
def crcBits : Nat → Word → Word
  | 0, c => c
  | n + 1, c => crcBits n (if c.getLsbD 63 then (c <<< 1) ^^^ 0x42F0E1EBA9EA3693 else c <<< 1)

/-- DEDUCED: log entry 78. -/
def crc64 (l : List Byte) : Word := l.foldl (fun c b => crcBits 8 (c ^^^ (BitVec.ofNat 64 b.toNat <<< 56))) 0

/-- Bytes 0 to 247. -/
def flitBytes (f : Flit) : List Byte :=
  bytesOfNat 2 f.seq ++ bytesOfNat 1 f.type ++ bytesOfNat 1 f.cls ++ bytesOfNat 2 f.ack ++ [0, 0] ++ padTo 240 (f.payload.take 240)

/-- R310: the CRC holds, and the type is not a reserved one. -/
def flitGood (f : Flit) : Bool := f.crc == crc64 (flitBytes f) && f.type ≤ 5

/-- R310: the classes. -/
def tokenClass : Nat := 0
def controlClass : Nat := 1
def bulkClass : Nat := 2

/-! One end of a link. -/

def State.link (s : State) (k : Nat) : Link := s.port.links[k]?.getD {}
def State.updLink (s : State) (k : Nat) (f : Link → Link) : State :=
  { s with port := { s.port with links := s.port.links.setIfInBounds k (f (s.link k)) } }

/-! Sending (R310, R311). -/

/-- R311: the flits that the replay buffer holds, those of the boundary among them. -/
def replayLimit : Nat := 1024

/-- The data flits of a class that are not acknowledged. -/
def Link.unacked (l : Link) (cls : Nat) : Nat := (l.replay ++ l.held).countP fun f => f.cls == cls

/-- R310, R311: may n new data flits of a class be sent: the link is up and does not drain, the replay buffer has room, and the
class has the credits. -/
def Link.canSend (l : Link) (cls n : Nat) : Bool :=
  l.up && !l.drain && l.replay.length + l.held.length + n ≤ replayLimit && l.unacked cls + n ≤ Config.linkCredits cls + 3

/-- The next data flit, with the acknowledgement of what has come in order. -/
def Link.dataFlit (l : Link) (cls : Nat) (payload : List Byte) : Flit :=
  let f : Flit := { seq := l.nextOut, type := 1, cls := cls, ack := (l.expect + 65535) % 65536, payload := padTo 240 payload, crc := 0 }
  { f with crc := crc64 (flitBytes f) }

/-- R311, R312: a data flit goes into the replay buffer; from the boundary of a granted repair on it is held. -/
def Link.send (l : Link) (cls : Nat) (payload : List Byte) : Link :=
  let f := l.dataFlit cls payload
  let l := { l with nextOut := (l.nextOut + 1) % 65536 }
  if l.grant.isSome then { l with held := l.held ++ [f] } else { l with replay := l.replay ++ [f] }

/-! Receiving (R311, R312). -/

/-- R311: flits of the replay buffer up to an acknowledged seq. -/
def Link.ackedBy (l : Link) (seq : Nat) : List Flit := match l.replay.findIdx? fun f => f.seq == seq with
  | some i => l.replay.take (i + 1)
  | none => []

/-- R311: they are freed. -/
def Link.free (l : Link) (seq : Nat) : Link :=
  let gone := l.ackedBy seq
  { l with replay := l.replay.drop gone.length, resend := l.resend.filter fun q => !gone.any fun f => f.seq == q }

/-- R311: the sender resends from a seq on, in order. -/
def Link.resendFrom (l : Link) (seq : Nat) : Link := match l.replay.findIdx? fun f => f.seq == seq with
  | some i => { l with resend := (l.replay.drop i).map (·.seq) }
  | none => l

/-- R311: the first discarded data flit is answered. -/
def Link.discard (l : Link) (f : Flit) : Link :=
  if f.type = 1 && !l.nakSent then { l with nakSent := true, out := l.out ++ [.nak l.expect] } else l

/-- R313: the half of the lanes on which a failed lane does not lie (0: lanes 0 to 3); the spare stands in for the lane that it
replaces. -/
def Link.soundHalf (l : Link) (lane : Nat) : Nat :=
  let place := if lane = 8 then l.spareIn.getD 8 else lane
  if place < 4 then 1 else 0

/-- R312, R313: a lane calls for repair onto the spare; with the spare in use the link drains to retrain on its sound
half. DEDUCED: log entry 81. -/
def Link.callRepair (l : Link) (lane : Nat) : Link :=
  if l.asked.isSome then l
  else if l.spareIn.isSome then { l with drain := true, half := true, sound := l.soundHalf lane }
  else { l with asked := some (lane, none), late := 0, out := l.out ++ [.request lane] }

/-- R312: errors that call for repair, errors until the switch that make the link drain, flits among which they are counted. -/
def repairAfter : Nat := 8
def drainAfter : Nat := 4
def errorWindow : Nat := 2 ^ 20

/-- R312: an error attributed to a lane: it counts with the others of that lane among the last 2^20 flits. -/
def Link.attribute (l : Link) (lane : Nat) : Link :=
  let recent := (l.errs[lane]?.getD []).filter (fun n => l.flits < n + errorWindow) ++ [l.flits]
  let l := { l with errs := l.errs.setIfInBounds lane recent }
  if l.asked.isSome then { l with late := l.late + 1, drain := l.drain || drainAfter ≤ l.late + 1 }
  else if repairAfter ≤ recent.length then l.callRepair lane else l

/-- R311: does the receiver accept a flit: the next data flit in order. -/
def Link.accepts (l : Link) (f : Flit) : Bool := f.type == 1 && f.seq == l.expect

/-- R311: the receiver accepts the next data flit in order and discards every other. DEDUCED: log entry 79. -/
def Link.take (l : Link) (f : Flit) : Link :=
  if f.type ≠ 1 then l
  else if l.accepts f then { l with expect := (l.expect + 1) % 65536, nakSent := false, passed := l.passed ++ [f] }
  else l.discard f

/-- R338: has a tenant a network with a channel that is routed over a link. -/
def State.usesLink (s : State) (k : Nat) (t : Tenant) : Bool :=
  s.nets.any fun x => x.live && x.tenant == t.id && x.chans.any fun c => c.span == some k

/-- R313: event 0x07 where a link has come to run on half its lanes. -/
def State.degrades (s : State) (k : Nat) (before : Link) : State :=
  if (s.link k).half && !before.half then s.eventFor 0x07 (s.usesLink k) else s

/-! What a flit carries (R310, R314). DESIGN CHOICE: log entry 122. -/

/-- R310: a scalar token takes one flit, and a vector token three. -/
def tokenParts (what : Nat) : Nat := if what = 2 then 3 else 1
def partBytes : Nat := 224

/-- The payloads of a token's flits. -/
def Tok.payloads (t : Tok) (x : Net) (ch : Nat) : List (List Byte) := (List.range (tokenParts t.what)).map fun i =>
  x.tag ch t.what i ++ (t.data.drop (partBytes * i)).take partBytes

/-- R314: the channel that a flit of a link belongs to: one that is routed over that link. -/
def Mach.chanOfFlit (s : Mach) (link : Nat) (f : Flit) : Option (Nat × Net × Chan) :=
  (s.netOfTag f.payload).bind fun y => (y.2.chan (tagId f.payload)).bind fun c => if c.span == some link then some (y.1, y.2, c) else none

/-! Tokens that leave (R314). -/

/-- R292, R314: the oldest token that has not gone into flits goes, where the writer stands here and is not stopped. -/
def State.spanToken (s : State) (net ch : Nat) : Option State :=
  match (s.toMach.net net).bind fun x => (x.chan ch).map fun c => (x, c) with
  | none => none
  | some (x, c) => match c.span, c.flight[c.sent]? with
    | some l, some t =>
      let flits := t.payloads x ch
      if c.rebind || s.toMach.isAway x c.decl.wproc || !(s.link l).canSend tokenClass flits.length then none
      else
        let s := s.updLink l fun l => flits.foldl (fun l b => l.send tokenClass b) l
        some { s with toMach := s.toMach.updNet net fun x => x.updChan ch fun c => { c with sent := c.sent + 1 } }
    | _, _ => none

/-- A token has come whole to the other hub once its last flit is acknowledged; that hub counts what is discarded there. -/
def Mach.tokenOver (s : Mach) (link : Nat) (f : Flit) : Mach :=
  if f.cls != tokenClass || tagPart f.payload + 1 != tokenParts (tagWhat f.payload) then s
  else match s.chanOfFlit link f with
    | some (n, x, c) =>
      if c.sent = 0 || s.isAway x c.decl.wproc then s
      else (s.arriveOn n (tagId f.payload)).updNet n fun y => { y.updChan (tagId f.payload) fun c => { c with sent := c.sent - 1 } with discard := x.discard }
    | none => s

def State.acked (s : State) (link seq : Nat) : State :=
  let gone := (s.link link).ackedBy seq
  let s := s.updLink link fun l => l.free seq
  { s with toMach := gone.foldl (fun m f => m.tokenOver link f) s.toMach }

/-- R292, R314: a slot return to a writer on the other package travels back on the same link. -/
def State.spanReturn (s : State) (net ch : Nat) : Option State :=
  match (s.toMach.net net).bind fun x => (x.chan ch).map fun c => (x, c) with
  | none => none
  | some (x, c) => match c.span with
    | some l =>
      if c.returns = 0 || !s.toMach.isAway x c.decl.wproc || !(s.link l).canSend controlClass 1 then none
      else
        let s := s.updLink l fun l => l.send controlClass (x.tag ch 1 0)
        some { s with toMach := s.toMach.updNet net fun x => x.updChan ch fun c => { c with returns := c.returns - 1, free := c.free + 1 } }
    | none => none

/-! Tokens that come (R314). -/

/-- A token of a writer on the other package: it enters the channel's sequence and reaches the reader. -/
def Mach.tokenFrom (s : Mach) (n ch : Nat) (t : Tok) : Mach :=
  (s.updNet n fun x => { x.updChan ch fun c => (match t with
    | .gate => { c with flight := c.flight ++ [.gate] }
    | t => c.push t) with active := true }).arriveOn n ch

/-- A token of a link; the first gate of a cut may come before the word of the home hub. -/
def State.takeToken (s : State) (link : Nat) (f : Flit) : State :=
  let parts := (if tagPart f.payload = 0 then [] else (s.link link).parts) ++ (f.payload.drop 16).take partBytes
  let whole := tagPart f.payload + 1 == tokenParts (tagWhat f.payload)
  let s := s.updLink link fun l => { l with parts := if whole then [] else parts }
  match s.toMach.chanOfFlit link f with
  | some (n, x, c) =>
    let s := if whole && x.guest && tagWhat f.payload = 4 then { s with toMach := s.toMach.startCut n 0 } else s
    if whole && s.toMach.isAway x c.decl.wproc && (tagWhat f.payload = 4 || 0 < c.free) then { s with toMach := s.toMach.tokenFrom n (tagId f.payload) (tokOf (tagWhat f.payload) parts) }
    else s
  | none => s

/-! Control and bulk (R310, R314). -/

/-- A slot return of a channel's reader, or a message of the other hub. -/
def Mach.takeControl (s : Mach) (link : Nat) (f : Flit) : Mach :=
  if tagWhat f.payload ≠ 1 then s.hears f.payload
  else match s.chanOfFlit link f with
    | some (n, x, c) =>
      if s.isAway x c.decl.rproc && !c.buf.isEmpty then s.updNet n fun x =>
        { x.updChan (tagId f.payload) fun c => { c.pop with returns := c.returns, free := c.free + 1 } with active := true }
      else s
    | none => s

/-- Transfers that have come whole, one after another. -/
def Link.wholeBulk (l : Link) : Option (List Byte) :=
  if l.bulk.length < 32 || l.bulk.length < 32 + field l.bulk 16 8 then none else some (l.bulk.take (32 + field l.bulk 16 8))

def State.takeWhole (link : Nat) : Nat → State → State
  | 0, s => s
  | n + 1, s => match (s.link link).wholeBulk with
    | none => s
    | some b =>
      let s := s.updLink link fun l => { l with bulk := l.bulk.drop b.length }
      State.takeWhole link n { s with toMach := s.toMach.bulkIn b }

/-- The bytes of one bulk flit: how many, and they. -/
def bulkBytes : Nat := 232

def State.takeBulk (s : State) (link : Nat) (f : Flit) : State :=
  State.takeWhole link 8 (s.updLink link fun l => { l with bulk := l.bulk ++ (f.payload.drop 8).take (min bulkBytes (field f.payload 0 8)) })

/-- A flit that is passed on. -/
def State.passOn (s : State) (link : Nat) (f : Flit) : State := match f.cls with
  | 0 => s.takeToken link f
  | 1 => { s with toMach := s.toMach.takeControl link f }
  | 2 => s.takeBulk link f
  | _ => s

/-- R310: the next bytes of the bulk class go into a flit. -/
def State.spanBulk (s : State) (link : Nat) : Option State :=
  let l := s.link link
  if l.bulkOut.isEmpty || !l.canSend bulkClass 1 then none
  else
    let b := l.bulkOut.take bulkBytes
    some (s.updLink link fun l => { l.send bulkClass (bytesOfNat 8 b.length ++ b) with bulkOut := l.bulkOut.drop b.length })

/-- R314: a process without a place moves from its home to the other package, which hears of the network first: its record and its
windows go out, its channels are re-bound. DESIGN CHOICE: log entry 123. -/
def State.moveAway (s : State) (k : Nat) : Option State := match s.toMach.proc k, s.toMach.netOf k, s.workingLink with
  | some p, some x, some link => match p.saved with
    | some (slot, len) =>
      if p.away || p.held || p.cancel || p.st == .exited || !x.live || !x.started || x.guest || x.cut.isSome || !s.toMach.settled k then none
      else
        let body := s.toMach.processBytes x k slot len
        let s := if x.told.opened then s else s.bulkTo link (x.bulkHead 3 x.index 8 0 ++ bytesOfNat 8 x.image)
        let s := s.bulkTo link (x.bulkHead 1 p.index body.length len ++ body)
        let m := (s.toMach.updProc k fun p => { p with away := true, saved := none, st := .swapped }).rebindOf k
        some { s with toMach := m.updNet p.net fun x => { x with told := { x.told with opened := true } } }
    | none => none
  | _, _, _ => none

/-- R310, R314: the next message of a network goes into a flit of the control class; with none left to tell, processes that a cut holds
go home. -/
def State.spanControl (s : State) (n : Nat) : Option State := match s.toMach.net n, s.workingLink with
  | some x, some link => match s.toMach.says n x with
    | some (b, m) =>
      if (s.link link).canSend controlClass 1 then some { s.updLink link (fun l => l.send controlClass b) with toMach := m } else none
    | none =>
      if s.toMach.goesHome x then
        let (b, m) := s.toMach.homeward n x
        some { s.bulkTo link b with toMach := m }
      else none
  | _, _ => none

/-- R310, R217: a snapshot that the other package is to resume goes to the same address of the tenant's there. -/
def State.spanSnapshot (s : State) (ten : Nat) (a : Word) : Option State := match s.toMach.settle.readSnapshot ten a, s.workingLink with
  | some p, some link => some (s.bulkTo link (bulkHead 4 p.nid ten 0 (8 + p.length) 0 ++ bytesOfWord a ++ p))
  | _, _ => none

/-! The rows of the opcode table. -/

def execSpanFlitReceive (link : Nat) (f : Flit) (lane : Option Nat) (s : State) : Host.Outcome State Fault Refusal :=
  let l := s.link link
  if !l.up then .next s
  else
    let s := s.updLink link fun l => { l with flits := l.flits + 1 }
    let s := if flitGood f then
        let s := s.acked link f.ack
        let passes := (s.link link).accepts f
        let s := s.updLink link fun l => l.take f
        if passes then s.passOn link f else s
      else s.updLink link fun l => match lane with
        | some n => (l.discard f).attribute n
        | none => l.discard f
    .next (s.degrades link l).portWork

def execSpanNegativeAcknowledgement (link seq : Nat) (s : State) : Host.Outcome State Fault Refusal :=
  if (s.link link).up then .next (s.updLink link fun l => l.resendFrom seq) else .next s

def execSpanAcknowledgement (link seq : Nat) (s : State) : Host.Outcome State Fault Refusal :=
  if (s.link link).up then .next (s.acked link seq) else .next s

/-! Repair (R312). -/

/-- The sender notes its next seq as the boundary and grants it. -/
def execRepairRequest (link lane : Nat) (s : State) : Host.Outcome State Fault Refusal :=
  let l := s.link link
  if l.up && l.grant.isNone then
    .next (s.updLink link fun l => { l with grant := some (lane, l.nextOut), out := l.out ++ [.grant l.nextOut] })
  else .next s

/-- The receiver learns the boundary of the repair that it asked for. -/
def execRepairGrant (link bound : Nat) (s : State) : Host.Outcome State Fault Refusal :=
  match (s.link link).asked with
  | some (lane, none) => .next (s.updLink link fun l => { l with asked := some (lane, some (bound % 65536)) })
  | _ => .next s

/-- The sender's end switches once every flit below the boundary is acknowledged, and sends what it held. -/
def Link.switchOut (l : Link) : Link := match l.grant with
  | some (lane, _) => if l.replay.isEmpty then
      { l with spareOut := some lane, grant := none, replay := l.held, resend := l.held.map (·.seq), held := [] } else l
  | none => l

/-- The receiver's end switches once it has every flit below the boundary. -/
def Link.switchIn (l : Link) : Link := match l.asked with
  | some (lane, some t) => if l.expect = t then
      { l with spareIn := some lane, asked := none, late := 0, errs := Vector.replicate 9 [] } else l
  | _ => l

def execLaneMapSwitch (link : Nat) (s : State) : Host.Outcome State Fault Refusal :=
  let l := s.link link
  if l.up && !l.drain then .next (s.updLink link fun l => l.switchOut.switchIn) else .next s

/-- R312 step 4: on the new map the sender resends from the oldest unacknowledged flit. -/
def Link.retrained (l : Link) : Link :=
  let all := l.replay ++ l.held
  { l with
    drain := false, tries := 0, replay := all, resend := all.map (·.seq), held := []
    spareOut := (l.grant.map (·.1)).or l.spareOut, grant := none
    spareIn := (l.asked.map (·.1)).or l.spareIn, asked := none, late := 0, errs := Vector.replicate 9 [], nakSent := false }

def execLinkRetrain (link : Nat) (ok : Bool) (s : State) : Host.Outcome State Fault Refusal :=
  let l := s.link link
  if l.up && l.drain && l.tries < 3 then
    .next (s.updLink link fun l => if ok then l.retrained else { l with tries := l.tries + 1 })
  else .next s

/-- R312, R313: a lane that loses lock. -/
def execLaneLossOfLock (link lane : Nat) (s : State) : Host.Outcome State Fault Refusal :=
  let l := s.link link
  if l.up && l.spareIn != some lane then
    .next ((s.updLink link fun l => l.callRepair lane).degrades link l).portWork
  else .next s

/-- R313: networks with a channel routed over a link are cancelled. DESIGN CHOICE: log entry 80. -/
def Mach.cancelOver (s : Mach) (link : Nat) : Mach :=
  (List.range s.nets.length).foldl (fun m n => match m.net n with
    | some x => if x.live && !x.cancel && x.chans.any fun c => c.span == some link then
        if x.guest then m.dropGuest n else (m.updEntry x.tenant 0 x.index fun e => { e with cancel := true }).markNet n false else m
    | none => m) s

/-- R336: the stored parameters of a span link. -/
def linkUnit (k : Nat) : Nat := Config.stackCount + k

/-- R313: three failed retrainings take a link down. -/
def execLinkDown (link : Nat) (s : State) : Host.Outcome State Fault Refusal :=
  let l := s.link link
  if l.up && 3 ≤ l.tries then
    let s := s.updLink link fun l => { l with up := false }
    let s := { s with port := { s.port with trained := s.port.trained.filter fun r => r.unit != linkUnit link } }
    .next (((withMach s (s.toMach.cancelOver link).tock).logError 2 0x07 link l.tries 0).eventFor 0x07 (s.usesLink link)).portWork
  else .next s

end Sys2Proof.Machine
end

