-- ==== Sys2Proof/Machine/Start.lean ====
section
/-! DEFINITION. Starting the device (R336, R337), the zeroing of returned resources (R339), ageing and power (R340). -/

namespace Sys2Proof.Machine

/-! Clocks (R340). -/

def Die.stepDown (d : Die) : Die := { d with clock := d.clock - 100, relock := true }
def Die.canStep (d : Die) : Bool := Config.clockFloor + 100 ≤ d.clock
def clampClock (c : Nat) : Nat := max Config.clockFloor (min c Config.clockTop)
def State.die (s : State) (k : Nat) : Die := s.port.dies[k]?.getD {}

/-- R340: the voltage is raised within its limit; a guard band that the limit cannot meet costs a clock step, or is reported at the floor.
DESIGN CHOICE: log entry 83. -/
def State.replan (s : State) (die : Nat) (met : Bool) : State :=
  let s := s.updDie die fun d =>
    { d with volts := max d.volts (if met then min (d.volts + Config.voltage s.tick die) Config.voltageLimit else Config.voltageLimit) }
  if met then s
  else if (s.die die).canStep then (s.updDie die Die.stepDown).eventFor 0x03 (·.onDie die)
  else s.eventFor 0x04 (·.onDie die)

def execAgeingReplan (die : Nat) (met : Bool) (s : State) : Host.Outcome State Fault Refusal :=
  let s' := (s.replan die met).portWork
  .next { s' with toMach := s'.toMach.tock }

/-- R340: the tiles of the die go on. -/
def execClockRelock (die : Nat) (s : State) : Host.Outcome State Fault Refusal :=
  .next (s.updDie die fun d => { d with relock := false })

/-- R340: what a power sample does to a die: a step down over the rating, a step up below the lower mark. -/
def Die.cap (d : Die) : Die := if d.canStep then { d.stepDown with capped := d.capped + 1 } else d
def Die.uncap (d : Die) : Die := if d.capped = 0 then d else { d with clock := d.clock + 100, capped := d.capped - 1, relock := true }

/-- R340: the 10 ms average, once there are ten samples; one step down per 10 ms, one up per second. DEDUCED: log entry 84. -/
def State.power (s : State) (watts : Nat) : State :=
  let l := (s.port.watts ++ [watts]).drop (s.port.watts.length + 1 - 10)
  let full := l.length == 10
  let sum := l.foldl (· + ·) 0
  let hot := full && Config.rating * 10 < sum && 10 ≤ s.port.sinceStep + 1
  let low := if full && sum < Config.ratingLow * 10 then s.port.lowFor + 1 else 0
  let up := 1000 ≤ low
  let active := s.port.dies.toList.any fun d => d.capped != 0
  let dies := s.port.dies.map fun d => if hot then d.cap else if up then d.uncap else d
  let s := { s with port := { s.port with
    watts := l, sample := s.port.sample + 1, dies := dies, sinceStep := if hot then 0 else s.port.sinceStep + 1, lowFor := if up then 0 else low } }
  if hot && !active then s.event 0x06 else s

def execPowerSample (watts : Nat) (s : State) : Host.Outcome State Fault Refusal :=
  let s' := (s.power watts).portWork
  .next { s' with toMach := s'.toMach.tock }

/-! Starts (R336, R337). -/

/-- R337: does a start hold at step 5: one that is asked for now goes on in its place, as a single start. -/
def State.isHolding (s : State) : Bool := match s.port.start with
  | .holding _ _ => true
  | _ => false

/-- R336: what a start leaves of an end of a span link: its lanes. -/
def Link.quiet (l : Link) : Link := { up := l.up, half := l.half, sound := l.sound, spareOut := l.spareOut, spareIn := l.spareIn }

/-- R329: management queue 0 has another key after every start. What a start ends: every tenant, process and request; memory is zeroed by
step 7 only. A start that was running counts once, and what it logged of its links goes with it. -/
def State.halt (s : State) (cold : Bool) : State :=
  { s with
    toMach := { mem := s.mem, bad := s.bad, fresh := s.fresh, tick := s.tick + 1, seeds := s.seeds, hostUp := s.hostUp }
    port := { s.port with
      queues := [{ mgmt := true, queue := 0, tenant := 0, epoch := s.tick + 1 }], regions := [], udpPort := 24712, paused := [], timeout := 2000000
      links := s.port.links.map Link.quiet
      starts := if s.isHolding then s.port.starts else s.port.starts + 1
      log := if s.isHolding then s.port.log.filter fun e => !(e.starts == s.port.starts && e.source == 2 && e.code == 4) else s.port.log
      lastCold := cold, watts := [], sinceStep := 0, lowFor := 0
      firmware := { s.port.firmware with staged := [] } } }

/-- R337: a start that fails, with the die or stack at which it failed. -/
def State.failStart (s : State) (step spot : Nat) : State :=
  ({ s with port := { s.port with start := .failed step } } : State).logError 1 step spot 0 0

/-! Stored parameters (R336). -/

/-- The stacks and the host link. -/
def stackUnits : List Nat := List.range Config.stackCount
def hostUnit : Nat := 36

/-- The temperature that a start measures at a unit. -/
def unitTemp (f : StartFinds) (u : Nat) : Int := f.celsius[u]?.getD 25

/-- The stored parameters of a unit are valid: the record's CRC holds, the firmware version matches, and the temperature lies
within 10 °C of that at training. -/
def Port.valid (p : Port) (version : Nat) (f : StartFinds) (u : Nat) : Bool :=
  p.trained.any fun r => r.unit == u && r.version == version && !f.badRecords.contains u &&
    -10 ≤ unitTemp f u - r.celsius && unitTemp f u - r.celsius ≤ 10

/-- What a start trains: everything at a cold start, and else what has no valid parameters. -/
def Port.trains (p : Port) (cold : Bool) (version : Nat) (f : StartFinds) (u : Nat) : Bool := cold || !p.valid version f u

/-- A unit trained, with its record; one that cannot be trained keeps none. -/
def Port.train (p : Port) (version : Nat) (f : StartFinds) (ok : Bool) (u : Nat) : Port :=
  let others := p.trained.filter fun r => r.unit != u
  { p with trained := if ok then insertBy (·.unit) { unit := u, version := version, celsius := unitTemp f u } others else others }

/-- Step 3. -/
def Port.trainStacks (p : Port) (cold : Bool) (version : Nat) (f : StartFinds) : Port :=
  (stackUnits.filter (p.trains cold version f)).foldl (fun q u => q.train version f true u) p

/-- Step 4: a link that cannot be trained is down and logged; one with valid parameters stays as it is. -/
def State.trainLinks (s : State) (cold : Bool) (version : Nat) (f : StartFinds) : State :=
  ((List.range 12).filter fun k => s.port.trains cold version f (linkUnit k)).foldl (fun s k =>
    let up := f.linksUp.contains k
    let p := s.port.train version f up (linkUnit k)
    let s := { s with port := { p with links := p.links.setIfInBounds k { up := up } } }
    if up then s else (s.logError 2 4 k 3 0).event 0x07) s

/-- Step 5: the host link, as far as it is trained. -/
def State.trainHost (s : State) (cold : Bool) (version : Nat) (f : StartFinds) : State :=
  { s with port := if s.port.trains cold version f hostUnit then s.port.train version f true hostUnit else s.port }

/-- Step 6: the full measurement sets the clocks, the short check only takes steps off. -/
def State.measure (s : State) (cold : Bool) (clocks : List Nat) : State :=
  (List.range 8).foldl (fun s k =>
    let c := clampClock (clocks[k]?.getD Config.clockTop)
    if cold then s.updDie k fun _ => { clock := c, volts := min (Config.voltage s.tick k) Config.voltageLimit, soft := Vector.replicate 9 0, errs := [] }
    else (s.updDie k fun d => { d with relock := false }).replan k ((s.die k).clock ≤ c)) s

/-- Step 7: everything that can be owned is zeroed; the host's memory is not the device's. -/
def Mach.zeroAll (s : Mach) : Mach :=
  { s with mem := s.mem.filter fun c => 2 ^ 64 ≤ c.1, bad := s.bad.filter fun u => 2 ^ 64 ≤ u, seeds := [] }

/-- R334: the firmware that has started: the flash copy, whose rollback value raises the fuses. -/
def Firmware.started (f : Firmware) : Firmware := match f.flash with
  | none => { f with recovery := false }
  | some b => { f with body := b.drop 512, version := field b 8 4, rollback := field b 12 4, fuses := max f.fuses (field b 12 4), recovery := false }

/-- Steps 6 to 8. -/
def State.endStart (s : State) (cold : Bool) (f : StartFinds) : State :=
  let s := s.measure cold f.clocks
  if !f.clearOk then s.failStart 7 f.spot
  else { s with
    toMach := s.toMach.zeroAll
    port := { s.port with start := .ready, firmware := s.port.firmware.started } }

/-- R334: does the check of step 1 pass. -/
def State.firmwareStarts (s : State) (f : StartFinds) : Bool :=
  f.firmwareOk && match s.port.firmware.flash with
    | none => true
    | some b => firmwareOk b s.port.firmware.fuses

/-- R337: a request that meets a start holding at step 5 is cold if either is. -/
def State.isCold (s : State) (cold : Bool) : Bool := match s.port.start with
  | .holding c _ => cold || c
  | _ => cold

/-- R336. DEDUCED: log entry 82. -/
def State.runStart (s : State) (cold : Bool) (f : StartFinds) : State :=
  let cold := s.isCold cold
  let s := s.halt cold
  if !s.firmwareStarts f then
    ({ s with port := { s.port with firmware := { s.port.firmware with recovery := true } } } : State).failStart 1 0xFF
  else
    let version := s.port.firmware.started.version
    if !f.selfTestOk then s.failStart 2 f.spot
    else if stackUnits.any (s.port.trains cold version f) && !f.stacksOk then s.failStart 3 f.spot
    else
      let s := ({ s with port := s.port.trainStacks cold version f } : State).trainLinks cold version f
      if s.port.trains cold version f hostUnit && !f.hostLinkOk then { s with port := { s.port with start := .holding cold f } }
      else (s.trainHost cold version f).endStart cold f

def execColdStart (f : StartFinds) (s : State) : Host.Outcome State Fault Refusal := .next (s.runStart true f).flush
def execWarmStart (f : StartFinds) (s : State) : Host.Outcome State Fault Refusal := .next (s.runStart false f).flush

/-- R337: the host link is tried again every second while the start holds. -/
def execHostLinkRetry (ok : Bool) (s : State) : Host.Outcome State Fault Refusal :=
  match s.port.start with
  | .holding cold f =>
    if ok then .next ((s.trainHost cold s.port.firmware.started.version f).endStart cold f).flush else .next s
  | _ => .next s

/-! Owner change (R339). -/

/-- Bytes and poison of a span of locations zeroed. -/
def Mach.zeroSpan (s : Mach) (key n : Nat) : Mach :=
  { s with mem := Mem.clear s.mem key n, bad := s.bad.filter fun u => u < key || key + n ≤ u }

/-- A tile of an ended job, with nobody placed on it: its residencies revoked, its memories zeroed. -/
def Mach.zeroTile (s : Mach) (t : Nat) : Mach :=
  let s := (List.range s.resids.length).foldl (fun m i => match m.resids[i]? with
    | some r => if !r.bank && r.spot == t && !r.noSlot then m.revoke i else m
    | none => m) s
  let s := ((s.zeroSpan (Key.tile t 0) (2 ^ 24)).zeroSpan (Key.slot t 0 0) (2 ^ 24)).zeroSpan (Key.figure t 0 0) (2 ^ 16)
  let s := { s with
    marks := s.marks.filter fun (y : Nat × Nat) => y.1 / 4096 != t
    tenants := s.tenants.map fun (y : Tenant) => { y with tiles := y.tiles.filter fun k => k != t } }
  s.updTile t fun y => { y with zeroing := false, arb := {} }

def execTileZeroingComplete (tile : Nat) (s : State) : Host.Outcome State Fault Refusal :=
  if (s.toMach.tile tile).zeroing && (s.toMach.onTile tile).isEmpty then .next { s with toMach := (s.toMach.zeroTile tile).tock }
  else .next s

/-- Does a tenant own a location of a memory server. -/
def Tenant.ownsRow (t : Tenant) (key : Nat) : Bool :=
  key < 2 ^ 50 &&
  (t.stackNos.contains (stackOf key) || t.rows.contains (((key % 2 ^ 30 / 256 * 3072 + serverOf key) * 256) / 2 ^ 21))

/-- The rows of an ended job: its memory and residencies, and with them the last of the job. -/
def Mach.zeroRows (s : Mach) (t : Tenant) : Mach :=
  let s := (List.range s.resids.length).foldl (fun m i => match m.resids[i]? with
    | some r => if r.bank && r.tenant == t.id then m.revoke i else m
    | none => m) s.settle
  { s with
    mem := s.mem.filter fun (c : Host.Cell) => !t.ownsRow c.1
    bad := s.bad.filter fun u => !t.ownsRow u
    entries := s.entries.filter fun (e : Entry) => e.tenant != t.id
    tenants := s.tenants.filter fun (y : Tenant) => y.id != t.id }

/-- Is a location one of a memory server in one of the given rows: intervals of MiB, each with its stack (R273). -/
def inRows (rows : List (Nat × Nat × Nat)) (key : Nat) : Bool :=
  key < 2 ^ 50 && rows.any fun y => y.1 == stackOf key && y.2.1 ≤ key % 2 ^ 30 / 8192 && key % 2 ^ 30 / 8192 < y.2.2

/-- R296: rows zeroed, with their poison. -/
def Mach.clearRows (s : Mach) (rows : List (Nat × Nat × Nat)) : Mach :=
  { s with mem := s.mem.filter fun (c : Host.Cell) => !inRows rows c.1, bad := s.bad.filter fun u => !inRows rows u }

/-- DEDUCED: log entry 85. -/
def execRowClearComplete (what : Cleared) (s : State) : Host.Outcome State Fault Refusal :=
  match what with
  | .save slot =>
    if s.procs.any fun p => (p.saved.map (·.1)) == some slot then .next s
    else .next { s with toMach := (s.toMach.zeroSpan (Key.save slot 0) (2 ^ 24)).tock }
  | .spill nid =>
    let rows := (s.nets.filter fun x => !x.live && x.nid == nid).flatMap (·.spill)
    let nets := s.nets.map fun x =>
      if !x.live && x.nid == nid then { x with
        chans := x.chans.map fun c => { c with flight := [], buf := [], inTile := 0, sent := 0 }
        pools := x.pools.map fun p => { p with toks := [], puts := [], gets := [] }
        spill := [] }
      else x
    .next { s with toMach := ({ s.toMach.clearRows rows with nets := nets } : Mach).tock }
  | .blocks ten => match s.toMach.tenant ten with
    | none => .next s
    | some t =>
      if t.gone && t.tiles.isEmpty && !(s.nets.any fun x => x.live && x.tenant == ten) &&
          !(s.port.queues.any fun q => q.tearing && q.tenant == ten) then
        .next { s with toMach := (s.toMach.zeroRows t).tock }
      else .next s

end Sys2Proof.Machine
end

