-- ==== Sys2Proof/Machine/Dispatch.lean ====
section
/-! DEFINITION. One arm per instruction: a direct call of its meaning. -/

namespace Sys2Proof.Machine

def exec (i : Instr) (s : State) : Host.Outcome State Fault Refusal :=
  match i with
  | .nop x => Sys2Proof.Machine.execNop x s
  | .exit x => Sys2Proof.Machine.execExit x s
  | .svc x => Sys2Proof.Machine.execSvc x s
  | .brk x => Sys2Proof.Machine.execBrk x s
  | .ifsync x => Sys2Proof.Machine.execIfsync x s
  | .fence x => Sys2Proof.Machine.execFence x s
  | .mfs x => Sys2Proof.Machine.execMfs x s
  | .mts x => Sys2Proof.Machine.execMts x s
  | .add x => Sys2Proof.Machine.execAdd x s
  | .sub x => Sys2Proof.Machine.execSub x s
  | .and x => Sys2Proof.Machine.execAnd x s
  | .or x => Sys2Proof.Machine.execOr x s
  | .xor x => Sys2Proof.Machine.execXor x s
  | .sll x => Sys2Proof.Machine.execSll x s
  | .srl x => Sys2Proof.Machine.execSrl x s
  | .sra x => Sys2Proof.Machine.execSra x s
  | .mul x => Sys2Proof.Machine.execMul x s
  | .mulh x => Sys2Proof.Machine.execMulh x s
  | .mulhu x => Sys2Proof.Machine.execMulhu x s
  | .mulhsu x => Sys2Proof.Machine.execMulhsu x s
  | .div x => Sys2Proof.Machine.execDiv x s
  | .divu x => Sys2Proof.Machine.execDivu x s
  | .rem x => Sys2Proof.Machine.execRem x s
  | .remu x => Sys2Proof.Machine.execRemu x s
  | .addi x => Sys2Proof.Machine.execAddi x s
  | .movi x => Sys2Proof.Machine.execMovi x s
  | .slli x => Sys2Proof.Machine.execSlli x s
  | .srli x => Sys2Proof.Machine.execSrli x s
  | .srai x => Sys2Proof.Machine.execSrai x s
  | .clz x => Sys2Proof.Machine.execClz x s
  | .ctz x => Sys2Proof.Machine.execCtz x s
  | .popc x => Sys2Proof.Machine.execPopc x s
  | .sextw x => Sys2Proof.Machine.execSextw x s
  | .zextw x => Sys2Proof.Machine.execZextw x s
  | .seq x => Sys2Proof.Machine.execSeq x s
  | .sne x => Sys2Proof.Machine.execSne x s
  | .slt x => Sys2Proof.Machine.execSlt x s
  | .sltu x => Sys2Proof.Machine.execSltu x s
  | .sge x => Sys2Proof.Machine.execSge x s
  | .sgeu x => Sys2Proof.Machine.execSgeu x s
  | .min x => Sys2Proof.Machine.execMin x s
  | .max x => Sys2Proof.Machine.execMax x s
  | .andi x => Sys2Proof.Machine.execAndi x s
  | .lb x => Sys2Proof.Machine.execLb x s
  | .lbu x => Sys2Proof.Machine.execLbu x s
  | .lh x => Sys2Proof.Machine.execLh x s
  | .lhu x => Sys2Proof.Machine.execLhu x s
  | .lw x => Sys2Proof.Machine.execLw x s
  | .lwu x => Sys2Proof.Machine.execLwu x s
  | .ld x => Sys2Proof.Machine.execLd x s
  | .lea x => Sys2Proof.Machine.execLea x s
  | .sb x => Sys2Proof.Machine.execSb x s
  | .sh x => Sys2Proof.Machine.execSh x s
  | .sw x => Sys2Proof.Machine.execSw x s
  | .sd x => Sys2Proof.Machine.execSd x s
  | .amoadd x => Sys2Proof.Machine.execAmoadd x s
  | .amoswap x => Sys2Proof.Machine.execAmoswap x s
  | .amomax x => Sys2Proof.Machine.execAmomax x s
  | .amocas x => Sys2Proof.Machine.execAmocas x s
  | .beqz x => Sys2Proof.Machine.execBeqz x s
  | .bnez x => Sys2Proof.Machine.execBnez x s
  | .j x => Sys2Proof.Machine.execJ x s
  | .call x => Sys2Proof.Machine.execCall x s
  | .jr x => Sys2Proof.Machine.execJr x s
  | .callr x => Sys2Proof.Machine.execCallr x s
  | .ret x => Sys2Proof.Machine.execRet x s
  | .bpt x => Sys2Proof.Machine.execBpt x s
  | .bpf x => Sys2Proof.Machine.execBpf x s
  | .qpop x => Sys2Proof.Machine.execQpop x s
  | .qpopb x => Sys2Proof.Machine.execQpopb x s
  | .qpush x => Sys2Proof.Machine.execQpush x s
  | .qclose x => Sys2Proof.Machine.execQclose x s
  | .qbind x => Sys2Proof.Machine.execQbind x s
  | .qunbind x => Sys2Proof.Machine.execQunbind x s
  | .setvl x => Sys2Proof.Machine.execSetvl x s
  | .setvli x => Sys2Proof.Machine.execSetvli x s
  | .strip x => Sys2Proof.Machine.execStrip x s
  | .stripcfg x => Sys2Proof.Machine.execStripcfg x s
  | .pand x => Sys2Proof.Machine.execPand x s
  | .por x => Sys2Proof.Machine.execPor x s
  | .pxor x => Sys2Proof.Machine.execPxor x s
  | .pnot x => Sys2Proof.Machine.execPnot x s
  | .pbrkb x => Sys2Proof.Machine.execPbrkb x s
  | .pbrki x => Sys2Proof.Machine.execPbrki x s
  | .pfirst x => Sys2Proof.Machine.execPfirst x s
  | .pcount x => Sys2Proof.Machine.execPcount x s
  | .waitge x => Sys2Proof.Machine.execWaitge x s
  | .cadd x => Sys2Proof.Machine.execCadd x s
  | .vwait x => Sys2Proof.Machine.execVwait x s
  | .bar x => Sys2Proof.Machine.execBar x s
  | .bararr x => Sys2Proof.Machine.execBararr x s
  | .barwait x => Sys2Proof.Machine.execBarwait x s
  | .sstep x => Sys2Proof.Machine.execSstep x s
  | .vadd x => Sys2Proof.Machine.execVadd x s
  | .vsub x => Sys2Proof.Machine.execVsub x s
  | .vmul x => Sys2Proof.Machine.execVmul x s
  | .vmin x => Sys2Proof.Machine.execVmin x s
  | .vmax x => Sys2Proof.Machine.execVmax x s
  | .vabd x => Sys2Proof.Machine.execVabd x s
  | .vmac x => Sys2Proof.Machine.execVmac x s
  | .vnmac x => Sys2Proof.Machine.execVnmac x s
  | .vand x => Sys2Proof.Machine.execVand x s
  | .vor x => Sys2Proof.Machine.execVor x s
  | .vxor x => Sys2Proof.Machine.execVxor x s
  | .vandn x => Sys2Proof.Machine.execVandn x s
  | .vsll x => Sys2Proof.Machine.execVsll x s
  | .vsrl x => Sys2Proof.Machine.execVsrl x s
  | .vsra x => Sys2Proof.Machine.execVsra x s
  | .vnot x => Sys2Proof.Machine.execVnot x s
  | .vceq x => Sys2Proof.Machine.execVceq x s
  | .vcne x => Sys2Proof.Machine.execVcne x s
  | .vclt x => Sys2Proof.Machine.execVclt x s
  | .vcle x => Sys2Proof.Machine.execVcle x s
  | .vcgt x => Sys2Proof.Machine.execVcgt x s
  | .vcge x => Sys2Proof.Machine.execVcge x s
  | .vcltu x => Sys2Proof.Machine.execVcltu x s
  | .vcun x => Sys2Proof.Machine.execVcun x s
  | .vmov x => Sys2Proof.Machine.execVmov x s
  | .vsplat x => Sys2Proof.Machine.execVsplat x s
  | .vext x => Sys2Proof.Machine.execVext x s
  | .vins x => Sys2Proof.Machine.execVins x s
  | .vmerge x => Sys2Proof.Machine.execVmerge x s
  | .vid x => Sys2Proof.Machine.execVid x s
  | .viota x => Sys2Proof.Machine.execViota x s
  | .vcompress x => Sys2Proof.Machine.execVcompress x s
  | .vld x => Sys2Proof.Machine.execVld x s
  | .vlds x => Sys2Proof.Machine.execVlds x s
  | .vldx x => Sys2Proof.Machine.execVldx x s
  | .vldff x => Sys2Proof.Machine.execVldff x s
  | .vldbc x => Sys2Proof.Machine.execVldbc x s
  | .vst x => Sys2Proof.Machine.execVst x s
  | .vsts x => Sys2Proof.Machine.execVsts x s
  | .vstx x => Sys2Proof.Machine.execVstx x s
  | .vredsum x => Sys2Proof.Machine.execVredsum x s
  | .vredosum x => Sys2Proof.Machine.execVredosum x s
  | .vredmax x => Sys2Proof.Machine.execVredmax x s
  | .vredmin x => Sys2Proof.Machine.execVredmin x s
  | .vredand x => Sys2Proof.Machine.execVredand x s
  | .vredor x => Sys2Proof.Machine.execVredor x s
  | .vredxor x => Sys2Proof.Machine.execVredxor x s
  | .vcvt x => Sys2Proof.Machine.execVcvt x s
  | .vwiden x => Sys2Proof.Machine.execVwiden x s
  | .vnarrow x => Sys2Proof.Machine.execVnarrow x s
  | .vrint x => Sys2Proof.Machine.execVrint x s
  | .vslup x => Sys2Proof.Machine.execVslup x s
  | .vsldn x => Sys2Proof.Machine.execVsldn x s
  | .vrgat x => Sys2Proof.Machine.execVrgat x s
  | .vzip x => Sys2Proof.Machine.execVzip x s
  | .vunzip x => Sys2Proof.Machine.execVunzip x s
  | .vrev x => Sys2Proof.Machine.execVrev x s
  | .vsl1up x => Sys2Proof.Machine.execVsl1up x s
  | .vsl1dn x => Sys2Proof.Machine.execVsl1dn x s
  | .vdiv x => Sys2Proof.Machine.execVdiv x s
  | .vsqrt x => Sys2Proof.Machine.execVsqrt x s
  | .vrcp x => Sys2Proof.Machine.execVrcp x s
  | .vrsqrt x => Sys2Proof.Machine.execVrsqrt x s
  | .vexp2 x => Sys2Proof.Machine.execVexp2 x s
  | .vlog2 x => Sys2Proof.Machine.execVlog2 x s
  | .vclass x => Sys2Proof.Machine.execVclass x s
  | .vabs x => Sys2Proof.Machine.execVabs x s
  | .vsadd x => Sys2Proof.Machine.execVsadd x s
  | .vssub x => Sys2Proof.Machine.execVssub x s
  | .vsaddu x => Sys2Proof.Machine.execVsaddu x s
  | .vssubu x => Sys2Proof.Machine.execVssubu x s
  | .vavg x => Sys2Proof.Machine.execVavg x s
  | .vmulh x => Sys2Proof.Machine.execVmulh x s
  | .vmulhu x => Sys2Proof.Machine.execVmulhu x s
  | .vsrr x => Sys2Proof.Machine.execVsrr x s
  | .vnclip x => Sys2Proof.Machine.execVnclip x s
  | .vnclipu x => Sys2Proof.Machine.execVnclipu x s
  | .vmacw x => Sys2Proof.Machine.execVmacw x s
  | .vdotw x => Sys2Proof.Machine.execVdotw x s
  | .vbmax x => Sys2Proof.Machine.execVbmax x s
  | .vbscale x => Sys2Proof.Machine.execVbscale x s
  | .vbdeq x => Sys2Proof.Machine.execVbdeq x s
  | .vsparse x => Sys2Proof.Machine.execVsparse x s
  | .mxon x => Sys2Proof.Machine.execMxon x s
  | .mxoff x => Sys2Proof.Machine.execMxoff x s
  | .mzero x => Sys2Proof.Machine.execMzero x s
  | .mop x => Sys2Proof.Machine.execMop x s
  | .mopn x => Sys2Proof.Machine.execMopn x s
  | .mfold x => Sys2Proof.Machine.execMfold x s
  | .mrowv x => Sys2Proof.Machine.execMrowv x s
  | .mcolv x => Sys2Proof.Machine.execMcolv x s
  | .mvrow x => Sys2Proof.Machine.execMvrow x s
  | .mvcol x => Sys2Proof.Machine.execMvcol x s
  | .macst x => Sys2Proof.Machine.execMacst x s
  | .macld x => Sys2Proof.Machine.execMacld x s
  | .rsalloc x => Sys2Proof.Machine.execRsalloc x s
  | .rsload x => Sys2Proof.Machine.execRsload x s
  | .rspin x => Sys2Proof.Machine.execRspin x s
  | .rsunpin x => Sys2Proof.Machine.execRsunpin x s
  | .rsrev x => Sys2Proof.Machine.execRsrev x s
  | .rsq x => Sys2Proof.Machine.execRsq x s
  | .mres x => Sys2Proof.Machine.execMres x s
  | .mresv x => Sys2Proof.Machine.execMresv x s
  | .sset x => Sys2Proof.Machine.execSset x s
  | .sstop x => Sys2Proof.Machine.execSstop x s
  | .sstopClose x => Sys2Proof.Machine.execSstopClose x s
  | .vslr x => Sys2Proof.Machine.execVslr x s
  | .vslrcfg x => Sys2Proof.Machine.execVslrcfg x s
  | .cpy x => Sys2Proof.Machine.execCpy x s
  | .cpyx x => Sys2Proof.Machine.execCpyx x s
  | .cpydist x => Sys2Proof.Machine.execCpydist x s
  | .cpyz x => Sys2Proof.Machine.execCpyz x s
  | .mrd x => Sys2Proof.Machine.execMrd x s
  | .mwr x => Sys2Proof.Machine.execMwr x s
  | .mwrm x => Sys2Proof.Machine.execMwrm x s
  | .matom x => Sys2Proof.Machine.execMatom x s
  | .mrsp x => Sys2Proof.Machine.execMrsp x s
  | .vldg x => Sys2Proof.Machine.execVldg x s
  | .vstg x => Sys2Proof.Machine.execVstg x s
  | .vldgff x => Sys2Proof.Machine.execVldgff x s
  | .poolput x => Sys2Proof.Machine.execPoolput x s
  | .poolget x => Sys2Proof.Machine.execPoolget x s
  | .launch x => Sys2Proof.Machine.execLaunch x s
  | .cancel x => Sys2Proof.Machine.execCancel x s
  | .ccget x => Sys2Proof.Machine.execCcget x s
  | .cut x => Sys2Proof.Machine.execCut x s
  | .tret x => Sys2Proof.Machine.execTret x s
  | .ctxsave x => Sys2Proof.Machine.execCtxsave x s
  | .ctxrest x => Sys2Proof.Machine.execCtxrest x s
  | .rtset x => Sys2Proof.Machine.execRtset x s
  | .rtcommit x => Sys2Proof.Machine.execRtcommit x s
  | .rtinv x => Sys2Proof.Machine.execRtinv x s
  | .fgload x => Sys2Proof.Machine.execFgload x s
  | .fgbind x => Sys2Proof.Machine.execFgbind x s
  | .fgclr x => Sys2Proof.Machine.execFgclr x s
  | .fgsel x => Sys2Proof.Machine.execFgsel x s
  | .chgown x => Sys2Proof.Machine.execChgown x s
  | .resume x => Sys2Proof.Machine.execResume x s
  | .resumeSnap x => Sys2Proof.Machine.execResumeSnap x s
  | .rseed x => Sys2Proof.Machine.execRseed x s
  | .rstream x => Sys2Proof.Machine.execRstream x s
  | .vrand x => Sys2Proof.Machine.execVrand x s
  | .vrandf x => Sys2Proof.Machine.execVrandf x s
  | .dgon x => Sys2Proof.Machine.execDgon x s
  | .dgoff x => Sys2Proof.Machine.execDgoff x s
  | .dgget x => Sys2Proof.Machine.execDgget x s
  | .rdctr x => Sys2Proof.Machine.execRdctr x s
  | .fig x op f => Sys2Proof.Machine.execFig x op f s
  | .faultRecordDelivery net => Sys2Proof.Machine.execFaultRecordDelivery net s
  | .tokenArrival net ch => Sys2Proof.Machine.execTokenArrival net ch s
  | .slotReturn net ch => Sys2Proof.Machine.execSlotReturn net ch s
  | .channelRebind net ch => Sys2Proof.Machine.execChannelRebind net ch s
  | .copyElement k => Sys2Proof.Machine.execCopyElement k s
  | .residencyFillComplete r => Sys2Proof.Machine.execResidencyFillComplete r s
  | .residencyFillFault r => Sys2Proof.Machine.execResidencyFillFault r s
  | .residencyReloadComplete r => Sys2Proof.Machine.execResidencyReloadComplete r s
  | .residencyStaleMark r k => Sys2Proof.Machine.execResidencyStaleMark r k s
  | .gatewayForward k => Sys2Proof.Machine.execGatewayForward k s
  | .serverAccept k => Sys2Proof.Machine.execServerAccept k s
  | .serverPerform k ecc => Sys2Proof.Machine.execServerPerform k ecc s
  | .rmwMergeComplete k => Sys2Proof.Machine.execRmwMergeComplete k s
  | .packetReplyArrival k => Sys2Proof.Machine.execPacketReplyArrival k s
  | .remoteTileAccess k => Sys2Proof.Machine.execRemoteTileAccess k s
  | .nearBankRequest k => Sys2Proof.Machine.execNearBankRequest k s
  | .nearBankReply k => Sys2Proof.Machine.execNearBankReply k s
  | .patternTokenFetch proc j => Sys2Proof.Machine.execPatternTokenFetch proc j s
  | .barrierArrival net n => Sys2Proof.Machine.execBarrierArrival net n s
  | .sstepGenerationComplete net n => Sys2Proof.Machine.execSstepGenerationComplete net n s
  | .lapClose net pool => Sys2Proof.Machine.execLapClose net pool s
  | .sweepFirstPass net => Sys2Proof.Machine.execSweepFirstPass net s
  | .sweepSecondPass net => Sys2Proof.Machine.execSweepSecondPass net s
  | .preemptionRequest proc => Sys2Proof.Machine.execPreemptionRequest proc s
  | .preemptionDeadline proc => Sys2Proof.Machine.execPreemptionDeadline proc s
  | .saveSequence proc => Sys2Proof.Machine.execSaveSequence proc s
  | .placeProcess proc => Sys2Proof.Machine.execPlaceProcess proc s
  | .hubRestore proc => Sys2Proof.Machine.execHubRestore proc s
  | .unplacedWake proc => Sys2Proof.Machine.execUnplacedWake proc s
  | .networkDispatch tenant => Sys2Proof.Machine.execNetworkDispatch tenant s
  | .launchStart net => Sys2Proof.Machine.execLaunchStart net s
  | .entryFinal tenant level index => Sys2Proof.Machine.execEntryFinal tenant level index s
  | .cancelPropagate tenant level index => Sys2Proof.Machine.execCancelPropagate tenant level index s
  | .cancelledTrap proc => Sys2Proof.Machine.execCancelledTrap proc s
  | .takeGate proc => Sys2Proof.Machine.execTakeGate proc s
  | .cutComplete net => Sys2Proof.Machine.execCutComplete net s
  | .snapshotRebuild k => Sys2Proof.Machine.execSnapshotRebuild k s
  | .vwaitTimeout proc => Sys2Proof.Machine.execVwaitTimeout proc s
  | .rangeTableSwitch tenant => Sys2Proof.Machine.execRangeTableSwitch tenant s
  | .queueSramPoison spot => Sys2Proof.Machine.execQueueSramPoison spot s
  | .laneGroupBind tile => Sys2Proof.Machine.execLaneGroupBind tile s
  | .arrayGrant tile => Sys2Proof.Machine.execArrayGrant tile s
  | .submitNetwork h m => Sys2Proof.Machine.execSubmitNetwork h m s
  | .submitGraph h graph phase nets edges => Sys2Proof.Machine.execSubmitGraph h graph phase nets edges s
  | .openPhase h phase => Sys2Proof.Machine.execOpenPhase h phase s
  | .closePhase h phase => Sys2Proof.Machine.execClosePhase h phase s
  | .sqpCancel h level index => Sys2Proof.Machine.execSqpCancel h level index s
  | .teardownQueue h => Sys2Proof.Machine.execTeardownQueue h s
  | .resetQueue h => Sys2Proof.Machine.execResetQueue h s
  | .registerImage h addr len => Sys2Proof.Machine.execRegisterImage h addr len s
  | .prePlaceImage h handle => Sys2Proof.Machine.execPrePlaceImage h handle s
  | .releaseImage h handle => Sys2Proof.Machine.execReleaseImage h handle s
  | .sqpCut h index addr => Sys2Proof.Machine.execSqpCut h index addr s
  | .resumeSnapshot h snap index place => Sys2Proof.Machine.execResumeSnapshot h snap index place s
  | .openQueue h mgmt queue pub => Sys2Proof.Machine.execOpenQueue h mgmt queue pub s
  | .closeQueue h mgmt queue => Sys2Proof.Machine.execCloseQueue h mgmt queue s
  | .jobStart h j => Sys2Proof.Machine.execJobStart h j s
  | .jobEnd h tenant => Sys2Proof.Machine.execJobEnd h tenant s
  | .rangeRegion h tenant base len rd w => Sys2Proof.Machine.execRangeRegion h tenant base len rd w s
  | .hostWindow h tenant base len => Sys2Proof.Machine.execHostWindow h tenant base len s
  | .setAgeCap h server cap => Sys2Proof.Machine.execSetAgeCap h server cap s
  | .setHostPathTimeout h ns => Sys2Proof.Machine.execSetHostPathTimeout h ns s
  | .readErrorLog h => Sys2Proof.Machine.execReadErrorLog h s
  | .clearErrorLog h => Sys2Proof.Machine.execClearErrorLog h s
  | .readCounters h domain spot num => Sys2Proof.Machine.execReadCounters h domain spot num s
  | .releaseSeedLog h nid => Sys2Proof.Machine.execReleaseSeedLog h nid s
  | .readCertificateChain h => Sys2Proof.Machine.execReadCertificateChain h s
  | .attest h nonce => Sys2Proof.Machine.execAttest h nonce s
  | .firmwareChunk h bytes => Sys2Proof.Machine.execFirmwareChunk h bytes s
  | .sqpAcknowledgement mgmt queue seq => Sys2Proof.Machine.execSqpAcknowledgement mgmt queue seq s
  | .sqpRetransmit mgmt queue => Sys2Proof.Machine.execSqpRetransmit mgmt queue s
  | .rdmaWrite qp rkey addr bytes => Sys2Proof.Machine.execRdmaWrite qp rkey addr bytes s
  | .rdmaRead qp rkey addr len => Sys2Proof.Machine.execRdmaRead qp rkey addr len s
  | .rdmaRefusedVerb qp => Sys2Proof.Machine.execRdmaRefusedVerb qp s
  | .hostBridgeCompletion k => Sys2Proof.Machine.execHostBridgeCompletion k s
  | .hostPathTimeout k => Sys2Proof.Machine.execHostPathTimeout k s
  | .spanFlitReceive link f lane => Sys2Proof.Machine.execSpanFlitReceive link f lane s
  | .spanNegativeAcknowledgement link seq => Sys2Proof.Machine.execSpanNegativeAcknowledgement link seq s
  | .spanAcknowledgement link seq => Sys2Proof.Machine.execSpanAcknowledgement link seq s
  | .repairRequest link lane => Sys2Proof.Machine.execRepairRequest link lane s
  | .repairGrant link bound => Sys2Proof.Machine.execRepairGrant link bound s
  | .laneMapSwitch link => Sys2Proof.Machine.execLaneMapSwitch link s
  | .linkRetrain link ok => Sys2Proof.Machine.execLinkRetrain link ok s
  | .linkDown link => Sys2Proof.Machine.execLinkDown link s
  | .coldStart f => Sys2Proof.Machine.execColdStart f s
  | .warmStart f => Sys2Proof.Machine.execWarmStart f s
  | .hostLinkRetry ok => Sys2Proof.Machine.execHostLinkRetry ok s
  | .ageingReplan die met => Sys2Proof.Machine.execAgeingReplan die met s
  | .clockRelock die => Sys2Proof.Machine.execClockRelock die s
  | .powerSample watts => Sys2Proof.Machine.execPowerSample watts s
  | .tileZeroingComplete tile => Sys2Proof.Machine.execTileZeroingComplete tile s
  | .rowClearComplete what => Sys2Proof.Machine.execRowClearComplete what s
  | .laneLossOfLock link lane => Sys2Proof.Machine.execLaneLossOfLock link lane s
  | .icmpv6NeighbourDiscoveryAndEcho echo frame => Sys2Proof.Machine.execIcmpv6NeighbourDiscoveryAndEcho echo frame s
  | .droppedFrame frame => Sys2Proof.Machine.execDroppedFrame frame s
  | .setSqpUdpPort h port => Sys2Proof.Machine.execSetSqpUdpPort h port s

end Sys2Proof.Machine
end

