-- ==== Sys2Proof/Machine/Soft.lean ====
section
/-! DEFINITION. Soft errors that the ECC engines find where no request of a server meets them (R325, R326, R276, R340), and what the
host does to its own memory and to the path that leads there (R282, R283). -/

namespace Sys2Proof.Machine

/-- What a memory word belongs to: a tile, a stack with the server if it is named, or nothing that the dies count. -/
inductive SoftHome where
  | tile (t : Nat)
  | stack (k : Nat) (server : Option Nat)
  | other
  deriving DecidableEq, Repr

def homeOfKey (k : Nat) : SoftHome :=
  if k < 2 ^ 50 then .stack (stackOf k) (some (serverOf k))
  else if k < 2 ^ 52 then .tile (tileOfKey k)
  else if k < 2 ^ 53 then .tile ((k - 2 ^ 52) / 2 ^ 24)
  else if k < 2 ^ 54 then .tile ((k - 2 ^ 53) / 2 ^ 16)
  else if 2 ^ 60 ≤ k && k < 2 ^ 64 then .stack ((k - 2 ^ 60) / 2 ^ 48) none
  else .other

def Mach.tileHome (s : Mach) (k : Nat) : SoftHome := if s.isPlaced k then .tile (s.ctxOf k).tile else .other

/-- The token number i that a channel holds. -/
def Mach.heldToken (s : Mach) (net ch i : Nat) : Option (Net × Chan × Tok) :=
  (s.net net).bind fun x => (x.chan ch).bind fun c => (c.buf[i]?).map fun t => (x, c, t)

/-- R294: where a soft error strikes: a held token lies in its reader's tile or in the spill region. -/
def Mach.softHome (s : Mach) : SoftSpot → SoftHome
  | .word k => homeOfKey k
  | .vreg p _ _ => s.tileHome p
  | .preg p _ _ => s.tileHome p
  | .acc p _ _ => s.tileHome p
  | .token net ch i => match s.heldToken net ch i with
    | some (x, c, _) =>
      if i < c.inTile then ((x.procs[c.decl.rproc]?).map s.tileHome).getD .other
      else ((x.spill.head?).map fun y => .stack y.1 none).getD .other
    | none => .other
  | .seed _ => .other
  | .flit _ => .other

/-- R325: a corrected word is counted by its tile or its server, and by its die. -/
def State.softFixed (s : State) : SoftHome → State
  | .tile t => { s with toMach := s.toMach.countTile t 3 1 }.updDie (dieOf t) fun d => d.count 0 1
  | .stack k sv =>
    { s with toMach := match sv with
      | some v => s.toMach.countServer v 6 1
      | none => s.toMach }.updDie (k / 3) fun d => d.count (2 + k % 3) 1
  | .other => s

/-- R340: an uncorrectable error is counted by its die. -/
def State.softLost (s : State) : SoftHome → State
  | .tile t => s.uncorrectable (dieOf t) 1
  | .stack k _ => s.uncorrectable (k / 3) (5 + k % 3)
  | .other => s

/-- R327: the poisoned token of a channel; tval has no stated value where no instruction states one. -/
def badToken (x : Net) (ch : Nat) : Tok :=
  .fault { cause := 0x16, reason := 0x06, ref := ch, value := Config.unstatedTval (x.nid * 2 ^ 32 + ch) }

/-- R325, R326: an uncorrectable error marks its word poisoned; a token with such a word is a faulted one. -/
def Mach.softPoison (s : Mach) : SoftSpot → Mach
  | .word k => s.poison k
  | .vreg p r w =>
    let c := s.ctxOf p
    s.setCtxOf p { c with vBad := c.vBad.setIfInBounds r (c.vBad[r]?.getD 0 ||| BitVec.ofNat 64 (2 ^ w)) }
  | .preg p r w =>
    let c := s.ctxOf p
    if r = 0 then s else s.setCtxOf p { c with pBad := c.pBad.setIfInBounds r (c.pBad[r]?.getD 0 ||| BitVec.ofNat 16 (2 ^ w)) }
  | .acc p k w =>
    let c := s.ctxOf p
    if c.mN ≤ k then s else s.setCtxOf p { c with zBad := c.zBad.setIfInBounds k (c.zBad[k]?.getD 0 ||| BitVec.ofNat 1024 (2 ^ w)) }
  | .token net ch i => match s.heldToken net ch i with
    | some (x, _, t) =>
      if t matches .scalar _ | .vector _ then s.updNet net fun y => { y with
        chans := listSet y.chans ch fun c => { c with buf := listSet c.buf i fun _ => badToken x ch } }
      else s
    | none => s
  | .flit _ => s
  | .seed i => { s with seeds := listSet s.seeds i fun e => { e with bad := true } }

/-- Does a soft error of a context meet one: the registers of a process that holds none stand in its save record. -/
def Mach.softMeets (s : Mach) : SoftSpot → Bool
  | .vreg p _ _ => s.isPlaced p
  | .preg p _ _ => s.isPlaced p
  | .acc p _ _ => s.isPlaced p
  | _ => true

/-- R340: the die of a flit that is retried. -/
def SoftSpot.retried : SoftSpot → Option Nat
  | .flit d => some d
  | _ => none

/-- R325, R276, R340: a soft error is found. DESIGN CHOICE: log entry 119. -/
def softError (w : SoftSpot) (corrected : Bool) (s : State) : State :=
  if let some d := w.retried then s.updDie d fun y => y.count 8 1
  else if !s.toMach.softMeets w then s
  else if corrected then s.softFixed (s.toMach.softHome w)
  else { s with toMach := s.toMach.softPoison w }.softLost (s.toMach.softHome w)

/-- R282, R283: the host writes its own memory. -/
def hostWrites (a : Nat) (bytes : List Byte) (s : State) : State :=
  { s with toMach := { s.toMach with mem := Mem.write s.mem (Key.host a) bytes } }

/-- R282: whether the host answers the bridge. -/
def hostAnswers (up : Bool) (s : State) : State := { s with toMach := { s.toMach with hostUp := up } }

end Sys2Proof.Machine
end

