-- ==== Sys2Proof/Machine/Turn.lean ====
section
/-! DEFINITION. A turn of the schedule: the fetch and decoding of a chain (R38, R50 to R53, R112, R327), the turn of a
process, and the schedule that the model follows where its state names no turn. -/

namespace Sys2Proof.Machine

/-! Fetch and decoding. -/

/-- R53, R38, R327: the words of the next chain, one by one: each must lie in the context's own windows with x, and must
not be poisoned. DEDUCED: log entry 21. -/
def fetchWords (c : Ctx) : Nat → Nat → List (Half × Bool) → Except Trap (List Half)
  | 0, _, _ => .ok []
  | _, _, [] => .ok []
  | n + 1, i, (h, bad) :: r =>
    let off := (c.pc.toNat + 2 * i) % 2 ^ 24
    if Config.localBytes < off + 2 || !c.ownWindow off 2 false false true then
      .error { cause := 0x04, reason := 0x06, opnd := 5, value := BitVec.ofNat 64 off }
    else if bad then .error { cause := 0x16, reason := 0x08, value := BitVec.ofNat 64 off }
    else if Half.isPre h then (fetchWords c n (i + 1) r).map fun l => h :: l
    else .ok [h]

/-- R54: the words of the next chain; an address outside local memory faults at its fetch. -/
def fetchChain (c : Ctx) : Except Trap (List Half) := match c.far with
  | some w => .error { cause := 0x04, reason := 0x06, opnd := 5, value := w }
  | none => fetchWords c 5 0 c.fbuf

/-- What the context would run next: an instruction with its length, or the trap that its fetch or its decoding raises. DESIGN CHOICE: log entry 20. -/
def Mach.nextChain (s : Mach) : Except (Trap × Nat) (Instr × Nat) :=
  match fetchChain s.ctx with
  | .error t => .error (t, Config.fetchLen s.ctx.freeKey % 5 + 1)
  | .ok ws => match decodeWords ws with
    | .ok i n => .ok (i, n)
    | .bad b n => .error ({ cause := 0x01, reason := b.reason, opnd := b.opnd, value := BitVec.ofNat 64 b.value }, n)

/-! The turn of a process. -/

/-- R53, R304, R340: may process k run a chain: placed and running or waiting, its network started and not at its end, no
cancel, gate or hold due, and its die not relocking. -/
def State.mayRun (s : State) (k : Nat) : Bool := match s.toMach.proc k with
  | none => false
  | some p =>
    (p.st == .running || p.st == .blocked) && !p.held && !p.cancel && s.toMach.isPlaced k &&
    ((s.toMach.net p.net).map fun x => x.live && x.started && !x.fatal).getD false &&
    !s.toMach.gateDue k && !(s.die (dieOf (s.toMach.ctxOf k).tile)).relock

/-- Process k runs its next chain, stalls at one that its vector queue has no room for (R261), or takes the trap that stands in its
way. -/
def runProc (k : Nat) (s : State) : Host.Outcome State Fault Refusal :=
  if s.mayRun k then
    let s := withMach s (s.toMach.select k).ownStores
    match s.toMach.nextChain with
    | .ok (i, _) => if s.toMach.stalls i then .next s else exec i s
    | .error (t, n) => .next (withMach s (s.toMach.takeTrap n t))
  else .next s

/-- A step of an agent that may have nothing to do. -/
def tried (s : State) : Option State → Host.Outcome State Fault Refusal
  | some s' => .next { s' with toMach := s'.toMach.tock }
  | none => .next s

/-- A turn: a chain of a process, or a step of an agent, the hub or the host; no chain runs without being fetched. DESIGN CHOICE: log entry 96. -/
def runTurn (t : Turn) (s : State) : Host.Outcome State Fault Refusal := match t with
  | .proc k => runProc k s
  | .event i => if i.chain.isSome then .next s else exec i s
  | .soft w corrected => .next (softError w corrected s)
  | .hostStore a bytes => .next (hostWrites a bytes s)
  | .hostPath up => .next (hostAnswers up s)
  | .frame bytes => .next (s.frame bytes)
  | .moveAway k => tried s (s.moveAway k)
  | .spanToken n ch => tried s (s.spanToken n ch)
  | .spanReturn n ch => tried s (s.spanReturn n ch)
  | .spanBulk l => tried s (s.spanBulk l)
  | .spanControl n => tried s (s.spanControl n)
  | .spanSnapshot t a => tried s (s.spanSnapshot t a)

/-! The schedule where the state names no turn: what can happen is listed, and the tick says which of it happens. -/

abbrev Move := State → Host.Outcome State Fault Refusal

def procMoves (s : State) (k : Nat) : List Move := match s.toMach.proc k with
  | none => []
  | some p =>
    (if s.mayRun k then [runProc k] else []) ++
    (if p.cancel then [execCancelledTrap k] else []) ++
    (if s.toMach.gateDue k then [execTakeGate k] else []) ++
    (if p.req then [execPreemptionDeadline k] else if s.toMach.isPlaced k && s.toMach.contended k then [execPreemptionRequest k] else []) ++
    (if p.st == .blocked && (s.toMach.ctxOf k).issued.started && !(s.toMach.ctxOf k).issued.fired then [execVwaitTimeout k] else []) ++
    (if p.st.placed then ((List.range 8).filter fun j => ((s.toMach.ctxOf k).stream j).wants).map (execPatternTokenFetch k) else []) ++
    (match p.st with
      | .unplaced => [if p.saved.isSome then execHubRestore k else execPlaceProcess k]
      | .unplacedBlocked => [execUnplacedWake k]
      | .swapped => [execUnplacedWake k]
      | .saving => [execSaveSequence k]
      | _ => [])

def chanMoves (n ch : Nat) (c : Chan) : List Move :=
  (if c.flight.isEmpty then [] else [if c.span.isSome then runTurn (.spanToken n ch) else execTokenArrival n ch]) ++
  (if c.returns = 0 then [] else [if c.span.isSome then runTurn (.spanReturn n ch) else execSlotReturn n ch]) ++
  (if c.rebind then [execChannelRebind n ch] else [])

def netMoves (s : State) (n : Nat) : List Move := match s.toMach.net n with
  | none => []
  | some x =>
    if !x.live then (if x.spill.isEmpty then [] else [execRowClearComplete (.spill x.nid)]) ++
      (if x.told.opened && !x.told.final then [runTurn (.spanControl n)] else [])
    else
      (if x.started then [] else [if x.resumed then execSnapshotRebuild n else execLaunchStart n]) ++
      (List.range x.chans.length).flatMap (fun ch => (x.chans[ch]?).elim [] (chanMoves n ch)) ++
      (x.bars.flatMap fun b => (if b.flight.isEmpty then [] else [execBarrierArrival n b.id]) ++
        (if b.due then [execSstepGenerationComplete n b.id] else [])) ++
      ((List.range x.pools.length).filter fun i => (x.pools[i]?).elim false fun p => s.toMach.mayClose x p).map (execLapClose n) ++
      (if x.faultQ.isEmpty then [] else [execFaultRecordDelivery n]) ++
      (if x.guest || s.toMach.hasAway x then [runTurn (.spanControl n)] else []) ++
      (if x.cut.isSome then [execCutComplete n] else []) ++
      (if x.sweep = .idle then (if s.toMach.sweepable x && !x.dead then [execSweepFirstPass n] else []) else [execSweepSecondPass n])

def reqMove (r : Req) : Move :=
  if r.host then execHostBridgeCompletion r.key
  else match r.stage with
    | .issued => execGatewayForward r.key
    | .gateway => execServerAccept r.key
    | .accepted => execServerPerform r.key .clean
    | .merging => execRmwMergeComplete r.key
    | .answered => execPacketReplyArrival r.key

def residMoves (i : Nat) (r : Resid) : List Move :=
  (if r.state = .loading then [execResidencyFillComplete i, execResidencyFillFault i] else []) ++
  (if r.reload then [execResidencyReloadComplete i] else [])

def tileMoves (t : Tile) : List Move :=
  if t.arb.idle then [] else [execLaneGroupBind t.id, execArrayGrant t.id]

def entryMoves (e : Entry) : List Move :=
  if e.live then execEntryFinal e.tenant e.level e.index :: (if e.cancel then [execCancelPropagate e.tenant e.level e.index] else [])
  else []

def moves (s : State) : List Move :=
  (List.range s.procs.length).flatMap (procMoves s) ++
  (List.range s.nets.length).flatMap (netMoves s) ++
  s.reqs.map reqMove ++
  s.tileReqs.map (fun r => execRemoteTileAccess r.key) ++
  s.nears.map (fun n => if n.reply.isSome then execNearBankReply n.key else execNearBankRequest n.key) ++
  s.copies.map (fun c => execCopyElement c.key) ++
  (List.range s.resids.length).flatMap (fun i => (s.resids[i]?).elim [] (residMoves i)) ++
  s.tiles.flatMap tileMoves ++
  ((List.range 12).filter fun l => !(s.link l).bulkOut.isEmpty).map (fun l => runTurn (.spanBulk l)) ++
  s.entries.flatMap entryMoves ++
  s.tenants.flatMap fun t => execNetworkDispatch t.id :: (if t.switch.isSome then [execRangeTableSwitch t.id] else [])

/-- A step that changes nothing else still lets the tick go on. -/
def tocked (before : Nat) : Host.Outcome State Fault Refusal → Host.Outcome State Fault Refusal
  | .next s => .next (if s.tick = before then withMach s s.toMach.tock else s)
  | o => o

def autoTurn (s : State) : Host.Outcome State Fault Refusal :=
  let l := moves s
  match l[s.tick % l.length]? with
  | some f => tocked s.tick (f s)
  | none => .next (withMach s s.toMach.tock)

/-! A given instruction as the next one fetched. -/

/-- The process, the network and the job of a machine that was only started: one tenant-level process on tile (0, 0). -/
def loneDecl : ProcDecl :=
  { entry := 0, tenant := true, sup := false, pinned := true, allow := 0, share := 8
    win := [BitVec.ofNat 64 (5 * 2 ^ 48 + 64 * 2 ^ 24), 0, 0, 0], args := [0, 0, 0, 0, 0, 0, 0, 0]
    hkind := 0, hint := 0, lx := 0, ly := 0, lc := 0, seg := 0, segLen := [64, 0, 0] }

def loneImage : Image :=
  { handle := 1, tenant := 1, procs := [loneDecl], chans := [], pools := [], bars := [], resids := [], digests := [], figs := []
    lap := 0, rtblk := 64, spill := 0, cost := 1, segs := [[]] }

def Mach.lone (s : Mach) : Mach :=
  { s with
    tenants := [{ id := 1, tiles := [0], launches := [(0, 1)] }]
    images := [loneImage]
    nets := [{ nid := 0, index := 0, tenant := 1, image := 1, queue := 65536, graph := 0, started := true, procs := [0], chans := [], pools := [], bars := []
               lap := 0, grow := 0 }]
    entries := [{ tenant := 1, level := 0, index := 0, parent := 0, queue := 65536, members := 1, left := 1 }]
    procs := [{ net := 0, index := 0, decl := loneDecl, st := .running, started := true }]
    cur := some 0
    ctx := { s.ctx with
      pc := 0, far := none, win := Vector.ofFn fun (i : Fin 4) => loneDecl.win[i.val]?.getD 0
      lvl := 1, place := some { x := 0, y := 0, ctx := 0 } } }

/-- R112: the five halfwords of an instruction at the pc of the selected process, and the buffer read again. -/
def Mach.placeWords (s : Mach) (ws : List Half) : Mach :=
  let pc := s.ctx.pc.toNat
  let s := (List.range ws.length).foldl (fun m i =>
    m.putNat (Key.tile m.here ((pc + 2 * i) % 2 ^ 24)) 2 ((ws[i]?.getD 0).toNat)) s
  { s with bad := s.bad.filter fun u => u + 8 ≤ Key.tile s.here pc || Key.tile s.here pc + 2 * ws.length ≤ u }.refetch

/-- A process that can run has its next chain in a window; a machine without one gets the lone process. -/
def readyToFetch (s : State) : State × Nat := match s.cur with
  | some k =>
    let c := s.ctx
    if s.mayRun k && c.far.isNone && c.pc.toNat + 10 ≤ Config.localBytes &&
        (List.range 5).all fun i => c.ownWindow (c.pc.toNat + 2 * i) 2 false false true then (s, k)
    else (withMach s s.toMach.lone, 0)
  | none => (withMach s s.toMach.lone, 0)

def placeNext (s : State) (ws : List Half) : State :=
  let (s, k) := readyToFetch s
  { s with toMach := s.toMach.placeWords ws, turns := [.proc k] }

end Sys2Proof.Machine
end

