-- ==== Sys2Proof/Machine/Step.lean ====
section
/-! DEFINITION. One step: the next turn that the schedule in the state names, or the model's own choice where it names none;
and the state in which a given instruction is the next one fetched. -/

namespace Sys2Proof.Machine

/-- DESIGN CHOICE: log entry 2. -/
def step (s : State) : Host.Outcome State Fault Refusal := match s.turns with
  | [] => autoTurn s
  | t :: r => runTurn t { s with turns := r }

/-- The instruction whose bits are `w`, as the opcode table numbers them, at the pc of the process whose turn is next. DESIGN CHOICE: log entry 6. -/
def State.withFetchWord (s : State) (nbits w : Nat) : State := placeNext s (tableWords nbits w)

end Sys2Proof.Machine
end

