-- ==== Sys2Proof/Safety.lean ====
section
/-! DEFINITION. The terms that claims are stated in: a safe run, what a chain that retires leaves as it was, and the states
in which the operands of an instruction can be read. -/

namespace Sys2Proof

/-- The state after k steps, when each of them answers a next state. -/
def runs : Nat → Machine.State → Option Machine.State
  | 0, s => some s
  | k + 1, s => match Machine.step s with
    | .next t => runs k t
    | _ => none

/-- No step of the first k stops. -/
def Safe (k : Nat) (s : Machine.State) : Prop := ∃ t, runs k s = some t

namespace Machine

/-- The record of a process or network without what every retirement writes there (R298, R301): state and wait, activity. -/
def Proc.calm (p : Proc) : Proc := { p with st := .running, wait := none }
def Net.calm (x : Net) : Net := { x with active := true, dead := false }

/-- Processes and networks are those of `m`, but for what a retirement writes there. -/
structure CalmAs (t m : Mach) : Prop where
  procs : t.procs.map Proc.calm = m.procs.map Proc.calm
  nets  : t.nets.map Net.calm = m.nets.map Net.calm

/-- State `t` is state `s` after a chain that retired: the machine is `m`, which says the chain's own effect, but for the pc, the
address beyond it (R54),
the fetch buffer, what R22 counts, the note of what a waiting chain has issued, the record of the running process and its
network, and the tick. Nothing of the host port and of the schedule changes. -/
structure Ran (s t : State) (m : Mach) (pc : BitVec 24) (far : Option Word) : Prop where
  outside : t.port = s.port ∧ t.turns = s.turns
  ctx     : t.ctx = { m.ctx with
              pc := pc, far := far, retired := m.ctx.retired + 1, fbuf := t.ctx.fbuf, cycle := t.ctx.cycle, lapPos := t.ctx.lapPos, issued := {} }
  rest    : t.toMach = { m with ctx := t.ctx, procs := t.procs, nets := t.nets, tick := t.tick }
  calm    : CalmAs t.toMach m

/-- The instruction answers a next state in which it has retired with the effect `m`, and the next chain follows it (R54). -/
def Retires (i : Instr) (len : Nat) (s : State) (m : Mach) : Prop :=
  ∃ t, exec i s = .next t ∧ Ran s t m (s.ctx.pc + BitVec.ofNat 24 (2 * len)) s.ctx.far

/-- The instruction answers a next state in which it has retired with the effect `m`, and execution goes on at the
address `a`, which faults at its fetch where the pc cannot hold it (R54). -/
def JumpsTo (i : Instr) (s : State) (m : Mach) (a : Nat) : Prop :=
  ∃ t, exec i s = .next t ∧ Ran s t m (m.ctx.goto a).pc (m.ctx.goto a).far

/-- The instruction answers the state in which the trap has been taken, whatever it is: the chain has no other effect. -/
def Traps (i : Instr) (len : Nat) (s : State) (x : Trap) : Prop :=
  exec i s = .next { s with toMach := s.toMach.takeTrap len x }

/-- The instruction answers the state in which its chain waits, with nothing else done. -/
def Waits (i : Instr) (s : State) (w : Wait) : Prop := exec i s = .next { s with toMach := s.toMach.block w }

/-- Nothing of the process is on its way: no request to a server or the host, no store to another tile, no error held. -/
structure Settled (s : Mach) : Prop where
  reqs   : s.reqs = []
  stores : s.tileReqs = []
  held   : s.ctx.mq1Err = none
  tags0  : ∀ t, t < 8 → (s.ctx.mq0.tag t).kind ≠ .held
  tags1  : ∀ t, t < 8 → (s.ctx.mq1.tag t).kind ≠ .held

/-- Registers as vector and predicate instructions meet them in the ordinary case: no register in stream mode, no poison,
no trap enabled for a floating-point exception, stochastic rounding not in force. -/
structure Plain (s : Mach) : Prop where
  streams : ∀ j, (s.ctx.stream j).on = false
  vBad    : ∀ r : Nat, s.ctx.vBad[r]?.getD 0 = 0
  pBad    : ∀ r : Nat, s.ctx.pBad[r]?.getD 0 = 0
  traps   : s.ctx.fptrap = 0
  rounds  : s.ctx.rm ≠ 5

end Machine

end Sys2Proof
end

