-- ==== Sys2Proof/WellFormed.lean ====
section
/-! DEFINITION. Well-formed instructions: a chain that passes every check that the decoder makes (R42 to R50), and the bounds
of the operands of an agent's or the host's step. -/

namespace Sys2Proof

/-- R45: at most four words before the base word. -/
def Chain.wf (c : Chain) : Bool :=
  c.poOk && c.body.pre.count ≤ 4 && (c.bad 0).isNone && c.op < 31

/-- Bounds of the operands of an agent's step: channel, barrier, tile, server, link and die numbers (R64, R2, R310). -/
def Instr.eventWf : Instr → Bool
  | .tokenArrival _ ch => ch < 262144
  | .slotReturn _ ch => ch < 262144
  | .channelRebind _ ch => ch < 262144
  | .barrierArrival _ n => n < 64
  | .sstepGenerationComplete _ n => n < 64
  | .lapClose _ pool => pool < 256
  | .patternTokenFetch _ n => n < 8
  | .laneGroupBind tile => tile < 2048
  | .arrayGrant tile => tile < 2048
  | .tileZeroingComplete tile => tile < 2048
  | .setAgeCap _ server cap => server < 3072 && 64 ≤ cap && cap ≤ 65535
  | .setHostPathTimeout _ ns => 10000 ≤ ns && ns ≤ 100000000
  | .entryFinal _ level index => level < 4 && index < 65536
  | .cancelPropagate _ level index => level < 4 && index < 65536
  | .spanFlitReceive link _ _ => link < 12
  | .spanNegativeAcknowledgement link _ => link < 12
  | .spanAcknowledgement link _ => link < 12
  | .repairRequest link lane => link < 12 && lane < 9
  | .repairGrant link _ => link < 12
  | .laneMapSwitch link => link < 12
  | .linkRetrain link _ => link < 12
  | .linkDown link => link < 12
  | .laneLossOfLock link lane => link < 12 && lane < 9
  | .ageingReplan die _ => die < 8
  | .clockRelock die => die < 8
  | .setSqpUdpPort _ port => port < 65536
  | _ => true

/-- A well-formed instruction: every check of R42 to R50 passes, and an agent's operands are in range. -/
def Instr.wf (i : Instr) : Bool :=
  match i.chain with
  | some c => c.wf
  | none => i.eventWf

abbrev WellFormed (i : Instr) : Prop := i.wf = true

end Sys2Proof
end

