-- ==== Sys2Proof/Certificates/Slice0/Obligations.lean ====
section
/-! DEFINITION. The statements for the provers. Each is about every state and every operand that meets its hypotheses; the
docstring names the rules of the manual it formalises. -/

namespace Sys2Proof.Claim

open Sys2Proof.Machine

/-! Relations that the rules give between operands and results. -/

/-- R93: the table of the majors 0x01, 0x02 and 0x06, x and y to the result r. -/
def AluRule (i : Instr) (x y r : Word) : Prop := match i with
  | .add _ => r.toNat = (x.toNat + y.toNat) % 2 ^ 64
  | .sub _ => (r.toNat + y.toNat) % 2 ^ 64 = x.toNat
  | .and _ => ∀ k, r.getLsbD k = (x.getLsbD k && y.getLsbD k)
  | .or _ => ∀ k, r.getLsbD k = (x.getLsbD k || y.getLsbD k)
  | .xor _ => ∀ k, r.getLsbD k = (x.getLsbD k != y.getLsbD k)
  | .sll _ => r.toNat = x.toNat * 2 ^ (y.toNat % 64) % 2 ^ 64
  | .srl _ => r.toNat = x.toNat / 2 ^ (y.toNat % 64)
  | .sra _ => r.toInt = x.toInt / 2 ^ (y.toNat % 64)
  | .mul _ => r.toNat = x.toNat * y.toNat % 2 ^ 64
  | .mulh _ => r.toInt = x.toInt * y.toInt / 2 ^ 64
  | .mulhu _ => r.toNat = x.toNat * y.toNat / 2 ^ 64
  | .mulhsu _ => r.toInt = x.toInt * y.toNat / 2 ^ 64
  | .seq _ => r.toNat = if x = y then 1 else 0
  | .sne _ => r.toNat = if x = y then 0 else 1
  | .slt _ => r.toNat = if x.toInt < y.toInt then 1 else 0
  | .sltu _ => r.toNat = if x.toNat < y.toNat then 1 else 0
  | .sge _ => r.toNat = if x.toInt < y.toInt then 0 else 1
  | .sgeu _ => r.toNat = if x.toNat < y.toNat then 0 else 1
  | .min _ => r.toInt = min x.toInt y.toInt
  | .max _ => r.toInt = max x.toInt y.toInt
  | _ => False

/-- R94: quotients and remainders. -/
def DivRule (i : Instr) (x y r : Word) : Prop := match i with
  | .div _ => if y = 0 then r = BitVec.allOnes 64
      else if y.toInt = -1 ∧ x.toInt = -2 ^ 63 then r.toInt = -2 ^ 63
      else r.toInt = x.toInt.tdiv y.toInt
  | .divu _ => if y = 0 then r = BitVec.allOnes 64 else r.toNat = x.toNat / y.toNat
  | .rem _ => if y = 0 then r = x
      else if y.toInt = -1 ∧ x.toInt = -2 ^ 63 then r = 0
      else r.toInt = x.toInt.tmod y.toInt
  | .remu _ => if y = 0 then r = x else r.toNat = x.toNat % y.toNat
  | _ => False

/-- R95: the one-operand results. -/
def UnaryRule (i : Instr) (x r : Word) : Prop := match i with
  | .clz _ => if x = 0 then r.toNat = 64 else r.toNat < 64 ∧ 2 ^ (63 - r.toNat) ≤ x.toNat ∧ x.toNat < 2 ^ (64 - r.toNat)
  | .ctz _ => if x = 0 then r.toNat = 64 else r.toNat < 64 ∧ x.getLsbD r.toNat = true ∧ ∀ k, k < r.toNat → x.getLsbD k = false
  | .popc _ => r.toNat = ((List.range 64).filter fun k => x.getLsbD k).length
  | .sextw _ => r.toInt = (x.toNat : Int).bmod (2 ^ 32)
  | .zextw _ => r.toNat = x.toNat % 2 ^ 32
  | _ => False

/-- R95: shifts by an immediate count. -/
def ShiftRule (i : Instr) (x r : Word) (n : Nat) : Prop := match i with
  | .slli _ => r.toNat = x.toNat * 2 ^ n % 2 ^ 64
  | .srli _ => r.toNat = x.toNat / 2 ^ n
  | .srai _ => r.toInt = x.toInt / 2 ^ n
  | _ => False

/-- R96: the immediate instructions. -/
def ImmRule (i : Instr) (x r : Word) (imm : Int) : Prop := match i with
  | .addi _ => (r.toNat : Int) = (x.toNat + imm) % 2 ^ 64
  | .movi _ => (r.toNat : Int) = imm % 2 ^ 64
  | .andi _ => ∀ k, r.getLsbD k = (x.getLsbD k && (BitVec.ofInt 64 imm).getLsbD k)
  | _ => False

/-- R86: the two sources of a 2/3 instruction. -/
def srcX (s : State) (x : F2) : Word := s.toMach.g (if x.w then x.aN else x.dN)
def srcY (s : State) (x : F2) : Word := s.toMach.g (if x.w then x.eN else x.aN)

/-- R98: the effective address of an F2 instruction. -/
def addrOf (s : State) (x : F2) : Word := BitVec.ofInt 64 ((s.toMach.g x.aN).toNat + x.s)

/-- R36: a local address names the tile of the process itself. -/
def LocalAddr (a : Word) : Prop := a.toNat < 2 ^ 24

/-- R31, R38: one of the context's own windows covers n bytes at an offset and grants the access. -/
def OwnWindow (s : State) (off n : Nat) (rd wr : Bool) : Prop :=
  ∃ w ∈ s.ctx.win.toList, bitsAt w.toNat 0 24 ≤ off ∧ off + n ≤ bitsAt w.toNat 24 24 ∧
    (rd = true → w.getLsbD 48 = true) ∧ (wr = true → w.getLsbD 49 = true)

/-- The location of a byte of the running process's own tile. -/
def ownKey (s : State) (a : Word) : Nat := Key.tile s.here a.toNat

/-- R99: an access of n bytes of the process's own tile that meets no trap. -/
structure Reaches (s : State) (a : Word) (n : Nat) (rd wr : Bool) : Prop where
  here    : LocalAddr a
  aligned : a.toNat % n = 0
  inside  : a.toNat + n ≤ 0x180000
  granted : OwnWindow s a.toNat n rd wr
  clean   : ∀ j, j < n → unitOf (ownKey s a + j) ∉ s.bad

/-- R100: what a load of n bytes makes of them. -/
def LoadRule (i : Instr) (v : Nat) (r : Word) : Prop := match i with
  | .lb _ => r.toInt = (v : Int).bmod (2 ^ 8)
  | .lbu _ => r.toNat = v
  | .lh _ => r.toInt = (v : Int).bmod (2 ^ 16)
  | .lhu _ => r.toNat = v
  | .lw _ => r.toInt = (v : Int).bmod (2 ^ 32)
  | .lwu _ => r.toNat = v
  | .ld _ => r.toNat = v
  | _ => False

def loads : List ((F2 → Instr) × Nat) :=
  [(.lb, 1), (.lbu, 1), (.lh, 2), (.lhu, 2), (.lw, 4), (.lwu, 4), (.ld, 8)]
def stores : List ((F2 → Instr) × Nat) := [(.sb, 1), (.sh, 2), (.sw, 4), (.sd, 8)]

/-- R101: the value an atomic writes for the old value and its operand, none where it writes nothing. -/
def AtomicRule (i : Instr) (old v d : Word) (new : Option Word) : Prop := match i with
  | .amoadd _ => ∃ w : Word, new = some w ∧ w.toNat = (old.toNat + v.toNat) % 2 ^ 64
  | .amoswap _ => new = some v
  | .amomax _ => ∃ w : Word, new = some w ∧ w.toInt = max old.toInt v.toInt
  | .amocas _ => new = if old = d then some v else none
  | _ => False

/-- R54, R102: a branch target, B + 2 × off as an address of 64 bits. -/
def branchPc (s : State) (len : Nat) (off : Int) : Nat := ((s.ctx.pc.toNat + 2 * (len - 1 : Nat) + 2 * off : Int) % 2 ^ 64).toNat

/-- The chain that follows in sequence. -/
def nextPc (s : State) (len : Nat) : BitVec 24 := s.ctx.pc + BitVec.ofNat 24 (2 * len)

/-- Execution goes on at `t` if the branch is taken, in sequence otherwise, with the effect `m`. -/
def BranchesIf (i : Instr) (len : Nat) (s : State) (m : Mach) (taken : Prop) (t : Nat) : Prop :=
  (taken → JumpsTo i s m t) ∧ (¬ taken → Retires i len s m)

end Sys2Proof.Claim

open Sys2Proof Sys2Proof.Machine Sys2Proof.Claim

/-! Encoding and the step. -/

/-- R41 to R50, R55 to R57: every well-formed chain instruction, encoded, decodes to itself with every operand, whatever
words follow it. -/
def Obligations.DecodeEncode : Prop :=
  ∀ (i : Instr) (ws rest : List Half), WellFormed i → encode i = some ws → decodeWords (ws ++ rest) = .ok i ws.length

/-- R50: each word has one meaning: what decodes is well formed, and its encoding is the words that were read. -/
def Obligations.EncodeDecode : Prop :=
  ∀ (i : Instr) (ws : List Half) (n : Nat), decodeWords ws = .ok i n → WellFormed i ∧ encode i = some (ws.take n)

/-- R41, R44, R46, R55: words written out from the tables: `nop`; `add g3, g5`; `addi g4, -3`; `beqz g2` to offset 5; `j` to
offset -1; `vadd v1, v2, v3` under PR; `ld g2` with S = 16 from a PX word; `mxoff` on page 2. -/
def Obligations.DecodeWords : Prop :=
  decodeWords [0x0000] = .ok (.nop ⟨Pre.none, 0, 0⟩) 1 ∧
  decodeWords [0x09A8] = .ok (.add ⟨Pre.none, 3, 5⟩) 1 ∧
  decodeWords [0x1A7D] = .ok (.addi ⟨Pre.none, 4, 0x7D⟩) 1 ∧
  decodeWords [0x5105] = .ok (.beqz ⟨Pre.none, 2, 5⟩) 1 ∧
  decodeWords [0x67FF] = .ok (.j ⟨Pre.none, 0x7FF⟩) 1 ∧
  decodeWords [0xFC19, 0x9890] =
    .ok (.vadd ⟨{ Pre.none with pr := some { e := 3, dh := false, ah := false, w := true } }, 1, 2⟩) 2 ∧
  decodeWords [0xF810, 0x411E] = .ok (.ld ⟨{ Pre.none with px := [16] }, 2, 3⟩) 2 ∧
  decodeWords [0xFD20, 0x0001] = .ok (.mxoff ⟨{ Pre.none with po := some 0 }, 0, 0⟩) 2

/-- R53, R50, R112: when the schedule names process k, which may run, and the words in its fetch buffer lie in a window of
its own with x, hold no poison and decode to the instruction i, a step is `exec` of i, with k selected and its turn used up. It is
the model's reading that its vector stores to its own tile are performed before each chain (`ownStores`, log entry 94), and that the
step leaves all else as it is where the tile's vector queue (R261) has no room for i (log entry 93). Rests on log entries 20, 21, 93 and 94. -/
def Obligations.StepRunsDecoded : Prop :=
  ∀ (s : State) (k : Nat) (r : List Turn) (i : Instr) (ws : List Half) (more : List (Half × Bool)),
    s.turns = .proc k :: r → s.mayRun k = true → decodeWords ws = .ok i ws.length →
    (s.toMach.select k).ctx.fbuf = ws.map (fun w => (w, false)) ++ more → (s.toMach.select k).ctx.far = none →
    (∀ j, j < ws.length → ((s.toMach.select k).ctx.pc.toNat + 2 * j) % 2 ^ 24 + 2 ≤ 0x180000 ∧
      ∃ w ∈ (s.toMach.select k).ctx.win.toList, bitsAt w.toNat 0 24 ≤ ((s.toMach.select k).ctx.pc.toNat + 2 * j) % 2 ^ 24 ∧
        ((s.toMach.select k).ctx.pc.toNat + 2 * j) % 2 ^ 24 + 2 ≤ bitsAt w.toNat 24 24 ∧ w.getLsbD 50 = true) →
    let s' : State := { s with turns := r, toMach := (s.toMach.select k).ownStores }
    (s'.toMach.stalls i = false → Sys2Proof.Machine.step s = exec i s') ∧
    (s'.toMach.stalls i = true → Sys2Proof.Machine.step s = .next s')

/-! Scalar instructions. -/

/-- R16: g0 reads as zero and discards writes; any other register holds what is written, and no other register changes. -/
def Obligations.GeneralRegisters : Prop :=
  ∀ (m : Mach) (n k : Nat) (w : Word), n < 32 → k < 32 →
    (m.setG n w).g k = (if k = 0 then 0 else if k = n then w else m.g k) ∧ (m.setG 0 w) = m

/-- R93, R86: the instructions of majors 0x01, 0x02 (products) and 0x06, in both forms, for every destination: g(d) takes the
result and nothing else changes. -/
def Obligations.ScalarResults : Prop :=
  ∀ c ∈ [Instr.add, .sub, .and, .or, .xor, .sll, .srl, .sra, .mul, .mulh, .mulhu, .mulhsu,
      .seq, .sne, .slt, .sltu, .sge, .sgeu, .min, .max],
    ∀ (x : F2) (s : State), ∃ r, AluRule (c x) (srcX s x) (srcY s x) r ∧ Retires (c x) x.len s (s.toMach.setG x.dN r)

/-- R94: division never traps; the two cases without a quotient are settled as the table says, and q × y + r = x modulo 2^64
in every case. -/
def Obligations.Division : Prop :=
  (∀ c ∈ [Instr.div, .divu, .rem, .remu], ∀ (x : F2) (s : State),
    ∃ r, DivRule (c x) (srcX s x) (srcY s x) r ∧ Retires (c x) x.len s (s.toMach.setG x.dN r)) ∧
  ∀ c ∈ [(Instr.div, Instr.rem), (.divu, .remu)], ∀ (x : F2) (s : State), ∃ q r,
    Retires (c.1 x) x.len s (s.toMach.setG x.dN q) ∧ Retires (c.2 x) x.len s (s.toMach.setG x.dN r) ∧ q * srcY s x + r = srcX s x

/-- R95, R96, R98: one-operand, shift, immediate instructions and `lea`; a shift count above 63 is illegal. -/
def Obligations.ScalarImmediate : Prop :=
  (∀ c ∈ [Instr.clz, .ctz, .popc, .sextw, .zextw], ∀ (x : F2) (s : State),
    ∃ r, UnaryRule (c x) (s.toMach.g x.aN) r ∧ Retires (c x) x.len s (s.toMach.setG x.dN r)) ∧
  (∀ c ∈ [Instr.slli, .srli, .srai], ∀ (x : F2) (s : State),
    (x.aImm ≤ 63 → ∃ r, ShiftRule (c x) (s.toMach.g x.dN) r x.aImm ∧ Retires (c x) x.len s (s.toMach.setG x.dN r)) ∧
    (63 < x.aImm → Traps (c x) x.len s { cause := 0x01, reason := 0x0C, value := BitVec.ofNat 64 x.aImm })) ∧
  (∀ c ∈ [Instr.addi, .movi, .andi], ∀ (x : FI) (s : State),
    ∃ r, ImmRule (c x) (s.toMach.g x.dN) r x.immV ∧ Retires (c x) x.len s (s.toMach.setG x.dN r)) ∧
  (∀ (x : F2) (s : State), Retires (.lea x) x.len s (s.toMach.setG x.dN (addrOf s x)))

/-- R36, R38, R99, R100: a load from the process's own tile that a window grants writes the n bytes at EA, extended, to g(d),
and every byte of memory stays as it was. -/
def Sys2Proof.Claim.LoadsOwnTile : Prop :=
  ∀ c ∈ loads, ∀ (x : F2) (s : State), Reaches s (addrOf s x) c.2 true false →
    ∃ r, LoadRule (c.1 x) (Mem.nat s.mem (ownKey s (addrOf s x)) c.2) r ∧ Retires (c.1 x) x.len s (s.toMach.setG x.dN r)

/-- R36, R38, R99, R100, R11: a store to the process's own tile that a window grants: the n bytes at EA are the low bytes of
g(d), every other byte of memory reads as before, and nothing else changes. It is the model's reading that the stores that the process
has sent to other tiles before are performed first (log entry 94). -/
def Sys2Proof.Claim.StoresOwnTile : Prop :=
  ∀ c ∈ stores, ∀ (x : F2) (s : State), Reaches s (addrOf s x) c.2 false true → Memory.wf s.mem = true →
    let d := s.toMach.drainTiles s.toMach.self none
    ∃ m, Retires (c.1 x) x.len s { d with mem := m } ∧ Memory.wf m = true ∧
      ∀ a, Mem.get m a = if ownKey s (addrOf s x) ≤ a ∧ a < ownKey s (addrOf s x) + c.2
        then BitVec.ofNat 8 ((s.toMach.g x.dN).toNat / 256 ^ (a - ownKey s (addrOf s x))) else Mem.get d.mem a

/-- R97, R101: an atomic on the process's own tile: g(d) takes the old value, the eight bytes the new one where there is one,
every other byte reads as before. It is the model's reading that every earlier access of the process is performed first (`release`, log
entry 94). -/
def Sys2Proof.Claim.AtomicsOwnTile : Prop :=
  ∀ c ∈ [Instr.amoadd, .amoswap, .amomax, .amocas], ∀ (x : F2) (s : State) (d : Mach),
    Reaches s (addrOf s x) 8 true true → s.toMach.release = .ok d → Memory.wf d.mem = true →
    unitOf (ownKey s (addrOf s x)) ∉ d.bad →
    ∃ (old : Word) (new : Option Word) (m : Memory),
      old.toNat = Mem.nat d.mem (ownKey s (addrOf s x)) 8 ∧
      AtomicRule (c x) old (if x.w then s.toMach.g x.eN else 0) (s.toMach.g x.dN) new ∧
      Retires (c x) x.len s ({ d with mem := m }.setG x.dN old) ∧ Memory.wf m = true ∧
      ∀ a, Mem.get m a = match new with
        | some w => if ownKey s (addrOf s x) ≤ a ∧ a < ownKey s (addrOf s x) + 8
            then BitVec.ofNat 8 (w.toNat / 256 ^ (a - ownKey s (addrOf s x))) else Mem.get d.mem a
        | none => Mem.get d.mem a

/-- R36: the tile and the offset that a tile-absolute or tile-relative address names. -/
def Sys2Proof.Claim.TileNamed (s : State) (a : Word) (t off : Nat) : Prop :=
  off = a.toNat % 2 ^ 24 ∧ a.toNat / 2 ^ 37 % 2 ^ 25 = 0 ∧ ∃ x y : Nat, x < 64 ∧ y < 32 ∧ t = 64 * y + x ∧
    match a.toNat / 2 ^ 62 with
    | 1 => x = a.toNat / 2 ^ 30 % 2 ^ 7 ∧ y = a.toNat / 2 ^ 24 % 2 ^ 6
    | 2 => (x : Int) = (s.here % 64 : Nat) + ((a.toNat / 2 ^ 30 % 2 ^ 7 : Nat) : Int).bmod (2 ^ 7) ∧
        (y : Int) = (s.here / 64 : Nat) + ((a.toNat / 2 ^ 24 % 2 ^ 6 : Nat) : Int).bmod (2 ^ 6)
    | _ => False

/-- R38: an exported window of the process's own network, on tile t, covers n bytes at an offset and grants the access, and no private
window of another context of t shares a byte with them. -/
def Sys2Proof.Claim.ExportedWindow (s : State) (t off n : Nat) (rd wr : Bool) : Prop :=
  let placed (k : Nat) := k < s.procs.length ∧ s.toMach.isPlaced k = true ∧ (s.toMach.ctxOf k).tile = t
  ∃ k p net, placed k ∧ s.procs[k]? = some p ∧ s.toMach.curNetNo = some net ∧ p.net = net ∧
    (∃ w ∈ (s.toMach.ctxOf k).win.toList, w.getLsbD 51 = true ∧ bitsAt w.toNat 0 24 ≤ off ∧ off + n ≤ bitsAt w.toNat 24 24 ∧
      (rd = true → w.getLsbD 48 = true) ∧ (wr = true → w.getLsbD 49 = true)) ∧
    ∀ j, placed j → j ≠ k → ∀ w ∈ [(s.toMach.ctxOf j).win[1], (s.toMach.ctxOf j).win[3]],
      ∀ a, bitsAt w.toNat 0 24 ≤ a → a < bitsAt w.toNat 24 24 → a < off ∨ off + n ≤ a

/-- R36, R38, R99: an access of n bytes at a tile-absolute or tile-relative address that names offset `off` of tile t and meets no trap. -/
structure Sys2Proof.Claim.ReachesTile (s : State) (a : Word) (t off n : Nat) (rd wr : Bool) : Prop where
  named   : TileNamed s a t off
  aligned : off % n = 0
  inside  : off + n ≤ 0x180000
  granted : (t = s.here ∧ OwnWindow s off n rd wr) ∨ ExportedWindow s t off n rd wr
  clean   : ∀ j, j < n → unitOf (Key.tile t off + j) ∉ s.bad

/-- R36, R38, R99, R100: a load at a tile-absolute or tile-relative address: the n bytes at the tile that it names, extended, in g(d). It
is the model's reading that the process's own earlier stores to another tile are performed first (log entry 94). -/
def Sys2Proof.Claim.LoadsElsewhere : Prop :=
  ∀ c ∈ loads, ∀ (x : F2) (s : State) (t off : Nat),
    let d := if t = s.here then s.toMach else s.toMach.drainTiles s.toMach.self (some t)
    ReachesTile s (addrOf s x) t off c.2 true false → (∀ j, j < c.2 → unitOf (Key.tile t off + j) ∉ d.bad) →
    ∃ r, LoadRule (c.1 x) (Mem.nat d.mem (Key.tile t off) c.2) r ∧ Retires (c.1 x) x.len s (d.setG x.dN r)

/-- R36, R38, R99, R100, R270: a store at a tile-absolute or tile-relative address: the low bytes of g(d) go to that tile as a store on
its way; where the address names the own tile, its bytes are stored at once, as at a local address. -/
def Sys2Proof.Claim.StoresElsewhere : Prop :=
  ∀ c ∈ stores, ∀ (x : F2) (s : State) (t off : Nat), ReachesTile s (addrOf s x) t off c.2 false true →
    (t ≠ s.here → ∃ bs : List Byte, bs.length = c.2 ∧
      (∀ j, j < c.2 → bs[j]? = some (BitVec.ofNat 8 ((s.toMach.g x.dN).toNat / 256 ^ j))) ∧
      Retires (c.1 x) x.len s { s.toMach with
        fresh := s.fresh + 1
        tileReqs := s.tileReqs ++ [{ key := s.fresh, proc := s.toMach.self, loc := Key.tile t off, bytes := bs, group := s.fresh }] }) ∧
    (t = s.here → Memory.wf s.mem = true →
      let d := s.toMach.drainTiles s.toMach.self none
      ∃ m, Retires (c.1 x) x.len s { d with mem := m } ∧ Memory.wf m = true ∧
        ∀ a, Mem.get m a = if Key.tile t off ≤ a ∧ a < Key.tile t off + c.2
          then BitVec.ofNat 8 ((s.toMach.g x.dN).toNat / 256 ^ (a - Key.tile t off)) else Mem.get d.mem a)

/-- R36, R38, R97, R101: an atomic at a tile-absolute or tile-relative address, on the tile that it names, as on the own tile (log entry
94 likewise). -/
def Sys2Proof.Claim.AtomicsElsewhere : Prop :=
  ∀ c ∈ [Instr.amoadd, .amoswap, .amomax, .amocas], ∀ (x : F2) (s : State) (t off : Nat) (e : Mach),
    let d := if t = s.here then e else e.drainTiles e.self (some t)
    ReachesTile s (addrOf s x) t off 8 true true → s.toMach.release = .ok e → Memory.wf d.mem = true →
    (∀ j, j < 8 → unitOf (Key.tile t off + j) ∉ d.bad) →
    ∃ (old : Word) (new : Option Word) (m : Memory),
      old.toNat = Mem.nat d.mem (Key.tile t off) 8 ∧
      AtomicRule (c x) old (if x.w then s.toMach.g x.eN else 0) (s.toMach.g x.dN) new ∧
      Retires (c x) x.len s ({ d with mem := m }.setG x.dN old) ∧ Memory.wf m = true ∧
      ∀ a, Mem.get m a = match new with
        | some w => if Key.tile t off ≤ a ∧ a < Key.tile t off + 8
            then BitVec.ofNat 8 (w.toNat / 256 ^ (a - Key.tile t off)) else Mem.get d.mem a
        | none => Mem.get d.mem a

/-- R36, R38, R99: where a load, store or atomic at a tile-absolute or tile-relative address traps: misaligned; a reserved bit; a tile
outside the mesh; beyond the local memory; no window grants. -/
def Sys2Proof.Claim.ElsewhereTraps : Prop :=
  ∀ c ∈ loads ++ stores ++ [(Instr.amoadd, 8), (.amoswap, 8), (.amomax, 8), (.amocas, 8)], ∀ (x : F2) (s : State) (rd wr : Bool),
    let a := addrOf s x
    (rd = true ↔ c ∉ stores) → (wr = true ↔ c ∉ loads) → 2 ^ 62 ≤ a.toNat → a.toNat < 3 * 2 ^ 62 →
    (a.toNat % c.2 ≠ 0 → Traps (c.1 x) x.len s { cause := 0x03, opnd := 5, value := a }) ∧
    (a.toNat % c.2 = 0 → a.toNat / 2 ^ 37 % 2 ^ 25 ≠ 0 → Traps (c.1 x) x.len s { cause := 0x04, reason := 0x03, opnd := 5, value := a }) ∧
    (a.toNat % c.2 = 0 → a.toNat / 2 ^ 37 % 2 ^ 25 = 0 → (¬ ∃ t off, TileNamed s a t off) →
      Traps (c.1 x) x.len s { cause := 0x04, reason := 0x04, opnd := 5, value := a }) ∧
    ∀ t off, TileNamed s a t off → a.toNat % c.2 = 0 → (off < 0x800000 ∨ 0x810000 ≤ off) →
      (0x180000 < off + c.2 → Traps (c.1 x) x.len s { cause := 0x04, reason := 0x05, opnd := 5, value := a }) ∧
      (off + c.2 ≤ 0x180000 → s.toMach.tileAllows t off c.2 rd wr = false →
        Traps (c.1 x) x.len s { cause := 0x04, reason := 0x01, opnd := 5, value := a })

/-- R37, R99: the control page of the own tile: below the tenant level an access takes a window fault; at it, a load gives what the
page's registers read (which the rules leave open: a free value of the address, log entry 33). -/
def Sys2Proof.Claim.ControlAccesses : Prop :=
  ∀ c ∈ loads ++ stores ++ [(Instr.amoadd, 8), (.amoswap, 8), (.amomax, 8), (.amocas, 8)], ∀ (x : F2) (s : State),
    let a := addrOf s x
    0x800000 ≤ a.toNat → a.toNat < 0x810000 → a.toNat % c.2 = 0 →
    (s.ctx.lvl = 0 → Traps (c.1 x) x.len s { cause := 0x04, reason := 0x02, opnd := 5, value := a }) ∧
    (s.ctx.lvl ≠ 0 → c ∈ loads → (∀ j, j < c.2 → unitOf (ownKey s a + j) ∉ s.bad) →
      ∃ r, LoadRule (c.1 x) (s.toMach.readNat a (ownKey s a) c.2) r ∧ Retires (c.1 x) x.len s (s.toMach.setG x.dN r))

/-- R99, R36, R37, R38: where the loads, stores and atomics of tile space trap, in the order of R99: misaligned; a reserved
address bit; beyond the local memory; neither a window of the process nor an export grants. The chain has no other effect. Rests on readings of the model: log entries 12, 25. -/
def Obligations.AccessTraps : Prop :=
  ∀ c ∈ loads ++ stores ++ [(Instr.amoadd, 8), (.amoswap, 8), (.amomax, 8), (.amocas, 8)], ∀ (x : F2) (s : State),
    let a := addrOf s x
    (a.toNat < 2 ^ 62 → a.toNat % c.2 ≠ 0 → Traps (c.1 x) x.len s { cause := 0x03, opnd := 5, value := a }) ∧
    (a.toNat < 2 ^ 62 → a.toNat % c.2 = 0 → 2 ^ 24 ≤ a.toNat →
      Traps (c.1 x) x.len s { cause := 0x04, reason := 0x03, opnd := 5, value := a }) ∧
    (LocalAddr a → a.toNat % c.2 = 0 → 0x180000 < a.toNat + c.2 → (a.toNat < 0x800000 ∨ 0x810000 ≤ a.toNat) →
      Traps (c.1 x) x.len s { cause := 0x04, reason := 0x05, opnd := 5, value := a }) ∧
    (∀ rd wr : Bool, (rd = true ↔ c ∉ stores) → (wr = true ↔ c ∉ loads) → LocalAddr a → a.toNat % c.2 = 0 → a.toNat + c.2 ≤ 0x180000 →
      s.toMach.tileAllows s.here a.toNat c.2 rd wr = false →
      Traps (c.1 x) x.len s { cause := 0x04, reason := 0x01, opnd := 5, value := a })

/-- R102, R54: the relative branches. `call` writes B + 2 to g1; no other register changes. A target beyond 2^24 meets a window fault
when it is fetched. Rests on readings of the model: log entries 17. -/
def Sys2Proof.Claim.RelativeBranches : Prop :=
  (∀ (x : FB) (s : State),
    BranchesIf (.beqz x) x.len s s.toMach (s.toMach.g x.aN = 0) (branchPc s x.len x.offV) ∧
    BranchesIf (.bnez x) x.len s s.toMach (s.toMach.g x.aN ≠ 0) (branchPc s x.len x.offV)) ∧
  (∀ (x : FJ) (s : State),
    JumpsTo (.j x) s s.toMach (branchPc s x.len x.offV) ∧
    JumpsTo (.call x) s (s.toMach.setG 1 (BitVec.ofNat 64 (s.ctx.pc.toNat + 2 * (x.len - 1) + 2))) (branchPc s x.len x.offV)) ∧
  (∀ (m : Mach) (a : Nat), 2 ^ 24 ≤ a → a < 2 ^ 64 → ∃ n, { m with ctx := m.ctx.goto a }.nextChain =
    .error ({ cause := 0x04, reason := 0x06, opnd := 5, value := BitVec.ofNat 64 a }, n))

/-- R104, R102: the predicate branches look at the bits below vl; with vl = 0 `bpf` is taken and `bpt` is not. -/
def Sys2Proof.Claim.PredicateBranches : Prop :=
  ∀ (x : F2) (s : State), s.ctx.pBad[x.aN]?.getD 0 = 0 →
    BranchesIf (.bpt x) x.len s s.toMach (∃ k, k < s.ctx.vl ∧ (s.toMach.p x.aN).getLsbD k = true) (branchPc s x.len x.s) ∧
    BranchesIf (.bpf x) x.len s s.toMach (¬ ∃ k, k < s.ctx.vl ∧ (s.toMach.p x.aN).getLsbD k = true) (branchPc s x.len x.s)

/-- R102, R103: the register branches, for a target that is an even local offset, and their traps for any other; nothing is written,
not even g1. It is the model's reading that misaligned comes before window (log entry 25), and that a target outside the code window
faults when it is fetched, behind the branch (log entry 21). -/
def Sys2Proof.Claim.RegisterBranches : Prop :=
  ∀ (x : F2) (s : State),
    let a := s.toMach.g x.aN
    let r := s.toMach.g 1
    let link := s.toMach.setG 1 (BitVec.ofNat 64 (s.ctx.pc.toNat + 2 * (x.len - 1) + 2))
    (a.toNat < 2 ^ 24 → a.toNat % 2 = 0 →
      JumpsTo (.jr x) s s.toMach a.toNat ∧ JumpsTo (.callr x) s link a.toNat) ∧
    (r.toNat < 2 ^ 24 → r.toNat % 2 = 0 → JumpsTo (.ret x) s s.toMach r.toNat) ∧
    (∀ c ∈ [Instr.jr, .callr],
      (a.toNat % 2 = 1 → Traps (c x) x.len s { cause := 0x03, opnd := 2, value := a }) ∧
      (a.toNat % 2 = 0 → 2 ^ 24 ≤ a.toNat → Traps (c x) x.len s { cause := 0x04, reason := 0x03, opnd := 2, value := a })) ∧
    (r.toNat % 2 = 1 → Traps (.ret x) x.len s { cause := 0x03, value := r }) ∧
    (r.toNat % 2 = 0 → 2 ^ 24 ≤ r.toNat → Traps (.ret x) x.len s { cause := 0x04, reason := 0x03, value := r }) ∧
    (∀ c ∈ [(Instr.jr, a), (.callr, a), (.ret, r)], ∀ t, exec (c.1 x) s = .next t → c.2.toNat < 2 ^ 24 → c.2.toNat % 2 = 0 →
      (0x180000 < c.2.toNat + 2 ∨ ∀ w ∈ s.ctx.win.toList, w.getLsbD 50 = false ∨ c.2.toNat < bitsAt w.toNat 0 24 ∨
        bitsAt w.toNat 24 24 < c.2.toNat + 2) →
      ∃ n, t.toMach.nextChain = .error ({ cause := 0x04, reason := 0x06, opnd := 5, value := c.2 }, n))

/-! System instructions, traps and the return from them. -/

/-- R88, R91, R195: `nop` changes nothing; `ifsync` reads the fetch buffer again; `fence`, with nothing of the process on its
way and no write error held, only retires. -/
def Sys2Proof.Claim.NopIfsyncFence : Prop :=
  ∀ (x : F2) (s : State),
    Retires (.nop x) x.len s s.toMach ∧
    (∃ t, exec (.ifsync x) s = .next t ∧
      Ran s t s.toMach (s.ctx.goto (s.ctx.pc.toNat + 2 * x.len)).pc (s.ctx.goto (s.ctx.pc.toNat + 2 * x.len)).far ∧
      t.ctx.fbuf = t.toMach.fetchSpan s.here t.ctx.pc.toNat 0 16) ∧
    (Settled s.toMach → Retires (.fence x) x.len s s.toMach)

/-- R21, R26, R28, R29, R30, R232: what a special register reads as. -/
def Sys2Proof.Claim.SpecialRule (c : Ctx) (n : Nat) (r : Word) : Prop := match n with
  | 0x00 => r = BitVec.ofNat 64 c.vl
  | 0x01 => r.toNat = c.vtype.toNat
  | 0x02 => r = BitVec.ofNat 64 c.vlmax
  | 0x03 => r.toNat = c.keep.toNat
  | 0x04 => r = c.stripset
  | 0x05 => r.toNat = c.share.toNat
  | 0x06 => ∀ p, c.place = some p → p.x < 64 → p.y < 32 → p.ctx < 8 →
      r.toNat % 8 = p.ctx ∧ r.toNat / 2 ^ 8 % 2 ^ 7 = p.x ∧ r.toNat / 2 ^ 16 % 2 ^ 6 = p.y ∧
      r.toNat / 2 ^ 32 = p.x / 16 + 4 * (p.y / 16)
  | 0x07 => r.toNat = c.nid.toNat * 2 ^ 16 + c.idx.toNat
  | 0x08 => r = c.cycle
  | 0x09 => r = c.retired
  | 0x0A => c.lapLen < 2 ^ 17 → c.lapPos < 2 ^ 17 → r.toNat = c.lapPos * 2 ^ 32 + c.lapLen
  | 0x0B => r = c.rngctl
  | 0x0C => r.toNat = c.fpflags.toNat
  | 0x0D => r.toNat = c.fptrap.toNat
  | 0x0E => ∀ i, i < 16 → match c.qb i with
    | none => bitsAt r.toNat (2 * i) 2 = 0 ∧ bitsAt r.toNat (32 + 2 * i) 2 = 0
    | some b => bitsAt r.toNat (2 * i) 2 = (if b.write then 2 else 1) ∧
        bitsAt r.toNat (32 + 2 * i) 2 = (if b.kind = .chan then 0 else if b.kind = .pool then 1 else 2)
  | 0x0F => r.toNat < 2 ^ 32 ∧ ∀ j, j < 8 → let y := c.stream j
      r.getLsbD j = y.on ∧ r.getLsbD (8 + j) = (y.on && y.sink) ∧
      bitsAt r.toNat (16 + 2 * j) 2 = (if y.on = false ∨ y.kind = .chan then 0 else if y.kind = .pattern then 1 else 2)
  | 0x10 => r.toNat < 2 ^ 16 ∧ r.getLsbD 0 = c.mOn ∧ bitsAt r.toNat 1 6 = c.mN % 64 ∧ bitsAt r.toNat 8 8 = c.mAllow % 256
  | 0x11 => r.toNat = c.tcause.toNat
  | 0x12 => r = c.tpc
  | 0x13 => r = c.tval
  | 0x14 => r = c.tinfo
  | 0x15 => r = c.tvec
  | 0x16 => r.getLsbD 0 = c.act ∧ r.toNat / 4 = c.lvl.toNat ∧ r.getLsbD 1 = false
  | 0x17 => r = c.tdeleg
  | 0x18 => r = c.win[0]
  | 0x19 => r = c.win[1]
  | 0x1A => r = c.win[2]
  | 0x1B => r = c.win[3]
  | 0x1C => r.toNat = c.part.toNat + 2 ^ 8 * ((List.range 64).filter fun n => (c.fig n).isSome).length
  | 0x1D => r = c.quota
  | 0x1E => r.toNat = c.seedSeq.toNat + c.replay.toNat * 2 ^ 32
  | 0x1F => r.toNat = c.dgOn.toNat + 2 * c.dgDone.toNat
  | _ => True

/-- R92, R21: `mfs` reads every special register from 0x00 to 0x1F into g(d); a number above is illegal. -/
def Sys2Proof.Claim.ReadSpecial : Prop :=
  ∀ (x : F2) (s : State),
    (x.aImm ≤ 0x1F → ∃ r, SpecialRule s.ctx x.aImm r ∧ Retires (.mfs x) x.len s (s.toMach.setG x.dN r)) ∧
    (0x1F < x.aImm → Traps (.mfs x) x.len s { cause := 0x01, reason := 0x11, value := BitVec.ofNat 64 x.aImm })

/-- R21, R25, R29, R31: what a written special register holds of the doubleword written. -/
def Sys2Proof.Claim.HeldBits (n : Nat) (w : Word) : Word := match n with
  | 0x04 => w &&& 0x1FFFFFFFFF
  | 0x05 => w &&& 0xF
  | 0x0C => w &&& 0x1F
  | 0x0D => w &&& 0x1F
  | 0x12 => w &&& 0xFFFFFFFFFFFFFFFE
  | 0x15 => w &&& 0xFFFFFFFFFFFFFFFE
  | 0x17 => (w &&& 0x1FFFFFFE) ||| 0x03A00000
  | 0x18 => w &&& 0x000FFFFFC0FFFFC0
  | 0x19 => w &&& 0x0007FFFFC0FFFFC0
  | 0x1A => w &&& 0x000FFFFFC0FFFFC0
  | 0x1B => w &&& 0x0007FFFFC0FFFFC0
  | _ => w

/-- R92, R21, R39: `mts`: a register of process level at any level and one of tenant level at tenant level takes what it holds of
g(d), reads back so, and no other special register changes; below tenant level, and for the register of device level, the
privileged-instruction trap; a read-only register and a number above 0x1F are illegal. The trap's tval is free. -/
def Sys2Proof.Claim.WriteSpecial : Prop :=
  ∀ (x : F2) (s : State),
    ((x.aImm ∈ [0x04, 0x0C, 0x0D, 0x12, 0x15, 0x16, 0x17] ∨ (x.aImm ∈ [0x05, 0x0B, 0x18, 0x19, 0x1A, 0x1B] ∧ s.ctx.lvl ≠ 0)) →
      ∃ c, Retires (.mts x) x.len s { s.toMach with ctx := c } ∧
        (x.aImm ≠ 0x16 → c.special x.aImm = some (HeldBits x.aImm (s.toMach.g x.dN))) ∧
        (x.aImm = 0x16 → c = { s.ctx with act := (s.toMach.g x.dN).getLsbD 0 }) ∧
        ∀ k, k ≠ x.aImm → c.special k = s.ctx.special k) ∧
    (x.aImm ∈ [0x05, 0x0B, 0x18, 0x19, 0x1A, 0x1B] → s.ctx.lvl = 0 → ∃ v, Traps (.mts x) x.len s { cause := 0x02, value := v }) ∧
    (x.aImm = 0x1D → ∃ v, Traps (.mts x) x.len s { cause := 0x02, value := v }) ∧
    (x.aImm ∈ [0x00, 0x01, 0x02, 0x03, 0x06, 0x07, 0x08, 0x09, 0x0A, 0x0E, 0x0F, 0x10, 0x11, 0x13, 0x14, 0x1C, 0x1E, 0x1F] →
      Traps (.mts x) x.len s { cause := 0x01, reason := 0x0E, value := BitVec.ofNat 64 x.aImm }) ∧
    (0x1F < x.aImm → Traps (.mts x) x.len s { cause := 0x01, reason := 0x11, value := BitVec.ofNat 64 x.aImm })

/-- R29: a trap that reaches the handler of its own context. -/
def Sys2Proof.Claim.LocalTrap (s : State) (cause : Nat) : Prop :=
  s.ctx.act = false ∧ 1 ≤ cause ∧ cause ≤ 28 ∧ s.ctx.tdeleg.getLsbD cause = false ∧ cause ∉ [0x15, 0x17, 0x18, 0x19]

/-- R90, R211, R29: `svc` and `brk`, handled locally: tcause, tval = n, tinfo, tpc at the next chain, tstatus.act set, the pc at
tvec; no other register and no byte of memory changes, and the chain does not count in retired. -/
def Sys2Proof.Claim.ServiceCallEntry : Prop :=
  ∀ c ∈ [(Instr.svc, 0x13), (Instr.brk, 0x14)], ∀ (x : F2) (s : State), LocalTrap s c.2 →
    ∃ t, exec (c.1 x) s = .next t ∧
      t.ctx = { s.ctx with
        tcause := BitVec.ofNat 8 c.2, tval := BitVec.ofNat 64 x.aImm, tinfo := t.ctx.tinfo
        tpc := BitVec.ofNat 64 ((s.ctx.pc.toNat + 2 * x.len) % 2 ^ 24), act := true
        pc := (s.ctx.goto (s.ctx.tvec.toNat - s.ctx.tvec.toNat % 2)).pc, far := (s.ctx.goto (s.ctx.tvec.toNat - s.ctx.tvec.toNat % 2)).far
        fbuf := t.ctx.fbuf, cycle := t.ctx.cycle, issued := {} } ∧
      t.ctx.tinfo.toNat = x.len % 8 * 16 ∧
      t.port = s.port ∧ ∀ a, Mem.get t.mem a = Mem.get s.mem a

/-- R211: the entry to a local handler, for every trap that R29 delivers there. What `far` keeps of a tvec or of a chain address beyond 24
bits is the model's reading (log entry 17). -/
def Obligations.LocalHandlerEntry : Prop :=
  ∀ (s : State) (len : Nat) (x : Trap), LocalTrap s x.cause → len < 8 → x.opnd < 16 → x.reason < 256 → x.elem < 1024 → x.ref < 2 ^ 32 →
    let m := s.toMach.takeTrap len x
    m.ctx = { s.ctx with
      tcause := BitVec.ofNat 8 x.cause, tval := x.value, tinfo := m.ctx.tinfo, tpc := m.ctx.tpc, act := true
      pc := (s.ctx.goto (s.ctx.tvec.toNat - s.ctx.tvec.toNat % 2)).pc, far := (s.ctx.goto (s.ctx.tvec.toNat - s.ctx.tvec.toNat % 2)).far
      fbuf := m.ctx.fbuf, cycle := m.ctx.cycle, issued := {} } ∧
    m.ctx.tinfo.toNat = x.ref * 2 ^ 32 + x.elem * 2 ^ 16 + x.reason * 2 ^ 8 + len * 2 ^ 4 + x.opnd ∧
    m.ctx.tpc = (if x.whole then BitVec.ofNat 64 ((s.ctx.pc.toNat + 2 * len) % 2 ^ 24) else s.ctx.far.getD (BitVec.ofNat 64 s.ctx.pc.toNat)) ∧
    m.ctx.fbuf = m.fetchSpan s.here m.ctx.pc.toNat 0 16 ∧
    m = { s.toMach with ctx := m.ctx, procs := m.procs, tick := m.tick } ∧ CalmAs m s.toMach

/-- R318, R241: a trap that is not handled locally parks its process: every register stays, the process keeps the address of
the chain and the record; the record goes to a live supervisor, and without one the network ends faulted; for a network whose home is
the other package's hub, that hub does both (R314). -/
def Sys2Proof.Claim.RemoteTrapParks : Prop :=
  ∀ (s : State) (len : Nat) (x : Trap) (k n : Nat) (p : Proc) (y : Net),
    ¬ LocalTrap s x.cause → s.cur = some k → s.procs[k]? = some p → p.net = n → s.nets[n]? = some y →
    let m := s.toMach.takeTrap len x
    m.ctx = { s.ctx with cycle := m.ctx.cycle, issued := {} } ∧
    (∀ a, Mem.get m.mem a = Mem.get s.mem a) ∧
    (∃ q, m.procs[k]? = some q ∧ q.st = .parked ∧ q.wait = none ∧ q.req = false ∧
      q.park = (if x.whole then (s.ctx.pc.toNat + 2 * len) % 2 ^ 24 else (s.ctx.far.getD (BitVec.ofNat 64 s.ctx.pc.toNat)).toNat) ∧
      q.record = some (s.toMach.trapRecord len x)) ∧
    (∃ z, m.nets[n]? = some z ∧ (y.guest = true → z.faultQ = y.faultQ ∧ z.fatal = y.fatal) ∧
      (y.guest = false → (∃ j, s.toMach.supOf n = some j ∧ j ≠ k ∧ (∃ w, s.procs[j]? = some w ∧ w.st ≠ .exited)) →
        z.faultQ = y.faultQ ++ [(s.ctx.idx.toNat, s.toMach.trapRecord len x)] ∧ z.fatal = y.fatal) ∧
      (y.guest = false → s.toMach.supOf n = none ∨ s.toMach.supOf n = some k → z.faultQ = y.faultQ ∧ z.fatal = true)) ∧
    (∀ j, j ≠ k → m.procs[j]? = s.procs[j]?) ∧ (∀ j, j ≠ n → m.nets[j]? = s.nets[j]?)

/-- R212: `tret` goes on at tpc with tstatus.act clear and the fetch buffer read again; with act clear it is illegal. -/
def Sys2Proof.Claim.TrapReturn : Prop :=
  ∀ (x : F2) (s : State),
    (s.ctx.act = true → ∃ t, exec (.tret x) s = .next t ∧
      Ran s t { s.toMach with ctx := { s.ctx with act := false } } (s.ctx.goto s.ctx.tpc.toNat).pc (s.ctx.goto s.ctx.tpc.toNat).far ∧
      t.ctx.fbuf = t.toMach.fetchSpan s.here t.ctx.pc.toNat 0 16) ∧
    (s.ctx.act = false → Traps (.tret x) x.len s { cause := 0x01, reason := 0x0C })

/-- R89, R239: `exit`, with nothing of the process outstanding and no fault held: the chain counts in retired, the process has
exited and gives its context up, its network's completion counter goes down (at its home hub, R314), and its channels are marked; memory stays. -/
def Sys2Proof.Claim.ExitEndsProcess : Prop :=
  ∀ (x : F2) (s : State) (k n : Nat) (p : Proc) (y : Net),
    s.cur = some k → s.procs[k]? = some p → p.net = n → s.nets[n]? = some y → Settled s.toMach →
    s.copies = [] → s.nears = [] → s.resids = [] → s.ctx.faults = [] →
    ∃ t, exec (.exit x) s = .next t ∧ t.ctx.retired = s.ctx.retired + 1 ∧ t.ctx.place = none ∧
      (∃ q, t.procs[k]? = some q ∧ q.st = .exited) ∧ (∀ j, j ≠ k → t.procs[j]? = s.procs[j]?) ∧
      (∃ z, t.nets[n]? = some z ∧ z.chans.length = y.chans.length ∧
        ∀ (i : Nat) (c d : Chan), y.chans[i]? = some c → z.chans[i]? = some d →
          (c.decl.rproc = s.ctx.idx.toNat → d.rExited = true ∧ d.buf = []) ∧
          (c.decl.wproc = s.ctx.idx.toNat → d.wExited = true) ∧
          (c.decl.rproc ≠ s.ctx.idx.toNat → d.buf = c.buf ∧ d.rExited = c.rExited)) ∧
      t.entries = (if y.guest then s.entries else s.entries.map fun e =>
        if e.isAt y.tenant 0 y.index then { e with left := e.left - 1 } else e) ∧
      ∀ a, Mem.get t.mem a = Mem.get s.mem a

/-! Queues. -/

/-- R108, R292: a pop takes the head token of a scalar channel and sends a slot return; end of stream traps `qpop` and sends
`qpopb` to its target; a poisoned token traps (R327); without a token, or while the channel is being re-bound (R295), the chain
waits. -/
def Sys2Proof.Claim.QueuePops : Prop :=
  ∀ (x : F2) (s : State) (id : Nat) (c : Chan), s.toMach.chan id = some c →
    s.ctx.qb x.aN = some { kind := .chan, write := false, id := id } →
    (∀ w r, c.rebind = false → c.buf = .scalar w :: r → ∀ i ∈ [Instr.qpop x, .qpopb x],
      Retires i x.len s ((s.toMach.updChan id fun c =>
        { c with buf := c.buf.drop 1, returns := c.returns + 1, inTile := c.inTile - 1 }).setG x.dN w)) ∧
    (∀ u r, c.rebind = false → c.buf = .fault u :: r → ∀ i ∈ [Instr.qpop x, .qpopb x],
      Traps i x.len s { u with opnd := 6, value := BitVec.ofNat 64 x.aN, ref := id }) ∧
    (∀ r, c.rebind = false → c.buf = .eos :: r →
      Traps (.qpop x) x.len s { cause := 0x0A, opnd := 6, value := BitVec.ofNat 64 x.aN } ∧
      JumpsTo (.qpopb x) s s.toMach (branchPc s x.len x.s)) ∧
    (c.buf = [] ∨ c.rebind = true → ∀ i ∈ [Instr.qpop x, .qpopb x],
      Waits i s { kind := .read, code := 0x01, opnd := 6, ref := id, val := BitVec.ofNat 64 x.aN })

/-- R108, R109: a queue register that binds nothing, or the other end of a channel, traps. -/
def Sys2Proof.Claim.QueueTraps : Prop :=
  ∀ (x : F2) (s : State),
    ((s.ctx.qb x.aN = none ∨ ∃ id, s.ctx.qb x.aN = some { kind := .chan, write := true, id := id }) → ∀ i ∈ [Instr.qpop x, .qpopb x],
      Traps i x.len s { cause := 0x08, reason := 0x01, opnd := 6, value := BitVec.ofNat 64 x.aN }) ∧
    ((s.ctx.qb x.dN = none ∨ ∃ id, s.ctx.qb x.dN = some { kind := .chan, write := false, id := id }) → ∀ i ∈ [Instr.qpush x, .qclose x],
      Traps i x.len s { cause := 0x08, reason := 0x01, opnd := 6, value := BitVec.ofNat 64 x.dN })

/-- R109, R292, R227: `qpush` and `qclose` on a channel with a free slot: the token enters flight, a slot is used and the check
folded; a closed channel traps; without a free slot, or while the channel is being re-bound (R295), the chain waits. -/
def Sys2Proof.Claim.QueuePushes : Prop :=
  ∀ (x : F2) (s : State) (id : Nat) (c : Chan), s.toMach.chan id = some c → Settled s.toMach →
    s.ctx.qb x.dN = some { kind := .chan, write := true, id := id } →
    ∀ i ∈ [(Instr.qpush, Tok.scalar (s.toMach.g x.aN), false), (Instr.qclose, .eos, true)],
      (c.closed = false → c.rExited = false → c.rebind = false → 0 < c.free →
        Retires (i.1 x) x.len s (s.toMach.updChan id fun c =>
          { c with free := c.free - 1, flight := c.flight ++ [i.2.1], pushes := (c.pushes + 1) % 2 ^ 32
                   check := foldTok c.check i.2.1, closed := i.2.2 })) ∧
      (c.closed = true → Traps (i.1 x) x.len s { cause := 0x09, reason := 0x02, opnd := 6, value := BitVec.ofNat 64 id, ref := id }) ∧
      (c.closed = false → c.rExited = false → (c.free = 0 ∨ c.rebind = true) → Waits (i.1 x) s { kind := .write, ref := id })

/-- R106, R107, R20: `qbind` binds a free register to a scalar channel endpoint of the process that nothing else of it binds;
`qunbind` frees a register. -/
def Sys2Proof.Claim.QueueBinding : Prop :=
  ∀ (x : F2) (s : State), x.dN < 16 → ¬ (s.toMach.isSup = true ∧ x.dN = 15) →
    Retires (.qunbind x) x.len s { s.toMach with ctx := { s.ctx with q := s.ctx.q.setIfInBounds x.dN none } } ∧
    ∀ (id : Nat) (write : Bool) (c : Chan), s.toMach.chan id = some c → c.decl.vector = false → id < 2 ^ 18 →
      (if write then c.decl.wproc else c.decl.rproc) = s.ctx.idx.toNat →
      s.toMach.g x.aN = BitVec.ofNat 64 (id * 2 ^ 32 + if write then 2 else 1) →
      s.ctx.qb x.dN = none → (∀ b, some b ∈ s.ctx.q.toList → ¬ (b.kind = .chan ∧ b.id = id ∧ b.write = write)) →
      (∀ j, (s.ctx.stream j).on = false) →
      Retires (.qbind x) x.len s
        { s.toMach with ctx := { s.ctx with q := s.ctx.q.setIfInBounds x.dN (some { kind := .chan, write := write, id := id }) } }

/-- R205: a put on a pool with a free slot is listed with the process, its lap and its token; a get whose token a lap close has
handed out writes it to g(d). -/
def Sys2Proof.Claim.PoolPutGet : Prop :=
  ∀ (x : F2) (s : State) (id : Nat),
    (∀ p, s.toMach.pool id = some p → Settled s.toMach → 0 < p.free →
      s.ctx.qb x.dN = some { kind := .pool, write := true, id := id } →
      Retires (.poolput x) x.len s (s.toMach.updPool id fun p => { p with
        puts := p.puts ++ [{ proc := s.toMach.self, key := s.toMach.myKey, lap := s.ctx.lapNo, tok := .scalar (s.toMach.g x.aN) }] })) ∧
    (∀ w, s.ctx.issued.got = some (.scalar w) → s.ctx.qb x.aN = some { kind := .pool, write := false, id := id } →
      Retires (.poolget x) x.len s (s.toMach.setG x.dN w))

/-! Vector length, strips and predicates. -/

/-- R320: no pre-emption is pending for the running process. -/
def Sys2Proof.Claim.NoRequest (s : State) : Prop := ∀ k p, s.cur = some k → s.procs[k]? = some p → p.req = false

/-- R120: what a `setvl` or `strip` leaves of a vector register. -/
def Sys2Proof.Claim.KeepsRegisters (s : State) (keep : Byte) (m : Mach) : Prop :=
  ∀ r, r < 32 → m.ctx.vr r = if s.ctx.streamOn r = true ∨ keep.getLsbD (r / 4) = true then s.ctx.vr r else 0

/-- R23, R119: may a vtype be requested. -/
def Sys2Proof.Claim.LegalVtype (t : Nat) : Prop :=
  t < 2 ^ 16 ∧ t % 16 ≤ 12 ∧ t / 64 % 8 ≤ 4 ∧ t / 4096 % 8 ≤ 5 ∧ (t % 16 = 5 → t / 64 % 8 = 1) ∧ (t % 16 = 12 → 3 ≤ t / 512 % 8)

/-- R119, R120, R24: `setvl` and `setvli` with a legal vtype and no pending request: vl = min(n, vlmax) goes to vl and g(d), vtype,
vlmax and keep are set, and vector registers outside the keep mask become zero. Any other vtype, and a .k form without its keep
mask, is illegal. -/
def Sys2Proof.Claim.SetVectorLength : Prop :=
  ∀ c ∈ [(Instr.setvl, true), (Instr.setvli, false)], ∀ (x : F2) (s : State),
    let t := pxValue (restPx x.pre)
    let n := if c.2 then (s.toMach.g x.aN).toNat else x.pre.ah * 16 + x.a.toNat
    (∀ keep, keepOf x.pre = some keep → LegalVtype t → NoRequest s →
      ∃ m, Retires (c.1 x) x.len s m ∧ KeepsRegisters s keep m ∧
        m = { s.toMach with ctx := m.ctx } ∧
        m.ctx = { (s.ctx.setG x.dN (BitVec.ofNat 64 (min n (vlmaxOf t)))) with
          vtype := BitVec.ofNat 16 t, vlmax := vlmaxOf t, vl := min n (vlmaxOf t), keep := keep, v := m.ctx.v, vBad := m.ctx.vBad }) ∧
    (∀ keep, keepOf x.pre = some keep → ¬ LegalVtype t →
      Traps (c.1 x) x.len s { cause := 0x01, reason := 0x0C, value := BitVec.ofNat 64 t }) ∧
    (keepOf x.pre = none → ∃ v, Traps (c.1 x) x.len s { cause := 0x01, reason := 0x0C, value := v })

/-- R121, R25: what `strip` leaves in a g register: the elements that remain in g(d), and in any other register what it held and vl
elements of its width for each slot that names it. -/
def Sys2Proof.Claim.StripRegister (s : State) (d rem r : Nat) : Word :=
  if r = 0 then 0
  else if r = d then BitVec.ofNat 64 rem
  else s.toMach.g r + BitVec.ofNat 64 ((((List.range (stripCount s.ctx.stripset)).filter fun i => slotReg s.ctx.stripset i == r).map fun i =>
    s.ctx.vl * 2 ^ slotCode s.ctx.stripset i).foldl (· + ·) 0)

/-- R122: stripset names a watermark as it may. -/
def Sys2Proof.Claim.MarksSlot (s : State) : Prop := 0 < stripCount s.ctx.stripset ∧ slotReg s.ctx.stripset 0 ≠ 0

/-- R122: the address that the watermark must have reached for the next strip of n elements. -/
def Sys2Proof.Claim.stripGoal (s : State) (n : Nat) : Nat :=
  (s.toMach.g (slotReg s.ctx.stripset 0) + BitVec.ofNat 64 (s.ctx.vl * 2 ^ slotCode s.ctx.stripset 0)).toNat + n * 2 ^ slotCode s.ctx.stripset 0

/-- R121, R122, R25: `strip` with no pending request: g(d) loses vl (not below 0), every slot's pointer register advances by vl
elements of its width, the next vl is granted, and the branch is taken while elements remain. With a watermark (on the own tile) the
chain waits until the watermark has reached the end of the next strip, if there is one; a watermark without a slot is illegal. -/
def Sys2Proof.Claim.StripAdvances : Prop :=
  ∀ (x : F2) (s : State), NoRequest s →
    let rem := (s.toMach.g x.dN).toNat - s.ctx.vl
    let off := signed (10 * (restPx x.pre).length) (pxValue (restPx x.pre))
    let a := s.toMach.g (bitsAt s.ctx.stripset.toNat 32 5)
    let goal := stripGoal s (min rem s.ctx.vlmax)
    let marked := s.ctx.stripset.getLsbD 31 = true
    (∀ keep, keepOf x.pre = some keep →
      (marked → MarksSlot s ∧ (rem = 0 ∨ (Reaches s a 8 true false ∧ goal ≤ Mem.nat s.mem (ownKey s a) 8))) →
      ∃ m, BranchesIf (.strip x) x.len s m (rem ≠ 0) (branchPc s x.len off) ∧ KeepsRegisters s keep m ∧
        m = { s.toMach with ctx := m.ctx } ∧
        m.ctx = { s.ctx with g := m.ctx.g, vl := min rem s.ctx.vlmax, keep := keep, v := m.ctx.v, vBad := m.ctx.vBad } ∧
        ∀ r, r < 32 → m.g r = StripRegister s x.dN rem r) ∧
    (∀ keep, keepOf x.pre = some keep → marked → MarksSlot s → rem ≠ 0 → Reaches s a 8 true false →
      Mem.nat s.mem (ownKey s a) 8 < goal →
      Waits (.strip x) s { kind := .read, code := 0x06, opnd := 5, val := a, goal := BitVec.ofNat 64 goal, tile := s.here }) ∧
    (∀ keep, keepOf x.pre = some keep → marked → ¬ MarksSlot s →
      Traps (.strip x) x.len s { cause := 0x01, reason := 0x0C, value := s.ctx.stripset }) ∧
    (keepOf x.pre = none → ∃ v, Traps (.strip x) x.len s { cause := 0x01, reason := 0x0C, value := v })

/-- R320, R321: a `setvl` or `strip` that would grant a length stops instead where a pre-emption is pending: the process waits for
the save sequencer, and no register changes. -/
def Sys2Proof.Claim.PreemptionPoint : Prop :=
  ∀ (x : F2) (s : State) (k : Nat) (p : Proc) (keep : Byte),
    s.cur = some k → s.procs[k]? = some p → p.req = true → keepOf x.pre = some keep → LegalVtype (pxValue (restPx x.pre)) →
    (s.ctx.stripset.getLsbD 31 = true → MarksSlot s) →
    ∀ i ∈ [Instr.setvl x, .setvli x, .strip x], ∃ t, exec i s = .next t ∧ t.ctx = s.ctx ∧ t.mem = s.mem ∧
      ∃ q, t.procs[k]? = some q ∧ q.st = .saving ∧ q.stop = some { kind := 0, keep := keep }

/-- R124: the bit that a predicate instruction gives to an index below vl, from its two sources. -/
def Sys2Proof.Claim.PredBit (i : Instr) (a b : PReg) (k first : Nat) : Bool := match i with
  | .pand _ => a.getLsbD k && b.getLsbD k
  | .por _ => a.getLsbD k || b.getLsbD k
  | .pxor _ => a.getLsbD k != b.getLsbD k
  | .pnot _ => !a.getLsbD k
  | .pbrkb _ => decide (k < first)
  | .pbrki _ => decide (k ≤ first)
  | _ => false

/-- R124, R123: the predicate instructions, with no poison in their sources: bits below vl as computed, zeros above; `pfirst` and
`pcount` write g(d); `stripcfg` writes stripset. -/
def Obligations.PredicateInstructions : Prop :=
  ∀ (x : F2) (s : State), (∀ r : Nat, s.ctx.pBad[r]?.getD 0 = 0) → s.ctx.vl ≤ 1024 →
    (∀ c ∈ [Instr.pand, .por, .pxor], ∃ r : PReg, Retires (c x) x.len s (s.toMach.setP x.dN r) ∧
      ∀ k, r.getLsbD k = (decide (k < s.ctx.vl) &&
        PredBit (c x) (s.toMach.p (if x.w then x.aN else x.dN)) (s.toMach.p (if x.w then x.eN else x.aN)) k 0)) ∧
    (∀ first, first ≤ s.ctx.vl → (∀ k, k < first → (s.toMach.p x.aN).getLsbD k = false) →
      (first < s.ctx.vl → (s.toMach.p x.aN).getLsbD first = true) →
      (∀ c ∈ [Instr.pnot, .pbrkb, .pbrki], ∃ r : PReg, Retires (c x) x.len s (s.toMach.setP x.dN r) ∧
        ∀ k, r.getLsbD k = (decide (k < s.ctx.vl) && PredBit (c x) (s.toMach.p x.aN) 0 k first)) ∧
      Retires (.pfirst x) x.len s
        (s.toMach.setG x.dN (if first = s.ctx.vl then BitVec.allOnes 64 else BitVec.ofNat 64 first))) ∧
    Retires (.pcount x) x.len s (s.toMach.setG x.dN
      (BitVec.ofNat 64 ((List.range s.ctx.vl).filter fun k => (s.toMach.p x.aN).getLsbD k).length)) ∧
    Retires (.stripcfg x) x.len s
      { s.toMach with ctx := { s.ctx with stripset := BitVec.ofNat 64 x.u &&& 0x1FFFFFFFFF } }

/-! Counters and barriers. -/

/-- R198 to R201: on a counter of the process's own tile: `waitge` retires once the counter has reached its value; `cadd` adds,
stopping at the top; `vwait` retires with its predicate clear once every active counter has reached its value. -/
def Sys2Proof.Claim.Counters : Prop :=
  ∀ (x : F2) (s : State),
    let a := s.toMach.g x.dN
    (Reaches s a 8 true false → (s.toMach.g x.aN).toNat ≤ Mem.nat s.mem (ownKey s a) 8 →
      Retires (.waitge x) x.len s s.toMach) ∧
    (Reaches s a 8 true true → Settled s.toMach → Memory.wf s.mem = true →
      ∃ m, Retires (.cadd x) x.len s { s.toMach with mem := m } ∧ Memory.wf m = true ∧
        Mem.nat m (ownKey s a) 8 = min (Mem.nat s.mem (ownKey s a) 8 + (s.toMach.g x.aN).toNat) (2 ^ 64 - 1) ∧
        ∀ k, (k < ownKey s a ∨ ownKey s a + 8 ≤ k) → Mem.get m k = Mem.get s.mem k) ∧
    (s.ctx.fmt = some .int64 → s.ctx.grp = 1 → x.aN % 2 = 0 → Plain s.toMach →
      (∀ i, i < s.ctx.vl → s.toMach.admits x.pre i = true → i < 64 ∧
        let c := BitVec.ofNat 64 ((s.ctx.vr x.aN).toNat / 2 ^ (64 * i))
        Reaches s c 8 true false ∧
          (s.ctx.vr (x.aN + 1)).toNat / 2 ^ (64 * i) % 2 ^ 64 ≤ Mem.nat s.mem (ownKey s c) 8) →
      ∃ m, Retires (.vwait x) x.len s m ∧ m.p (x.dN % 8) = (if x.dN % 8 = 0 then BitVec.allOnes 1024 else 0) ∧
        (∀ r, m.g r = s.toMach.g r) ∧ m.ctx.v = s.ctx.v ∧ ∀ k, Mem.get m.mem k = Mem.get s.mem k)

/-- R202, R203: `bararr` sends an arrival where none is open; `barwait` retires where none is open; `bar` and `sstep` retire once the
generation that they arrived in has completed. -/
def Sys2Proof.Claim.Barriers : Prop :=
  ∀ (x : F2) (s : State) (y : Net) (b : Barrier), s.toMach.curNet = some y → x.aImm < 64 → y.barrier x.aImm = some b →
    let cleared := { s.ctx with pending := s.ctx.pending.filter fun p => p.1 != b.id }
    let open_ := s.toMach.arrival b = .open
    (¬ open_ → Settled s.toMach →
      ∃ m, Retires (.bararr x) x.len s m ∧ m.ctx = { cleared with issued := m.ctx.issued } ∧
        (m = { s.toMach with ctx := m.ctx, nets := m.nets }) ∧
        ∃ z, m.curNet = some z ∧ z.barrier x.aImm = some { b with flight := b.flight ++ [(s.toMach.self, false)] }) ∧
    (¬ open_ → Retires (.barwait x) x.len s { s.toMach with ctx := cleared }) ∧
    (¬ open_ → s.ctx.issued.arrived = some b.id → ∀ i ∈ [Instr.bar x, .sstep x],
      Retires i x.len s { s.toMach with ctx := cleared }) ∧
    (open_ → ∀ i ∈ [Instr.bar x, .sstep x, .bararr x, .barwait x],
      Waits i s { kind := .read, code := 0x04, ref := b.id, val := BitVec.ofNat 64 b.here.length })

/-! Vector instructions. -/

/-- R17: element j, of width w, of the group that begins at register r. -/
def Sys2Proof.Claim.elemAt (c : Ctx) (r w j : Nat) : Nat := (c.vr (r + w * j / 4096)).toNat / 2 ^ (w * j % 4096) % 2 ^ w

/-- R17: registers that vlmax elements of width w fill. -/
def Sys2Proof.Claim.groupRegs (s : State) (w : Nat) : Nat := (w * s.ctx.vlmax + 4095) / 4096

/-- R116, R49: is element j active. -/
def Sys2Proof.Claim.Active (s : State) (p : Pre) (j : Nat) : Prop := j < s.ctx.vl ∧ match p.pp with
  | none => True
  | some f => (s.toMach.p f.pred.toNat).getLsbD j = !f.inv

/-- R114, R117: what a vector instruction changes that writes `n` registers from `d` on: those registers, sticky flags set, the
tile's queues of the lane groups and the context's count of lane-group cycles. Nothing else, and no byte of memory. -/
structure Sys2Proof.Claim.VFrame (s : State) (m : Mach) (d n : Nat) : Prop where
  rest  : m = { s.toMach with ctx := m.ctx, tiles := m.tiles }
  ctx   : m.ctx = { s.ctx with v := m.ctx.v, vBad := m.ctx.vBad, fpflags := m.ctx.fpflags, diag := m.ctx.diag }
  regs  : ∀ r, r < d ∨ d + n ≤ r → m.ctx.vr r = s.ctx.vr r
  flags : m.ctx.fpflags &&& s.ctx.fpflags = s.ctx.fpflags

/-- R116: what an element of a destination holds that is not an active one: inactive below vl, block tail, tail. -/
def Sys2Proof.Claim.OtherElem (s : State) (p : Pre) (j old new : Nat) : Prop :=
  if j < s.ctx.vl then new = (if zeroing p then 0 else old)
  else if j < s.ctx.vl + blockPad s.ctx.blk s.ctx.vl then new = 0
  else new = if s.ctx.ta then 0 else old

/-- R65: the integer that a pattern of an integer format stands for. -/
def Sys2Proof.Claim.iv (f : Fmt) (a : Nat) : Int := if f = .uint8 then a else signed f.width a

/-- R137: saturation to a range. -/
def Sys2Proof.Claim.Sat (lo hi i r : Int) : Prop := r = max lo (min hi i)

/-- R125 to R127, R137: an element of an integer format, from the sources a and b to the result r. -/
def Sys2Proof.Claim.ElemRule (i : Instr) (f : Fmt) (a b r : Nat) : Prop :=
  let w := f.width
  match i with
  | .vadd _ => (r : Int) = (iv f a + iv f b) % 2 ^ w
  | .vsub _ => (r : Int) = (iv f a - iv f b) % 2 ^ w
  | .vmul _ => (r : Int) = iv f a * iv f b % 2 ^ w
  | .vmin _ => iv f r = min (iv f a) (iv f b)
  | .vmax _ => iv f r = max (iv f a) (iv f b)
  | .vabd _ => (r : Int) = (iv f a - iv f b).natAbs % 2 ^ w
  | .vand _ => ∀ k, r.testBit k = (a.testBit k && b.testBit k)
  | .vor _ => ∀ k, r.testBit k = (a.testBit k || b.testBit k)
  | .vxor _ => ∀ k, r.testBit k = (a.testBit k != b.testBit k)
  | .vandn _ => ∀ k, r.testBit k = (a.testBit k && !b.testBit k)
  | .vsll _ => r = a * 2 ^ (b % w) % 2 ^ w
  | .vsrl _ => r = a / 2 ^ (b % w)
  | .vsra _ => (r : Int) = iv f a / 2 ^ (b % w) % 2 ^ w
  | .vsadd _ => Sat (-2 ^ (w - 1)) (2 ^ (w - 1) - 1) (iv f a + iv f b) (signed w r)
  | .vssub _ => Sat (-2 ^ (w - 1)) (2 ^ (w - 1) - 1) (iv f a - iv f b) (signed w r)
  | .vsaddu _ => Sat 0 (2 ^ w - 1) (a + b) r
  | .vssubu _ => Sat 0 (2 ^ w - 1) ((a : Int) - b) r
  | .vavg _ => (r : Int) = (iv f a + iv f b + 1) / 2 % 2 ^ w
  | .vmulh _ => (r : Int) = iv f a * iv f b / 2 ^ w % 2 ^ w
  | .vmulhu _ => r = a * b / 2 ^ w
  | .vsrr _ => (r : Int) = (if b % w = 0 then iv f a else (iv f a + 2 ^ (b % w - 1)) / 2 ^ (b % w)) % 2 ^ w
  | _ => False

/-- R17, R116: registers that lie on the boundary of a group. -/
def Sys2Proof.Claim.Aligned (s : State) (r : Nat) : Prop := r % s.ctx.grp = 0

/-- R114, R116, R125 to R127, R137: the two-source instructions on integer formats: every active element takes its result, every
other element of the destination what R116 says, nothing is written with vl = 0, and no flag is raised. That vsadd and vssub saturate
uint8 operands, read as unsigned, to the signed range is the model's reading of R137's table (log entry 29). -/
def Sys2Proof.Claim.IntegerElements : Prop :=
  ∀ c ∈ [Instr.vadd, .vsub, .vmul, .vmin, .vmax, .vabd, .vand, .vor, .vxor, .vandn, .vsll, .vsrl, .vsra,
      .vsadd, .vssub, .vsaddu, .vssubu, .vavg, .vmulh, .vmulhu, .vsrr],
    ∀ (x : F2) (s : State) (f : Fmt), s.ctx.fmt = some f → f.isInt = true → Plain s.toMach →
      Aligned s x.dN → Aligned s x.aN → (x.w = true → Aligned s x.eN) → x.dN + groupRegs s f.width ≤ 32 →
      ∃ m, Retires (c x) x.len s m ∧ VFrame s m x.dN (groupRegs s f.width) ∧ m.ctx.fpflags = s.ctx.fpflags ∧
        (s.ctx.vl = 0 → m.ctx.v = s.ctx.v) ∧
        ∀ j, j < s.ctx.vlmax → s.ctx.vl ≠ 0 →
          (Active s x.pre j → ElemRule (c x) f (elemAt s.ctx (if x.w then x.aN else x.dN) f.width j)
            (elemAt s.ctx (if x.w then x.eN else x.aN) f.width j) (elemAt m.ctx x.dN f.width j)) ∧
          (¬ Active s x.pre j → OtherElem s x.pre j (elemAt s.ctx x.dN f.width j) (elemAt m.ctx x.dN f.width j))

/-- R125, R127, R139: a source pattern or a product added to the destination, on integer formats. -/
def Sys2Proof.Claim.MacRule (i : Instr) (f : Fmt) (d a b r : Nat) : Prop := match i with
  | .vmac _ => (r : Int) = (iv f d + iv f a * iv f b) % 2 ^ f.width
  | .vnmac _ => (r : Int) = (iv f d - iv f a * iv f b) % 2 ^ f.width
  | .vnot _ => r + a = 2 ^ f.width - 1
  | .vmov _ => r = a
  | .vabs _ => (r : Int) = (iv f a).natAbs % 2 ^ f.width
  | _ => False

/-- R125, R127, R129, R136: multiply-add, complement, move and magnitude on integer formats. That vmov writes zero to a block tail is the
model's reading (log entry 108). -/
def Sys2Proof.Claim.IntegerAccumulate : Prop :=
  ∀ c ∈ [Instr.vmac, .vnmac, .vnot, .vmov, .vabs], ∀ (x : F2) (s : State) (f : Fmt),
    s.ctx.fmt = some f → f.isInt = true → Plain s.toMach →
    Aligned s x.dN → Aligned s x.aN → (x.w = true → Aligned s x.eN) → x.dN + groupRegs s f.width ≤ 32 →
    ∃ m, Retires (c x) x.len s m ∧ VFrame s m x.dN (groupRegs s f.width) ∧ m.ctx.fpflags = s.ctx.fpflags ∧
      ∀ j, j < s.ctx.vlmax → s.ctx.vl ≠ 0 →
        (Active s x.pre j → MacRule (c x) f (elemAt s.ctx x.dN f.width j) (elemAt s.ctx x.aN f.width j)
          (elemAt s.ctx (if x.w then x.eN else x.aN) f.width j) (elemAt m.ctx x.dN f.width j)) ∧
        (¬ Active s x.pre j → OtherElem s x.pre j (elemAt s.ctx x.dN f.width j) (elemAt m.ctx x.dN f.width j))

/-! Floating-point formats, on exact values: patterns as integers in units of the format's smallest subnormal (R66, R67). -/

def Sys2Proof.Claim.fpExp (f : Fmt) (a : Nat) : Nat := a / 2 ^ f.fw % 2 ^ f.ew
def Sys2Proof.Claim.fpFrac (f : Fmt) (a : Nat) : Nat := a % 2 ^ f.fw
def Sys2Proof.Claim.FpNeg (f : Fmt) (a : Nat) : Prop := a / 2 ^ (f.width - 1) % 2 = 1

/-- R66, R67: NaNs and infinities; fp4 has neither, fp8e4 no infinity. -/
def Sys2Proof.Claim.FpNan (f : Fmt) (a : Nat) : Prop := match f with
  | .fp4 => False
  | .fp8e4 => a % 128 = 127
  | _ => fpExp f a = 2 ^ f.ew - 1 ∧ fpFrac f a ≠ 0
def Sys2Proof.Claim.FpInf (f : Fmt) (a : Nat) : Prop := f ≠ .fp4 ∧ f ≠ .fp8e4 ∧ fpExp f a = 2 ^ f.ew - 1 ∧ fpFrac f a = 0
def Sys2Proof.Claim.FpFinite (f : Fmt) (a : Nat) : Prop := ¬ FpNan f a ∧ ¬ FpInf f a

/-- R75: a signalling NaN. -/
def Sys2Proof.Claim.FpSignalling (f : Fmt) (a : Nat) : Prop := FpNan f a ∧ f ≠ .fp8e4 ∧ fpFrac f a < 2 ^ (f.fw - 1)

/-- The value of a pattern in units of the smallest subnormal; an infinity lies beyond every finite value. -/
def Sys2Proof.Claim.fpUnits (f : Fmt) (a : Nat) : Int :=
  (if a / 2 ^ (f.width - 1) % 2 = 1 then -1 else 1) *
    ((if fpExp f a = 0 then fpFrac f a else (2 ^ f.fw + fpFrac f a) * 2 ^ (fpExp f a - 1) : Nat) : Int)

/-- The number 1 in those units. -/
def Sys2Proof.Claim.fpOne (f : Fmt) : Int := 2 ^ (f.bias - 1 + f.fw)

/-- R125, R134 to R136: the exact result u of an operation on the values d, p and q. -/
def Sys2Proof.Claim.FpExact (i : Instr) (one d p q u : Int) : Prop := match i with
  | .vadd _ => u = p + q
  | .vsub _ => u = p - q
  | .vabd _ => u = (p - q).natAbs
  | .vmul _ => u * one = p * q
  | .vmac _ => u * one = d * one + p * q
  | .vnmac _ => u * one = d * one - p * q
  | .vdiv _ => q ≠ 0 ∧ u * q = p * one
  | .vsqrt _ => 0 ≤ p ∧ 0 ≤ u ∧ u * u = p * one
  | .vrcp _ => p ≠ 0 ∧ u * p = one * one
  | .vrsqrt _ => 0 < p ∧ 0 < u ∧ u * u * p = one * one * one
  | .vexp2 _ => ∃ k : Nat, (p = k * one ∧ u = one * 2 ^ k) ∨ (p = -(k * one) ∧ u * 2 ^ k = one)
  | .vlog2 _ => ∃ k : Nat, (p = one * 2 ^ k ∧ u = k * one) ∨ (p * 2 ^ k = one ∧ u = -(k * one))
  | .vrint _ => u = p ∧ one ∣ p
  | _ => False

/-- R135: the operands for which the result is a number. -/
def Sys2Proof.Claim.FpDefined (i : Instr) (p q : Int) : Prop := match i with
  | .vdiv _ => q ≠ 0
  | .vsqrt _ => 0 ≤ p
  | .vrcp _ => p ≠ 0
  | .vrsqrt _ => 0 < p
  | .vlog2 _ => 0 < p
  | _ => True

/-- The patterns that an operation takes. -/
def Sys2Proof.Claim.fpOperands (i : Instr) (d p q : Nat) : List Nat := match i with
  | .vmac _ => [d, p, q]
  | .vnmac _ => [d, p, q]
  | .vsqrt _ => [p]
  | .vrcp _ => [p]
  | .vrsqrt _ => [p]
  | .vexp2 _ => [p]
  | .vlog2 _ => [p]
  | .vrint _ => [p]
  | .vclass _ => [p]
  | .vabs _ => [p]
  | _ => [p, q]

/-- The exact result of finite operands is a finite number of the format. -/
def Sys2Proof.Claim.FpFits (i : Instr) (f : Fmt) (d p q : Nat) (u : Int) : Prop :=
  FpExact i (fpOne f) (fpUnits f d) (fpUnits f p) (fpUnits f q) u ∧ ∃ y, y < 2 ^ f.width ∧ FpFinite f y ∧ fpUnits f y = u

/-- R126: −0 below +0, and otherwise by value. -/
def Sys2Proof.Claim.FpBelow (f : Fmt) (a b : Nat) : Prop := fpUnits f a < fpUnits f b ∨ (fpUnits f a = fpUnits f b ∧ FpNeg f a ∧ ¬ FpNeg f b)

/-- R134: an integral value beside x under a rounding mode. -/
def Sys2Proof.Claim.RoundsTo (rm : Nat) (one x r : Int) : Prop :=
  one ∣ r ∧ ((r - x).natAbs : Int) < one ∧ match rm with
    | 1 => r.natAbs ≤ x.natAbs
    | 2 => r ≤ x
    | 3 => x ≤ r
    | 0 => 2 * ((r - x).natAbs : Int) ≤ one ∧ (2 * ((r - x).natAbs : Int) = one → r / one % 2 = 0)
    | 4 => 2 * ((r - x).natAbs : Int) ≤ one ∧ (2 * ((r - x).natAbs : Int) = one → x.natAbs ≤ r.natAbs)
    | _ => True

/-- R75, R125, R126, R134 to R136: the pattern r that a floating-point operation gives for the patterns d, p and q. -/
def Sys2Proof.Claim.FpRule (i : Instr) (f : Fmt) (rm d p q r : Nat) : Prop := match i with
  | .vclass _ =>
      (FpNan f p → r = if f ≠ .fp8e4 ∧ fpFrac f p < 2 ^ (f.fw - 1) then 0x60 else 0x20) ∧
      (FpInf f p → r = if p / 2 ^ (f.width - 1) % 2 = 1 then 0x11 else 0x10) ∧
      (FpFinite f p → r = (if p / 2 ^ (f.width - 1) % 2 = 1 then 1 else 0) +
        if fpUnits f p = 0 then 2 else if fpExp f p = 0 then 4 else 8)
  | _ =>
      ((∃ o ∈ fpOperands i d p q, FpNan f o) → r = f.nan) ∧
      match i with
      | .vabs _ => ¬ FpNan f p → r = p % 2 ^ (f.width - 1)
      | .vmin _ => ¬ FpNan f p → ¬ FpNan f q → (r = p ∨ r = q) ∧ ¬ FpBelow f p r ∧ ¬ FpBelow f q r
      | .vmax _ => ¬ FpNan f p → ¬ FpNan f q → (r = p ∨ r = q) ∧ ¬ FpBelow f r p ∧ ¬ FpBelow f r q
      | _ => (∀ o ∈ fpOperands i d p q, FpFinite f o) →
          (∀ u, FpFits i f d p q u → FpFinite f r ∧ fpUnits f r = u) ∧
          match i with
          | .vrint _ => FpFinite f r ∧ RoundsTo rm (fpOne f) (fpUnits f p) (fpUnits f r) ∧ (FpNeg f r ↔ FpNeg f p)
          | .vdiv _ => fpUnits f q = 0 → if fpUnits f p = 0 then r = f.nan
              else f ≠ .fp8e4 → FpInf f r ∧ (FpNeg f r ↔ ¬ (FpNeg f p ↔ FpNeg f q))
          | .vsqrt _ => fpUnits f p < 0 → r = f.nan
          | .vrsqrt _ => (fpUnits f p < 0 → r = f.nan) ∧ (fpUnits f p = 0 → f ≠ .fp8e4 → FpInf f r ∧ (FpNeg f r ↔ FpNeg f p))
          | .vrcp _ => fpUnits f p = 0 → f ≠ .fp8e4 → FpInf f r ∧ (FpNeg f r ↔ FpNeg f p)
          | .vlog2 _ => (fpUnits f p < 0 → r = f.nan) ∧ (fpUnits f p = 0 → f ≠ .fp8e4 → FpInf f r ∧ FpNeg f r)
          | _ => True

/-- R76: an element that raises nothing: finite operands with an exact result; for minimum and maximum, no signalling NaN. -/
def Sys2Proof.Claim.FpQuiet (i : Instr) (f : Fmt) (d p q : Nat) : Prop := match i with
  | .vclass _ => True
  | .vabs _ => True
  | .vmin _ => ¬ FpSignalling f p ∧ ¬ FpSignalling f q
  | .vmax _ => ¬ FpSignalling f p ∧ ¬ FpSignalling f q
  | _ => (∀ o ∈ fpOperands i d p q, FpFinite f o) ∧ ∃ u, FpFits i f d p q u

/-- R76: an element that raises nx: finite operands whose result is no finite number of the format. -/
def Sys2Proof.Claim.FpInexact (i : Instr) (f : Fmt) (d p q : Nat) : Prop := match i with
  | .vclass _ => False
  | .vabs _ => False
  | .vmin _ => False
  | .vmax _ => False
  | _ => (∀ o ∈ fpOperands i d p q, FpFinite f o) ∧ FpDefined i (fpUnits f p) (fpUnits f q) ∧ ¬ ∃ u, FpFits i f d p q u

/-- R76: an element that raises dz, and one that raises nv. -/
def Sys2Proof.Claim.FpDivZero (i : Instr) (f : Fmt) (p q : Nat) : Prop := match i with
  | .vdiv _ => FpFinite f p ∧ FpFinite f q ∧ fpUnits f p ≠ 0 ∧ fpUnits f q = 0
  | .vrcp _ => FpFinite f p ∧ fpUnits f p = 0
  | .vrsqrt _ => FpFinite f p ∧ fpUnits f p = 0
  | .vlog2 _ => FpFinite f p ∧ fpUnits f p = 0
  | _ => False
def Sys2Proof.Claim.FpInvalid (i : Instr) (f : Fmt) (d p q : Nat) : Prop := match i with
  | .vclass _ => False
  | .vabs _ => False
  | _ => (∃ o ∈ fpOperands i d p q, FpSignalling f o) ∨ match i with
    | .vdiv _ => FpFinite f p ∧ FpFinite f q ∧ fpUnits f p = 0 ∧ fpUnits f q = 0
    | .vsqrt _ => FpFinite f p ∧ fpUnits f p < 0
    | .vrsqrt _ => FpFinite f p ∧ fpUnits f p < 0
    | .vlog2 _ => FpFinite f p ∧ fpUnits f p < 0
    | _ => False

/-- The floating-point instructions, each with whether the destination is its first source in the two-operand form. -/
def Sys2Proof.Claim.floatOps : List ((F2 → Instr) × Bool) :=
  [(.vadd, true), (.vsub, true), (.vmul, true), (.vmin, true), (.vmax, true), (.vabd, true), (.vdiv, true), (.vmac, false), (.vnmac, false),
    (.vsqrt, false), (.vrcp, false), (.vrsqrt, false), (.vexp2, false), (.vlog2, false), (.vrint, false), (.vclass, false), (.vabs, false)]

/-- R73 to R76, R114, R116, R125, R126, R134 to R136: the element-wise instructions on floating-point formats: an active element whose exact
result is a number of the format takes it, NaNs and the cases without a number what the rules say, every other element what R116 says; the
flags stay where no active element raises one, and nx, dz and nv are set where one does. -/
def Sys2Proof.Claim.FloatElements : Prop :=
  ∀ c ∈ floatOps, ∀ (x : F2) (s : State) (f : Fmt), s.ctx.fmt = some f → f.isFloat = true → Plain s.toMach →
    Aligned s x.dN → Aligned s x.aN → (x.w = true → Aligned s x.eN) → x.dN + groupRegs s f.width ≤ 32 →
    let d := fun j => elemAt s.ctx x.dN f.width j
    let p := fun j => elemAt s.ctx (if c.2 = true ∧ x.w = false then x.dN else x.aN) f.width j
    let q := fun j => elemAt s.ctx (if x.w then x.eN else x.aN) f.width j
    ∃ m, Retires (c.1 x) x.len s m ∧ VFrame s m x.dN (groupRegs s f.width) ∧ (s.ctx.vl = 0 → m.ctx.v = s.ctx.v) ∧
      (∀ j, j < s.ctx.vlmax → s.ctx.vl ≠ 0 →
        (Active s x.pre j → FpRule (c.1 x) f s.ctx.rm (d j) (p j) (q j) (elemAt m.ctx x.dN f.width j)) ∧
        (¬ Active s x.pre j → OtherElem s x.pre j (d j) (elemAt m.ctx x.dN f.width j))) ∧
      ((∀ j, Active s x.pre j → FpQuiet (c.1 x) f (d j) (p j) (q j)) → m.ctx.fpflags = s.ctx.fpflags) ∧
      ∀ j, Active s x.pre j →
        (FpInvalid (c.1 x) f (d j) (p j) (q j) → m.ctx.fpflags.getLsbD 0 = true) ∧
        (FpDivZero (c.1 x) f (p j) (q j) → m.ctx.fpflags.getLsbD 1 = true) ∧
        (FpInexact (c.1 x) f (d j) (p j) (q j) → m.ctx.fpflags.getLsbD 4 = true)

/-- The active elements of a group, in ascending order. -/
def Sys2Proof.Claim.activeElems (s : State) (p : Pre) (r w : Nat) : List Nat :=
  ((List.range s.ctx.vl).filter fun j => s.toMach.admits p j).map fun j => elemAt s.ctx r w j

/-- R131: an integer reduction of a list with its start value. -/
def Sys2Proof.Claim.ReduceRule (i : Instr) (f : Fmt) (init : Nat) (l : List Nat) (r : Nat) : Prop := match i with
  | .vredsum _ => (r : Int) = (iv f init + (l.map (iv f)).sum) % 2 ^ f.width
  | .vredosum _ => (r : Int) = (iv f init + (l.map (iv f)).sum) % 2 ^ f.width
  | .vredmax _ => r ∈ init :: l ∧ ∀ o ∈ init :: l, iv f o ≤ iv f r
  | .vredmin _ => r ∈ init :: l ∧ ∀ o ∈ init :: l, iv f r ≤ iv f o
  | .vredand _ => ∀ k, r.testBit k = (init.testBit k && l.all fun o => o.testBit k)
  | .vredor _ => ∀ k, r.testBit k = (init.testBit k || l.any fun o => o.testBit k)
  | .vredxor _ => ∀ k, r.testBit k = l.foldl (fun b o => b != o.testBit k) (init.testBit k)
  | _ => False

/-- R131, R126: the largest and smallest of a list with its start value in a floating-point format. -/
def Sys2Proof.Claim.FpReduceRule (i : Instr) (f : Fmt) (init : Nat) (l : List Nat) (r : Nat) : Prop :=
  ((∃ o ∈ init :: l, FpNan f o) → r = f.nan) ∧
  ((∀ o ∈ init :: l, ¬ FpNan f o) → r ∈ init :: l ∧ ∀ o ∈ init :: l, match i with
    | .vredmax _ => ¬ FpBelow f r o
    | .vredmin _ => ¬ FpBelow f o r
    | _ => False)

/-- R131, R132, R126: the reductions on integer formats, and the largest and smallest on floating-point ones: element 0 of the destination
takes the reduction of the active elements with element 0 of e (of d in the two-operand form), with vl = 0 too; the other elements stay,
or become zero under ta. That they do so with vl = 0 is the model's reading (log entry 109). -/
def Sys2Proof.Claim.Reductions : Prop :=
  ∀ c ∈ [Instr.vredsum, .vredosum, .vredmax, .vredmin, .vredand, .vredor, .vredxor], ∀ (x : F2) (s : State) (f : Fmt),
    s.ctx.fmt = some f → (f.isInt = true ∨ (f.isFloat = true ∧ c ∈ [Instr.vredmax, .vredmin])) → Plain s.toMach →
    Aligned s x.dN → Aligned s x.aN → (x.w = true → Aligned s x.eN) → x.dN + groupRegs s f.width ≤ 32 → 0 < s.ctx.vlmax →
    let init := elemAt s.ctx (if x.w then x.eN else x.dN) f.width 0
    let l := activeElems s x.pre x.aN f.width
    ∃ m, Retires (c x) x.len s m ∧ VFrame s m x.dN (groupRegs s f.width) ∧
      (f.isInt = true → ReduceRule (c x) f init l (elemAt m.ctx x.dN f.width 0)) ∧
      (f.isFloat = true → FpReduceRule (c x) f init l (elemAt m.ctx x.dN f.width 0)) ∧
      ((f.isInt = true ∨ ∀ o ∈ init :: l, ¬ FpSignalling f o) → m.ctx.fpflags = s.ctx.fpflags) ∧
      (f.isFloat = true → (∃ o ∈ init :: l, FpSignalling f o) → m.ctx.fpflags.getLsbD 0 = true) ∧
      ∀ j, 0 < j → j < s.ctx.vlmax → elemAt m.ctx x.dN f.width j = if s.ctx.ta then 0 else elemAt s.ctx x.dN f.width j

/-- R114: element-wise instructions of classes B, A and U, each with the formats that its entry accepts. -/
def Sys2Proof.Claim.elementwise : List ((F2 → Instr) × (Fmt → Bool)) :=
  [(.vadd, inIF), (.vsub, inIF), (.vmul, inIF), (.vmin, inIF), (.vmax, inIF), (.vabd, inIF), (.vmac, inIF), (.vnmac, inIF),
    (.vand, inIF4), (.vor, inIF4), (.vxor, inIF4), (.vandn, inIF4), (.vnot, inIF4), (.vmov, inM4), (.vmerge, inM4),
    (.vdiv, inF), (.vsqrt, inF), (.vrcp, inF), (.vrsqrt, inF), (.vexp2, inF), (.vlog2, inF), (.vclass, inF), (.vabs, inIF),
    (.vrint, inF), (.vcompress, inM), (.vsparse, inIF), (.vslup, inM), (.vsldn, inM), (.vrev, inM), (.vzip, inM), (.vunzip, inM),
    (.vredsum, inIF), (.vredosum, inIF), (.vredmax, inIF), (.vredmin, inIF), (.vredand, inI), (.vredor, inI), (.vredxor, inI)]

/-- R114 to R117, R125 to R132, R135, R136, R141: these instructions retire for every format that their entry accepts, with no trap
enabled, and change only the destination group and sticky flags. -/
def Sys2Proof.Claim.ElementwiseRuns : Prop :=
  ∀ c ∈ elementwise, ∀ (x : F2) (s : State) (f : Fmt), s.ctx.fmt = some f → c.2 f = true → Plain s.toMach →
    Aligned s x.dN → Aligned s x.aN → (x.w = true → Aligned s x.eN) →
    ∃ m, Retires (c.1 x) x.len s m ∧ VFrame s m x.dN (groupRegs s f.width)

/-- R129, R130: `vrgat` (three groups), `vsplat` (a is a g register), `vid` and `viota` (a is a predicate) retire and change only the
destination group; the active elements of the last three are the scalar, the index and the count of set predicate bits below. -/
def Sys2Proof.Claim.VectorMoves : Prop :=
  ∀ (x : F2) (s : State) (f : Fmt), s.ctx.fmt = some f → Plain s.toMach → Aligned s x.dN → x.dN + groupRegs s f.width ≤ 32 →
    (inM f = true → Aligned s x.aN → Aligned s x.eN →
      ∃ m, Retires (.vrgat x) x.len s m ∧ VFrame s m x.dN (groupRegs s f.width)) ∧
    (inM4 f = true → ∃ m, Retires (.vsplat x) x.len s m ∧ VFrame s m x.dN (groupRegs s f.width) ∧
      ∀ j, j < s.ctx.vlmax → Active s x.pre j → elemAt m.ctx x.dN f.width j = (s.toMach.g x.aN).toNat % 2 ^ f.width) ∧
    (f.isInt = true → ∃ m, Retires (.vid x) x.len s m ∧ VFrame s m x.dN (groupRegs s f.width) ∧
      ∀ j, j < s.ctx.vlmax → Active s x.pre j → elemAt m.ctx x.dN f.width j = j % 2 ^ f.width) ∧
    (f.isInt = true → ∃ m, Retires (.viota x) x.len s m ∧ VFrame s m x.dN (groupRegs s f.width) ∧
      ∀ j, j < s.ctx.vlmax → Active s x.pre j → elemAt m.ctx x.dN f.width j =
        ((List.range j).filter fun k => (s.toMach.p x.aN).getLsbD k).length % 2 ^ f.width)

/-- R116, R130: element j of a source group as a permute reads it: zero in the block tail and from vlmax on. -/
def Sys2Proof.Claim.permElem (s : State) (r w j : Nat) : Nat :=
  if j < s.ctx.vl ∨ (s.ctx.vl + blockPad s.ctx.blk s.ctx.vl ≤ j ∧ j < s.ctx.vlmax) then elemAt s.ctx r w j else 0

/-- R129, R130: what an active element j takes. -/
def Sys2Proof.Claim.PermRule (i : Instr) (s : State) (x : F2) (w j : Nat) : Nat :=
  let a := permElem s x.aN w
  let first := fun k => elemAt s.ctx (if x.w then x.aN else x.dN) w k
  let second := fun k => elemAt s.ctx (if x.w then x.eN else x.aN) w k
  match i with
  | .vmov _ => elemAt s.ctx x.aN w j
  | .vslup _ => a (j - x.u)
  | .vsldn _ => a (j + x.u)
  | .vrgat _ => a (elemAt s.ctx x.eN w j)
  | .vrev _ => a (s.ctx.vl - 1 - j)
  | .vsl1up _ => if j = 0 then (s.toMach.g x.eN).toNat % 2 ^ w else a (j - 1)
  | .vsl1dn _ => if j + 1 = s.ctx.vl then (s.toMach.g x.eN).toNat % 2 ^ w else a (j + 1)
  | .vzip _ => if j % 2 = 0 then first (j / 2) else second ((j - 1) / 2)
  | .vunzip _ =>
      let k := 2 * j + x.pre.sub
      if k < s.ctx.vl then first k else if k < 2 * s.ctx.vl then second (k - s.ctx.vl) else 0
  | _ => 0

/-- The instructions that move elements, with the formats that they accept and whether e names a register group. -/
def Sys2Proof.Claim.permutes : List ((F2 → Instr) × (Fmt → Bool) × Bool) :=
  [(.vmov, inM4, false), (.vslup, inM, false), (.vsldn, inM, false), (.vrgat, inM, true), (.vrev, inM, false), (.vsl1up, inM, false),
    (.vsl1dn, inM, false), (.vzip, inM, true), (.vunzip, inM, true)]

/-- R129, R130, R116: the permutes and `vmov`, for every format that they accept: an active element takes the source element that the table
names, `vslup` leaves those below its count, every other element is what R116 says, and no flag is raised; `vcompress` packs the
active elements downward; `vmerge` selects between its sources below vl. That they write zero to a block tail is the model's reading (log entry 108). -/
def Sys2Proof.Claim.Permutes : Prop :=
  ∀ (x : F2) (s : State) (f : Fmt), s.ctx.fmt = some f → Plain s.toMach → s.ctx.vl ≤ s.ctx.vlmax →
    Aligned s x.dN → Aligned s x.aN → x.dN + groupRegs s f.width ≤ 32 →
    (∀ c ∈ permutes, c.2.1 f = true → (c.2.2 = true → (x.w = true ∨ c.1 x = .vrgat x) → Aligned s x.eN) →
      let low := fun j => c.1 x = .vslup x ∧ j < x.u ∧ j < s.ctx.vl
      ∃ m, Retires (c.1 x) x.len s m ∧ VFrame s m x.dN (groupRegs s f.width) ∧ m.ctx.fpflags = s.ctx.fpflags ∧
        (s.ctx.vl = 0 → m.ctx.v = s.ctx.v) ∧
        ∀ j, j < s.ctx.vlmax → s.ctx.vl ≠ 0 →
          (low j → elemAt m.ctx x.dN f.width j = elemAt s.ctx x.dN f.width j) ∧
          (¬ low j → Active s x.pre j → elemAt m.ctx x.dN f.width j = PermRule (c.1 x) s x f.width j) ∧
          (¬ low j → ¬ Active s x.pre j → OtherElem s x.pre j (elemAt s.ctx x.dN f.width j) (elemAt m.ctx x.dN f.width j))) ∧
    (inM f = true → let l := activeElems s x.pre x.aN f.width
      ∃ m, Retires (.vcompress x) x.len s m ∧ VFrame s m x.dN (groupRegs s f.width) ∧ m.ctx.fpflags = s.ctx.fpflags ∧
        (s.ctx.vl = 0 → m.ctx.v = s.ctx.v) ∧
        ∀ j, j < s.ctx.vlmax → s.ctx.vl ≠ 0 →
          (∀ v, l[j]? = some v → elemAt m.ctx x.dN f.width j = v) ∧
          (l[j]? = none → OtherElem s x.pre j (elemAt s.ctx x.dN f.width j) (elemAt m.ctx x.dN f.width j))) ∧
    (inM4 f = true → (x.w = true → Aligned s x.eN) →
      ∃ m, Retires (.vmerge x) x.len s m ∧ VFrame s m x.dN (groupRegs s f.width) ∧ m.ctx.fpflags = s.ctx.fpflags ∧
        (s.ctx.vl = 0 → m.ctx.v = s.ctx.v) ∧
        ∀ j, j < s.ctx.vlmax → s.ctx.vl ≠ 0 →
          (j < s.ctx.vl → elemAt m.ctx x.dN f.width j = if s.toMach.admits x.pre j then elemAt s.ctx x.aN f.width j
            else elemAt s.ctx (if x.w then x.eN else x.dN) f.width j) ∧
          (s.ctx.vl ≤ j → OtherElem s x.pre j (elemAt s.ctx x.dN f.width j) (elemAt m.ctx x.dN f.width j)))

/-- R129: `vext` gives element U, extended as the format is signed, to g(d); `vins` replaces element U by the low bits of g(a); an
index at or beyond vlmax is illegal. -/
def Sys2Proof.Claim.VectorElements : Prop :=
  ∀ (x : F2) (s : State) (f : Fmt), s.ctx.fmt = some f → inM4 f = true → Plain s.toMach →
    (Aligned s x.aN →
      (x.u < s.ctx.vlmax → ∃ m r, Retires (.vext x) x.len s (m.setG x.dN r) ∧ VFrame s m 0 0 ∧ m.ctx.fpflags = s.ctx.fpflags ∧
        if f.isInt = true ∧ f ≠ .uint8 then r.toInt = signed f.width (elemAt s.ctx x.aN f.width x.u)
        else r.toNat = elemAt s.ctx x.aN f.width x.u) ∧
      (s.ctx.vlmax ≤ x.u → Traps (.vext x) x.len s { cause := 0x01, reason := 0x0C, value := BitVec.ofNat 64 x.u })) ∧
    (Aligned s x.dN →
      (x.u < s.ctx.vlmax → x.dN + groupRegs s f.width ≤ 32 →
        ∃ m, Retires (.vins x) x.len s m ∧ VFrame s m x.dN (groupRegs s f.width) ∧
          ∀ j, j < s.ctx.vlmax → elemAt m.ctx x.dN f.width j =
            if j = x.u then (s.toMach.g x.aN).toNat % 2 ^ f.width else elemAt s.ctx x.dN f.width j) ∧
      (s.ctx.vlmax ≤ x.u → Traps (.vins x) x.len s { cause := 0x01, reason := 0x0C, value := BitVec.ofNat 64 x.u }))

/-- R128: a compare of two elements of an integer format. -/
def Sys2Proof.Claim.CompareRule (i : Instr) (f : Fmt) (a b : Nat) : Prop := match i with
  | .vceq _ => iv f a = iv f b
  | .vcne _ => iv f a ≠ iv f b
  | .vclt _ => iv f a < iv f b
  | .vcle _ => iv f a ≤ iv f b
  | .vcgt _ => iv f b < iv f a
  | .vcge _ => iv f b ≤ iv f a
  | .vcltu _ => a < b
  | _ => False

/-- R128: a compare of two patterns of a floating-point format. -/
def Sys2Proof.Claim.FpCompareRule (i : Instr) (f : Fmt) (a b : Nat) : Prop := match i with
  | .vcne _ => FpNan f a ∨ FpNan f b ∨ fpUnits f a ≠ fpUnits f b
  | .vcun _ => FpNan f a ∨ FpNan f b
  | .vceq _ => ¬ FpNan f a ∧ ¬ FpNan f b ∧ fpUnits f a = fpUnits f b
  | .vclt _ => ¬ FpNan f a ∧ ¬ FpNan f b ∧ fpUnits f a < fpUnits f b
  | .vcle _ => ¬ FpNan f a ∧ ¬ FpNan f b ∧ fpUnits f a ≤ fpUnits f b
  | .vcgt _ => ¬ FpNan f a ∧ ¬ FpNan f b ∧ fpUnits f b < fpUnits f a
  | .vcge _ => ¬ FpNan f a ∧ ¬ FpNan f b ∧ fpUnits f b ≤ fpUnits f a
  | _ => False

/-- R128, R76: a compare that raises nv: a NaN where it orders, a signalling NaN where it does not. -/
def Sys2Proof.Claim.FpCompareInvalid (i : Instr) (f : Fmt) (a b : Nat) : Prop := match i with
  | .vclt _ => FpNan f a ∨ FpNan f b
  | .vcle _ => FpNan f a ∨ FpNan f b
  | .vcgt _ => FpNan f a ∨ FpNan f b
  | .vcge _ => FpNan f a ∨ FpNan f b
  | _ => FpSignalling f a ∨ FpSignalling f b

/-- R128, R19, R76: the compares retire for every format that they accept and change p(d) and sticky flags only: bit j of p(d) is the
relation for an active element, kept or zero for an inactive one below vl, zero from vl on; nv is set exactly by the elements that
raise it, and no other flag is. -/
def Obligations.VectorCompares : Prop :=
  ∀ c ∈ [(Instr.vceq, inIF), (.vcne, inIF), (.vclt, inIF), (.vcle, inIF), (.vcgt, inIF), (.vcge, inIF), (.vcltu, inI), (.vcun, inF)],
    ∀ (x : F2) (s : State) (f : Fmt), s.ctx.fmt = some f → c.2 f = true → Plain s.toMach → s.ctx.vl ≤ 1024 →
      Aligned s x.aN → (x.w = true → Aligned s x.eN) →
      ∃ (m : Mach) (r : PReg), Retires (c.1 x) x.len s (m.setP x.dN r) ∧ VFrame s m 0 0 ∧
        let a := fun j => elemAt s.ctx x.aN f.width j
        let b := fun j => elemAt s.ctx (if x.w then x.eN else x.aN) f.width j
        (∀ j,
          (Active s x.pre j → (r.getLsbD j = true ↔
            (f.isInt = true ∧ CompareRule (c.1 x) f (a j) (b j)) ∨ (f.isFloat = true ∧ FpCompareRule (c.1 x) f (a j) (b j)))) ∧
          (¬ Active s x.pre j → r.getLsbD j = if j < s.ctx.vl ∧ zeroing x.pre = false then (s.toMach.p x.dN).getLsbD j else false)) ∧
        ((∀ j, Active s x.pre j → ¬ (f.isFloat = true ∧ FpCompareInvalid (c.1 x) f (a j) (b j))) → m.ctx.fpflags = s.ctx.fpflags) ∧
        ((∃ j, Active s x.pre j ∧ f.isFloat = true ∧ FpCompareInvalid (c.1 x) f (a j) (b j)) → m.ctx.fpflags = s.ctx.fpflags ||| 1)

/-- R116, R133, R134, R138, R139: a destination group of another width than the source's is a whole number of registers, at most
eight, on its own boundary. -/
def Sys2Proof.Claim.WideDest (s : State) (d w wd total : Nat) : Prop :=
  if wd = w then Aligned s d else (wd * total + 4095) / 4096 ≤ 8 ∧ ((wd * total + 4095) / 4096 ≠ 0 → d % ((wd * total + 4095) / 4096) = 0)

/-- R133, R134, R138 to R140: conversions, narrowing, widening and block instructions retire for the formats that they accept and
change only the destination group and sticky flags. -/
def Sys2Proof.Claim.VectorConversions : Prop :=
  ∀ (x : F2) (s : State) (f : Fmt), s.ctx.fmt = some f → Plain s.toMach → Aligned s x.aN →
    let n := fun wd : Nat => (wd * s.ctx.vlmax + 4095) / 4096
    (inM4 f = true → WideDest s x.dN f.width (cvtTarget x.pre.sub).width s.ctx.vlmax →
      ∃ m, Retires (.vcvt x) x.len s m ∧ VFrame s m x.dN (n (cvtTarget x.pre.sub).width)) ∧
    (∀ g, widerFmt f = some g → WideDest s x.dN f.width g.width s.ctx.vlmax →
      ∃ m, Retires (.vwiden x) x.len s m ∧ VFrame s m x.dN (n g.width)) ∧
    (∀ g, narrowerFmt f = some g → WideDest s x.dN f.width g.width s.ctx.vlmax →
      ∃ m, Retires (.vnarrow x) x.len s m ∧ VFrame s m x.dN (n g.width)) ∧
    (halfWide f = true → x.u < f.width → WideDest s x.dN f.width (f.width / 2) s.ctx.vlmax → ∀ c ∈ [Instr.vnclip, .vnclipu],
      ∃ m, Retires (c x) x.len s m ∧ VFrame s m x.dN (n (f.width / 2))) ∧
    ((x.w = true → Aligned s x.eN) →
      (∀ g, macwDest f = some g → WideDest s x.dN f.width g.width s.ctx.vlmax →
        ∃ m, Retires (.vmacw x) x.len s m ∧ VFrame s m x.dN (n g.width)) ∧
      (∀ g, dotwDest f = some g → WideDest s x.dN f.width g.width s.ctx.vlmax →
        ∃ m, Retires (.vdotw x) x.len s m ∧ VFrame s m x.dN (n g.width))) ∧
    (blockFmt f = true → s.ctx.blk = 8 →
      (∃ m, Retires (.vbmax x) x.len s m ∧ VFrame s m x.dN 1) ∧
      (WideDest s x.dN f.width 4 s.ctx.vlmax → ∃ m, Retires (.vbscale x) x.len s m ∧ VFrame s m x.dN (n 4)))

/-- R134, R138, R116: the values of the conversions that only widen, narrow or clip: on integer formats `vwiden` keeps the value, `vnarrow` the
low bits, `vnclip` and `vnclipu` the shifted and rounded value saturated to half the width; on floating-point formats `vwiden` keeps
the value exactly. Other elements of the destination, numbered in its own width, are what R116 says. -/
def Sys2Proof.Claim.ConversionValues : Prop :=
  ∀ (x : F2) (s : State) (f : Fmt), s.ctx.fmt = some f → Plain s.toMach → Aligned s x.aN →
    let a := fun j => elemAt s.ctx x.aN f.width j
    let n := fun wd : Nat => (wd * s.ctx.vlmax + 4095) / 4096
    let shifted := fun v : Int => if x.u = 0 then v else (v + 2 ^ (x.u - 1)) / 2 ^ x.u
    let gives := fun (c : F2 → Instr) (wd : Nat) (rule : Nat → Nat → Prop) =>
      WideDest s x.dN f.width wd s.ctx.vlmax → x.dN + n wd ≤ 32 →
      ∃ m, Retires (c x) x.len s m ∧ VFrame s m x.dN (n wd) ∧ (s.ctx.vl = 0 → m.ctx.v = s.ctx.v) ∧
        (f.isInt = true → m.ctx.fpflags = s.ctx.fpflags) ∧
        ∀ j, j < s.ctx.vlmax → s.ctx.vl ≠ 0 →
          (Active s x.pre j → rule (a j) (elemAt m.ctx x.dN wd j)) ∧
          (¬ Active s x.pre j → OtherElem s x.pre j (elemAt s.ctx x.dN wd j) (elemAt m.ctx x.dN wd j))
    (∀ g, widerFmt f = some g → gives .vwiden g.width fun p r =>
      (f.isInt = true → iv g r = iv f p) ∧
      (f.isInt = false → (FpFinite f p → FpFinite g r ∧ fpUnits g r * fpOne f = fpUnits f p * fpOne g ∧ (FpNeg g r ↔ FpNeg f p)) ∧
        (FpInf f p → FpInf g r ∧ (FpNeg g r ↔ FpNeg f p)) ∧ (FpNan f p → r = g.nan))) ∧
    (f.isInt = true → ∀ g, narrowerFmt f = some g → gives .vnarrow g.width fun p r => r = p % 2 ^ g.width) ∧
    (halfWide f = true → x.u < f.width →
      gives .vnclip (f.width / 2) (fun p r =>
        Sat (-2 ^ (f.width / 2 - 1)) (2 ^ (f.width / 2 - 1) - 1) (shifted (signed f.width p)) (signed (f.width / 2) r)) ∧
      gives .vnclipu (f.width / 2) fun p r => Sat 0 (2 ^ (f.width / 2) - 1) (shifted p) r)

/-- R140, R116: `vbdeq`, whose source holds codes of four bits and is held to the register group, its wider destination to the size
of its own, retires and changes only its destination group and sticky flags. -/
def Sys2Proof.Claim.BlockDequantise : Prop :=
  ∀ (x : F2) (s : State) (f : Fmt), s.ctx.fmt = some f → deqFmt f = true → s.ctx.blk = 8 → Plain s.toMach → Aligned s x.aN →
    (groupRegs s f.width ≠ 0 → x.dN % groupRegs s f.width = 0) →
    ∃ m, Retires (.vbdeq x) x.len s m ∧ VFrame s m x.dN (groupRegs s f.width)

/-- R142: where element i lies: unit stride, an unsigned stride of g(e) bytes, an index of 32 bits, or the base itself. -/
def Sys2Proof.Claim.elemAddr (s : State) (x : F2) (form : AddrForm) (w i : Nat) : Word := match form with
  | .unit => addrOf s x + BitVec.ofNat 64 (w * i / 8)
  | .strided => addrOf s x + BitVec.ofNat 64 i * s.toMach.g x.eN
  | .indexed => addrOf s x + BitVec.ofNat 64 (elemAt s.ctx x.eN 32 i)
  | .single => addrOf s x

/-- R142: the index group of an indexed form lies on its boundary. -/
def Sys2Proof.Claim.IndexAligned (s : State) (x : F2) (form : AddrForm) : Prop :=
  form = .indexed → groupRegs s 32 ≠ 0 → x.eN % groupRegs s 32 = 0

/-- R142 to R145: vector loads from the process's own tile, every active element readable: an active element takes the bytes at its
address, any other what R116 says; only the destination group changes, and no byte of memory. -/
def Sys2Proof.Claim.VectorLoads : Prop :=
  ∀ c ∈ [(Instr.vld, AddrForm.unit), (.vlds, .strided), (.vldx, .indexed), (.vldff, .unit), (.vldbc, .single)],
    ∀ (x : F2) (s : State) (f : Fmt), s.ctx.fmt = some f → inM f = true → Plain s.toMach → Settled s.toMach →
      s.ctx.vl ≤ s.ctx.vlmax → Aligned s x.dN → IndexAligned s x c.2 → x.dN + groupRegs s f.width ≤ 32 →
      (s.toMach.g x.aN).toNat / 2 ^ 62 ≠ 3 →
      (∀ j, Active s x.pre j → Reaches s (elemAddr s x c.2 f.width j) (f.width / 8) true false) →
      ∃ m, Retires (c.1 x) x.len s m ∧ VFrame s m x.dN (groupRegs s f.width) ∧
        ∀ j, j < s.ctx.vlmax → s.ctx.vl ≠ 0 →
          (Active s x.pre j → elemAt m.ctx x.dN f.width j =
            Mem.nat s.mem (ownKey s (elemAddr s x c.2 f.width j)) (f.width / 8)) ∧
          (¬ Active s x.pre j → OtherElem s x.pre j (elemAt s.ctx x.dN f.width j) (elemAt m.ctx x.dN f.width j))

/-- R142 to R144, R147: vector stores to the process's own tile, every active element writable: they are on their way when the chain
retires, and it is the model's reading that they are performed (`ownStores`) before the process's next chain (log entry 94); then a byte holds what the last active element that covers it holds
there, every other byte reads as before; no vector register changes. -/
def Sys2Proof.Claim.VectorStores : Prop :=
  ∀ c ∈ [(Instr.vst, AddrForm.unit), (.vsts, .strided), (.vstx, .indexed)],
    ∀ (x : F2) (s : State) (f : Fmt), s.ctx.fmt = some f → inM f = true → Plain s.toMach → Settled s.toMach →
      Memory.wf s.mem = true → s.bad = [] → s.ctx.vl ≤ s.ctx.vlmax → Aligned s x.dN → IndexAligned s x c.2 →
      (s.toMach.g x.aN).toNat / 2 ^ 62 ≠ 3 →
      (∀ j, Active s x.pre j → Reaches s (elemAddr s x c.2 f.width j) (f.width / 8) false true) →
      ∃ m, Retires (c.1 x) x.len s m ∧ Memory.wf m.ownStores.mem = true ∧
        m = { s.toMach with ctx := m.ctx, tiles := m.tiles, tileReqs := m.tileReqs, fresh := m.fresh } ∧ m.ctx = { s.ctx with diag := m.ctx.diag } ∧
        (∀ k, (∀ j, Active s x.pre j → k < ownKey s (elemAddr s x c.2 f.width j) ∨
            ownKey s (elemAddr s x c.2 f.width j) + f.width / 8 ≤ k) → Mem.get m.ownStores.mem k = Mem.get s.mem k) ∧
        (∀ j, Active s x.pre j →
          (∀ i, Active s x.pre i → j < i → ownKey s (elemAddr s x c.2 f.width i) + f.width / 8 ≤ ownKey s (elemAddr s x c.2 f.width j) ∨
            ownKey s (elemAddr s x c.2 f.width j) + f.width / 8 ≤ ownKey s (elemAddr s x c.2 f.width i)) →
          Mem.nat m.ownStores.mem (ownKey s (elemAddr s x c.2 f.width j)) (f.width / 8) = elemAt s.ctx x.dN f.width j)

/-- R143, R144: the vector loads and stores of the tile spaces raise the trap of a global address: for a base in the global space, which is
the model's reading of element 0 (log entry 128: with no active element too, and behind the alignment of an active element 0); for an
active element of the strided, indexed and unit forms whose own address is global, behind the elements below it. -/
def Sys2Proof.Claim.VectorSpace : Prop :=
  ∀ c ∈ [((Instr.vld, AddrForm.unit), true, false), ((.vlds, .strided), true, false), ((.vldx, .indexed), true, false),
      ((.vldff, .unit), true, false), ((.vldbc, .single), true, false),
      ((.vst, .unit), false, true), ((.vsts, .strided), false, true), ((.vstx, .indexed), false, true)],
    ∀ (x : F2) (s : State) (f : Fmt), s.ctx.fmt = some f → inM f = true → Plain s.toMach → Settled s.toMach → s.bad = [] →
      Aligned s x.dN → IndexAligned s x c.1.2 →
      (∀ v : Word, (s.toMach.g x.aN).toNat / 2 ^ 62 = 3 →
        (Active s x.pre 0 → v = elemAddr s x c.1.2 f.width 0 ∧ v.toNat % (f.width / 8) = 0) → (¬ Active s x.pre 0 → v = addrOf s x) →
        Traps (c.1.1 x) x.len s { cause := 0x06, reason := 0x04, opnd := 5, value := v }) ∧
      (∀ j, c.1.2 ≠ .single → c.1.1 x ≠ .vldff x → (s.toMach.g x.aN).toNat / 2 ^ 62 ≠ 3 → Active s x.pre j →
        (elemAddr s x c.1.2 f.width j).toNat % (f.width / 8) = 0 → (elemAddr s x c.1.2 f.width j).toNat / 2 ^ 62 = 3 →
        (∀ i, i < j → Active s x.pre i → Reaches s (elemAddr s x c.1.2 f.width i) (f.width / 8) c.2.1 c.2.2) →
        Traps (c.1.1 x) x.len s { cause := 0x06, reason := 0x04, opnd := 5, value := elemAddr s x c.1.2 f.width j, elem := j })

/-! The matrix engine. -/

/-- R32: word s and word err of pair i of accumulator tile k. -/
def Sys2Proof.Claim.pairS (c : Ctx) (k i : Nat) : Nat := (c.z[k]?.getD 0).toNat / 2 ^ (64 * i) % 2 ^ 32
def Sys2Proof.Claim.pairErr (c : Ctx) (k i : Nat) : Nat := (c.z[k]?.getD 0).toNat / 2 ^ (64 * i + 32) % 2 ^ 32

/-- What a matrix instruction changes that writes accumulator tile d: that tile, sticky flags (none is cleared), the tile's queues and counts. -/
structure Sys2Proof.Claim.ZFrame (s : State) (m : Mach) (d : Nat) : Prop where
  rest  : m = { s.toMach with ctx := m.ctx, tiles := m.tiles }
  ctx   : m.ctx = { s.ctx with z := m.ctx.z, zBad := m.ctx.zBad, fpflags := m.ctx.fpflags }
  tiles : ∀ k, k ≠ d → m.ctx.z[k]? = s.ctx.z[k]?
  flags : m.ctx.fpflags &&& s.ctx.fpflags = s.ctx.fpflags

/-- R148, R327: the matrix state is on, tile d is allocated, and no accumulator holds poison. -/
structure Sys2Proof.Claim.MatrixReady (s : State) (d : Nat) : Prop where
  on    : s.ctx.mOn = true
  alloc : d < s.ctx.mN
  clean : ∀ k : Nat, s.ctx.zBad[k]?.getD 0 = 0

/-- R148, R149: `mxon n` within the process's allowance turns the state on with n tiles, keeping those that were and remain allocated
and clearing the others; n = 0, n above 32 and n above the allowance are illegal; `mxoff` clears all; `mzero` clears one tile. -/
def Sys2Proof.Claim.MatrixState : Prop :=
  ∀ (x : F2) (s : State),
    (1 ≤ x.aImm → x.aImm ≤ 32 → x.aImm ≤ s.ctx.mAllow →
      ∃ m, Retires (.mxon x) x.len s m ∧ m = { s.toMach with ctx := m.ctx } ∧
        m.ctx = { s.ctx with mOn := true, mN := x.aImm, z := m.ctx.z, zBad := m.ctx.zBad } ∧
        ∀ k i, k < 32 → i < 1024 →
          pairS m.ctx k i = (if s.ctx.mOn = true ∧ k < s.ctx.mN ∧ k < x.aImm then pairS s.ctx k i else 0) ∧
          pairErr m.ctx k i = (if s.ctx.mOn = true ∧ k < s.ctx.mN ∧ k < x.aImm then pairErr s.ctx k i else 0)) ∧
    (x.aImm = 0 ∨ 32 < x.aImm → Traps (.mxon x) x.len s { cause := 0x01, reason := 0x0C, value := BitVec.ofNat 64 x.aImm }) ∧
    (1 ≤ x.aImm → x.aImm ≤ 32 → s.ctx.mAllow < x.aImm →
      Traps (.mxon x) x.len s { cause := 0x01, reason := 0x0F, value := BitVec.ofNat 64 x.aImm }) ∧
    (∃ m, Retires (.mxoff x) x.len s m ∧ m = { s.toMach with ctx := m.ctx } ∧
      m.ctx = { s.ctx with mOn := false, mN := 0, z := m.ctx.z, zBad := m.ctx.zBad } ∧ ∀ k, k < 32 → m.ctx.z[k]? = some 0) ∧
    (s.ctx.mOn = true → x.dN < s.ctx.mN → x.dN < 32 →
      ∃ m, Retires (.mzero x) x.len s m ∧ ZFrame s m x.dN ∧ m.ctx.z[x.dN]? = some 0)

/-- R148: with the matrix state off, the instructions of the matrix engine take the matrix-state trap; so they do for a tile that is
not allocated, with tval its number and the operand d, or a where that names the tile. That the operand is named with the state off too
is the model's reading (log entry 137). -/
def Sys2Proof.Claim.MatrixStateTraps : Prop :=
  ∀ (x : F2) (s : State),
    (∀ c ∈ [Instr.mzero, .mop, .mopn, .mfold, .macst, .macld, .mvrow, .mvcol],
      (s.ctx.mOn = false → ∃ v, Traps (c x) x.len s { cause := 0x0B, reason := 0x01, opnd := 1, value := v }) ∧
      (s.ctx.mOn = true → s.ctx.mN ≤ x.dN →
        Traps (c x) x.len s { cause := 0x0B, reason := 0x02, opnd := 1, value := BitVec.ofNat 64 x.dN })) ∧
    ∀ c ∈ [Instr.mrowv, .mcolv],
      (s.ctx.mOn = false → ∃ v, Traps (c x) x.len s { cause := 0x0B, reason := 0x01, opnd := 2, value := v }) ∧
      (s.ctx.mOn = true → s.ctx.mN ≤ x.aN →
        Traps (c x) x.len s { cause := 0x0B, reason := 0x02, opnd := 2, value := BitVec.ofNat 64 x.aN })

/-- R153: is pair 32i + j enabled by the governing predicate: bit i for the row, bit 32 + j for the column. -/
def Sys2Proof.Claim.PairOn (s : State) (p : Pre) (n : Nat) : Prop := match p.pp with
  | none => True
  | some f => (s.toMach.p f.pred.toNat).getLsbD (n / 32) = !f.inv ∧ (s.toMach.p f.pred.toNat).getLsbD (32 + n % 32) = !f.inv

/-- R151 to R153, R79: `mop` and `mopn` retire for every matrix format, with the operands that fp4 asks for, and change only their
tile and sticky flags; on int8 an enabled pair's s takes the sixteen products of row i of v(a) and row j of v(e), added or
subtracted modulo 2^32, with err zero, and any other pair stays. -/
def Sys2Proof.Claim.OuterProducts : Prop :=
  ∀ c ∈ [(Instr.mop, false), (.mopn, true)], ∀ (x : F2) (s : State) (f : Fmt),
    MatrixReady s x.dN → x.dN < 32 → s.ctx.fmt = some f → matrixFmt f = true → Plain s.toMach →
    (if f = .fp4 then x.pre.px ≠ [] ∧ x.u < 32 ∧ x.aN % 2 = 0 else x.pre.px = []) →
    ∃ m, Retires (c.1 x) x.len s m ∧ ZFrame s m x.dN ∧
      (f = .int8 → ∀ n, n < 1024 →
        (PairOn s x.pre n →
          let sum : Int := ((List.range 16).map fun k =>
            signed 8 (elemAt s.ctx x.aN 8 (16 * (n / 32) + k)) *
              signed 8 (elemAt s.ctx (if x.w then x.eN else x.aN) 8 (16 * (n % 32) + k))).sum
          (pairS m.ctx x.dN n : Int) = (if c.2 then (pairS s.ctx x.dN n : Int) - sum else pairS s.ctx x.dN n + sum) % 2 ^ 32 ∧
          pairErr m.ctx x.dN n = 0) ∧
        (¬ PairOn s x.pre n → pairS m.ctx x.dN n = pairS s.ctx x.dN n ∧ pairErr m.ctx x.dN n = pairErr s.ctx x.dN n))

/-- R150, R82: `mfold` clears err of every pair, after adding it into s, for the compensated formats; for int8 and f64s the tile stays. -/
def Sys2Proof.Claim.MatrixFold : Prop :=
  ∀ (x : F2) (s : State), MatrixReady s x.dN → x.dN < 32 →
    ∃ m, Retires (.mfold x) x.len s m ∧ ZFrame s m x.dN ∧ m.ctx.fpflags = s.ctx.fpflags ∧
      (s.ctx.fmt = some .int8 ∨ s.ctx.fmt = some .f64s → m.ctx.z = s.ctx.z) ∧
      (s.ctx.fmt ≠ some .int8 → s.ctx.fmt ≠ some .f64s → ∀ n, n < 1024 →
        pairErr m.ctx x.dN n = 0 ∧ pairS m.ctx x.dN n = fold32 (pairS s.ctx x.dN n) (pairErr s.ctx x.dN n) % 2 ^ 32)

/-- R154: the pair that entry j of row or column n is. -/
def Sys2Proof.Claim.slicePair (row : Bool) (n j : Nat) : Nat := if row then 32 * n + j else 32 * j + n

/-- R154: what part `sub` of a pair reads as, and how wide an element of the slice is. -/
def Sys2Proof.Claim.slicePart (c : Ctx) (k n : Nat) (sub : Nat) : Nat := match sub with
  | 0 => fold32 (pairS c k n) (pairErr c k n) % 2 ^ 32
  | 1 => pairS c k n
  | 2 => pairErr c k n
  | _ => pairS c k n + 2 ^ 32 * pairErr c k n
def Sys2Proof.Claim.sliceWidth (sub : Nat) : Nat := if sub = 3 then 64 else 32

/-- R154, R82: `mrowv` and `mcolv` copy a row or column of an accumulator tile, as its fold, its s, its err or both, into the first 32
elements of a vector register, whose other bytes stay; `mvrow` and `mvcol` write s with err cleared, s, err or both of a row or column
from a vector register, and no other pair. A row or column number above 31 is illegal. Nothing else changes. -/
def Sys2Proof.Claim.MatrixSlices : Prop :=
  ∀ (x : F2) (s : State), Plain s.toMach → x.pre.sub < 4 → x.dN < 32 →
    (MatrixReady s x.aN → ∀ c ∈ [(Instr.mrowv, true), (.mcolv, false)],
      (x.u < 32 → ∃ m, Retires (c.1 x) x.len s m ∧ VFrame s m x.dN 1 ∧ m.ctx.fpflags = s.ctx.fpflags ∧
        ∀ j, j < 4096 / sliceWidth x.pre.sub → elemAt m.ctx x.dN (sliceWidth x.pre.sub) j =
          if j < 32 then slicePart s.ctx x.aN (slicePair c.2 x.u j) x.pre.sub
          else elemAt s.ctx x.dN (sliceWidth x.pre.sub) j) ∧
      (32 ≤ x.u → Traps (c.1 x) x.len s { cause := 0x01, reason := 0x0C, value := BitVec.ofNat 64 x.u })) ∧
    (MatrixReady s x.dN → ∀ c ∈ [(Instr.mvrow, true), (.mvcol, false)],
      (x.u < 32 → ∃ m, Retires (c.1 x) x.len s m ∧ ZFrame s m x.dN ∧ m.ctx.fpflags = s.ctx.fpflags ∧
        (∀ j, j < 32 →
          let n := slicePair c.2 x.u j
          pairS m.ctx x.dN n = (match x.pre.sub with
            | 2 => pairS s.ctx x.dN n
            | 3 => elemAt s.ctx x.aN 64 j % 2 ^ 32
            | _ => elemAt s.ctx x.aN 32 j) ∧
          pairErr m.ctx x.dN n = (match x.pre.sub with
            | 0 => 0
            | 1 => pairErr s.ctx x.dN n
            | 2 => elemAt s.ctx x.aN 32 j
            | _ => elemAt s.ctx x.aN 64 j / 2 ^ 32)) ∧
        ∀ n, n < 1024 → (∀ j, j < 32 → n ≠ slicePair c.2 x.u j) →
          pairS m.ctx x.dN n = pairS s.ctx x.dN n ∧ pairErr m.ctx x.dN n = pairErr s.ctx x.dN n) ∧
      (32 ≤ x.u → Traps (c.1 x) x.len s { cause := 0x01, reason := 0x0C, value := BitVec.ofNat 64 x.u }))

/-- R155: bytes of an element of a tile format, and where element n lies: rows g(e) bytes apart, or packed without PR.w. -/
def Sys2Proof.Claim.tileElem (s : State) (x : F2) (n : Nat) : Word :=
  addrOf s x + BitVec.ofNat 64 (n / 32) * (if x.w then s.toMach.g x.eN else BitVec.ofNat 64 (32 * tileBytes x.pre.sub)) +
    BitVec.ofNat 64 (n % 32 * tileBytes x.pre.sub)

/-- R155, R82: what `macst` writes of pair n: the fold, both words, s as it is, or s and err summed and rounded once. -/
def Sys2Proof.Claim.tileValue (s : State) (x : F2) (n : Nat) : Nat :=
  let p := (pairS s.ctx x.dN n, pairErr s.ctx x.dN n)
  match x.pre.sub with
  | 0 => fold32 p.1 p.2 % 2 ^ 32
  | 1 => p.1 + 2 ^ 32 * p.2
  | 6 => p.1
  | sub => (storedPair sub s.ctx.rm (s.ctx.draw n) p).1 % 2 ^ (8 * tileBytes sub)

/-- R155: the pair that `macld` makes of the bytes of an element: both words, the value with err cleared, or the value converted. -/
def Sys2Proof.Claim.loadedWords (sub v : Nat) : Nat × Nat := match sub with
  | 0 => (v, 0)
  | 1 => (v % 2 ^ 32, v / 2 ^ 32)
  | 6 => (v, 0)
  | _ => (loadedPair sub v).1

/-- R155, R156: `macst` and `macld` with every enabled element on the process's own tile: `macst` writes every enabled element's value
to its bytes and no other byte; `macld` sets every enabled pair of its tile from its bytes and no other pair. A base in the global space is
a permission trap. It is the model's reading that formats 0, 1 and 6 raise no flag (log entry 30), that the stores are performed before the
process's next chain (`ownStores`, log entry 94), and that the trap of the base comes behind the alignment of an enabled element 0 (log
entry 128). -/
def Sys2Proof.Claim.MatrixTileMoves : Prop :=
  ∀ (x : F2) (s : State), MatrixReady s x.dN → x.dN < 32 → x.pre.sub < 7 → Plain s.toMach →
    ((s.toMach.g x.aN).toNat / 2 ^ 62 = 3 → (PairOn s x.pre 0 → (addrOf s x).toNat % tileBytes x.pre.sub = 0) → ∀ c ∈ [Instr.macst, .macld],
      Traps (c x) x.len s { cause := 0x06, reason := 0x04, opnd := 5, value := addrOf s x }) ∧
    (Settled s.toMach → s.bad = [] → Memory.wf s.mem = true → (s.toMach.g x.aN).toNat / 2 ^ 62 ≠ 3 →
      ((∀ n, n < 1024 → PairOn s x.pre n → Reaches s (tileElem s x n) (tileBytes x.pre.sub) false true) →
        ∃ m, Retires (.macst x) x.len s m ∧ m = { s.toMach with ctx := m.ctx, tiles := m.tiles, tileReqs := m.tileReqs, fresh := m.fresh } ∧
          m.ctx = { s.ctx with fpflags := m.ctx.fpflags } ∧ m.ctx.fpflags &&& s.ctx.fpflags = s.ctx.fpflags ∧
          (x.pre.sub ∈ [0, 1, 6] → m.ctx.fpflags = s.ctx.fpflags) ∧ Memory.wf m.ownStores.mem = true ∧
          (∀ n, n < 1024 → PairOn s x.pre n →
            (∀ i, i < 1024 → PairOn s x.pre i → n < i →
              ownKey s (tileElem s x i) + tileBytes x.pre.sub ≤ ownKey s (tileElem s x n) ∨
              ownKey s (tileElem s x n) + tileBytes x.pre.sub ≤ ownKey s (tileElem s x i)) →
            Mem.nat m.ownStores.mem (ownKey s (tileElem s x n)) (tileBytes x.pre.sub) = tileValue s x n) ∧
          (∀ k, (∀ n, n < 1024 → PairOn s x.pre n → k < ownKey s (tileElem s x n) ∨
            ownKey s (tileElem s x n) + tileBytes x.pre.sub ≤ k) → Mem.get m.ownStores.mem k = Mem.get s.mem k)) ∧
      ((∀ n, n < 1024 → PairOn s x.pre n → Reaches s (tileElem s x n) (tileBytes x.pre.sub) true false) →
        ∃ m, Retires (.macld x) x.len s m ∧ ZFrame s m x.dN ∧ (x.pre.sub ∈ [0, 1, 6] → m.ctx.fpflags = s.ctx.fpflags) ∧
          ∀ n, n < 1024 →
            (PairOn s x.pre n → (pairS m.ctx x.dN n, pairErr m.ctx x.dN n) =
              loadedWords x.pre.sub (Mem.nat s.mem (ownKey s (tileElem s x n)) (tileBytes x.pre.sub))) ∧
            (¬ PairOn s x.pre n → pairS m.ctx x.dN n = pairS s.ctx x.dN n ∧ pairErr m.ctx x.dN n = pairErr s.ctx x.dN n)))

/-! Streams, slide windows and copies. -/

/-- R38, R183: a block of n bytes in the process's own local memory, read or written through its own windows, without poison. -/
structure Sys2Proof.Claim.OwnBlock (s : State) (a : Word) (align n : Nat) (rd wr : Bool) : Prop where
  here    : a.toNat < 2 ^ 24
  aligned : a.toNat % align = 0
  inside  : a.toNat + n ≤ 0x180000
  granted : OwnWindow s a.toNat n rd wr
  clean   : ∀ j, j < n → unitOf (ownKey s a + j) ∉ s.bad

/-- R175: the descriptor of a binding: what it binds, in which direction, and its id. -/
def Sys2Proof.Claim.StreamDesc (w : Word) (kind : SKind) (sink : Bool) (id : Nat) : Prop :=
  w.toNat = id * 2 ^ 32 + (match kind with | .chan => 0 | .pattern => 4 | .reply => 8) + (if sink then 2 else 1) ∧
  match kind with
  | .chan => id < 2 ^ 18
  | .pattern => id < 2 ^ 24 ∧ id % 64 = 0 ∧ sink = false
  | .reply => id = 0 ∧ sink = false

/-- R107, R176: may the process bind the endpoint of a vector channel. -/
def Sys2Proof.Claim.MayBind (s : State) (id : Nat) (sink : Bool) : Prop :=
  (∃ c, s.toMach.chan id = some c ∧ c.decl.vector = true ∧ (if sink then c.decl.wproc else c.decl.rproc) = s.ctx.idx.toNat) ∧
  (∀ y ∈ s.ctx.streams.toList, ¬ (y.on = true ∧ y.kind = .chan ∧ y.sink = sink ∧ bitsAt y.desc.toNat 32 18 = id)) ∧
  some { kind := .chan, write := sink, id := id } ∉ s.ctx.q.toList

/-- R176, R178: the machine `b` with stream register r in the stream state y, reading zero. -/
structure Sys2Proof.Claim.StreamSet (b m : Mach) (r : Nat) (y : Stream) : Prop where
  rest   : m = { b with ctx := { b.ctx with streams := m.ctx.streams, v := m.ctx.v, vBad := m.ctx.vBad } }
  stream : m.ctx.stream (r - 24) = y
  others : ∀ j, j ≠ r - 24 → m.ctx.stream j = b.ctx.stream j
  zero   : m.ctx.vr r = 0 ∧ m.ctx.vBad[r]?.getD 0 = 0
  regs   : ∀ k, k ≠ r → m.ctx.vr k = b.ctx.vr k ∧ m.ctx.vBad[k]?.getD 0 = b.ctx.vBad[k]?.getD 0

/-- R178, R109: `sstop.close` with its channel: the token that closes it enters flight where the channel is open with a free slot;
under the discard policy of an exited reader it is dropped; the chain waits for a slot; a closed channel and an exited reader trap. -/
def Sys2Proof.Claim.StopClose (x : F2) (s : State) (id : Nat) (c : Chan) : Prop :=
  (c.closed = false → c.rExited = false → c.rebind = false → 0 < c.free →
    ∃ m, Retires (.sstopClose x) x.len s m ∧ StreamSet (s.toMach.updChan id fun c =>
      { c with free := c.free - 1, flight := c.flight ++ [.eos], pushes := (c.pushes + 1) % 2 ^ 32
               check := foldTok c.check .eos, closed := true }) m x.dN {}) ∧
  (c.closed = false → c.rExited = true → c.decl.discard = true →
    ∃ m, Retires (.sstopClose x) x.len s m ∧ StreamSet (s.toMach.updChan id fun c => { c with closed := true }) m x.dN {}) ∧
  (c.closed = false → c.rExited = false → (c.free = 0 ∨ c.rebind = true) → Waits (.sstopClose x) s { kind := .write, ref := id }) ∧
  (c.closed = false → c.rExited = true → c.decl.discard = false →
    Traps (.sstopClose x) x.len s { cause := 0x09, reason := 0x01, opnd := 1, value := BitVec.ofNat 64 id, ref := id }) ∧
  (c.closed = true →
    Traps (.sstopClose x) x.len s { cause := 0x09, reason := 0x02, opnd := 1, value := BitVec.ofNat 64 id, ref := id })

/-- R174 to R178: `sset` puts v24 to v31 into stream mode: on a vector channel endpoint that the process may bind, on a pattern block
that passes the checks of a copy, or for near-bank replies; any other descriptor, a register in stream mode and an endpoint that it may
not bind trap. `sstop` returns the register to ordinary mode, waits for near-bank replies on their way and discards those that came, and
does nothing to an ordinary register. `sstop.close` first closes its channel; on anything but a channel sink it traps. The register reads
zero behind each, and nothing else changes. -/
def Sys2Proof.Claim.StreamMode : Prop :=
  ∀ (x : F2) (s : State), 24 ≤ x.dN → x.dN < 32 →
    let w := s.toMach.g x.aN
    let y := s.ctx.stream (x.dN - 24)
    (s.ctx.streamOn x.dN = false →
      (∀ id sink, StreamDesc w .chan sink id → MayBind s id sink →
        ∃ m, Retires (.sset x) x.len s m ∧ StreamSet s.toMach m x.dN { on := true, sink := sink, kind := .chan, desc := w }) ∧
      (StreamDesc w .reply false 0 →
        ∃ m, Retires (.sset x) x.len s m ∧ StreamSet s.toMach m x.dN { on := true, kind := .reply, desc := w }) ∧
      (∀ off, StreamDesc w .pattern false off →
        let d := Mem.nat s.mem (ownKey s (BitVec.ofNat 64 off)) 256
        OwnBlock s (BitVec.ofNat 64 off) 64 256 true false → copyFields d 0 = true → (∀ y ∈ copyAligned d 0, y.1 % y.2.1 = 0) →
        Settled s.toMach →
        ∃ m, Retires (.sset x) x.len s m ∧
          StreamSet s.toMach m x.dN { on := true, kind := .pattern, desc := w, block := BitVec.ofNat 2048 d })) ∧
    (s.ctx.streamOn x.dN = true ∨ (∀ kind sink id, ¬ StreamDesc w kind sink id) ∨
        (∃ id sink, StreamDesc w .chan sink id ∧ ¬ MayBind s id sink) →
      Traps (.sset x) x.len s { cause := 0x08, reason := 0x03, opnd := 2, value := w }) ∧
    (s.ctx.streamOn x.dN = false → Retires (.sstop x) x.len s s.toMach) ∧
    (s.ctx.streamOn x.dN = true → y.kind ≠ .reply → ∃ m, Retires (.sstop x) x.len s m ∧ StreamSet s.toMach m x.dN {}) ∧
    (s.ctx.streamOn x.dN = true → y.kind = .reply →
      ((∀ n ∈ s.nears, n.proc ≠ s.toMach.self) → ∃ m, Retires (.sstop x) x.len s m ∧
        StreamSet { s.toMach with ctx := { s.ctx with replies := [] } } m x.dN {}) ∧
      ((∃ n ∈ s.nears, n.proc = s.toMach.self) → Waits (.sstop x) s { kind := .engine })) ∧
    (∀ c, s.ctx.sinkOn x.dN = true → y.kind = .chan → s.toMach.chan (bitsAt y.desc.toNat 32 18) = some c → Settled s.toMach →
      StopClose x s (bitsAt y.desc.toNat 32 18) c) ∧
    (s.ctx.sinkOn x.dN = false ∨ y.kind ≠ .chan →
      Traps (.sstopClose x) x.len s { cause := 0x08, reason := 0x05, opnd := 1, value := BitVec.ofNat 64 x.dN })

/-- R17, R117, R292, R109: `vmov` from a stream source takes the head token of its channel as the register's value, once, and sends a
slot return; it waits while the channel has none, and an end of stream traps and stays; `vmov` into a stream sink pushes the register
as a token, and waits for a slot. -/
def Sys2Proof.Claim.StreamMoves : Prop :=
  ∀ (x : F2) (s : State) (f : Fmt) (c : Chan),
    s.ctx.fmt = some f → inM f = true → s.ctx.grp = 1 → s.ctx.vlmax = 4096 / f.width → s.ctx.vl = s.ctx.vlmax → x.pre.pp = none →
    s.ctx.rm ≠ 5 → s.ctx.fptrap = 0 → (∀ r : Nat, s.ctx.vBad[r]?.getD 0 = 0) → x.dN < 32 → x.aN < 32 →
    (∀ d r, s.ctx.streamOn x.dN = false → s.ctx.streamOn x.aN = true → s.ctx.sinkOn x.aN = false →
      (s.ctx.stream (x.aN - 24)).kind = .chan → s.toMach.chan (bitsAt (s.ctx.stream (x.aN - 24)).desc.toNat 32 18) = some c →
      c.buf = .vector d :: r → c.rebind = false →
      ∃ m, Retires (.vmov x) x.len s m ∧ m.ctx.vr x.dN = d ∧ (∀ k, k ≠ x.dN → m.ctx.vr k = s.ctx.vr k) ∧
        m.chan (bitsAt (s.ctx.stream (x.aN - 24)).desc.toNat 32 18) =
          some { c with buf := c.buf.drop 1, returns := c.returns + 1, inTile := c.inTile - 1 }) ∧
    (s.ctx.streamOn x.dN = false → s.ctx.streamOn x.aN = true → s.ctx.sinkOn x.aN = false →
      (s.ctx.stream (x.aN - 24)).kind = .chan → s.toMach.chan (bitsAt (s.ctx.stream (x.aN - 24)).desc.toNat 32 18) = some c →
      (c.buf = [] ∨ c.rebind = true →
        Waits (.vmov x) s { kind := .read, code := 0x02, opnd := 2, ref := bitsAt (s.ctx.stream (x.aN - 24)).desc.toNat 32 18
                            val := BitVec.ofNat 64 x.aN }) ∧
      (∀ r, c.buf = .eos :: r → c.rebind = false →
        Traps (.vmov x) x.len s { cause := 0x0A, opnd := 2, value := BitVec.ofNat 64 x.aN })) ∧
    (s.ctx.streamOn x.aN = false → s.ctx.sinkOn x.dN = true →
      s.toMach.chan (bitsAt (s.ctx.stream (x.dN - 24)).desc.toNat 32 18) = some c →
      c.closed = false → c.rExited = false → c.free = 0 ∨ c.rebind = true →
      Waits (.vmov x) s { kind := .write, ref := bitsAt (s.ctx.stream (x.dN - 24)).desc.toNat 32 18 }) ∧
    (s.ctx.streamOn x.aN = false → s.ctx.sinkOn x.dN = true → Settled s.toMach →
      s.toMach.chan (bitsAt (s.ctx.stream (x.dN - 24)).desc.toNat 32 18) = some c →
      c.closed = false → c.rExited = false → c.rebind = false → 0 < c.free →
      ∃ m, Retires (.vmov x) x.len s m ∧
        m.chan (bitsAt (s.ctx.stream (x.dN - 24)).desc.toNat 32 18) =
          some { c with free := c.free - 1, flight := c.flight ++ [.vector (s.ctx.vr x.aN)], pushes := (c.pushes + 1) % 2 ^ 32
                        check := foldTok c.check (.vector (s.ctx.vr x.aN)) })

/-- R180: columns of a window, and the elements of a chain: kept from the register, fetched, or outside the image. -/
def Sys2Proof.Claim.windowCols (d : Nat) : Nat := 512 / 2 ^ fieldAt d 36 1
def Sys2Proof.Claim.Kept (d : Nat) (full : Bool) (c : Nat) : Prop := full = false ∧ c < windowCols d - fieldAt d 38 1
def Sys2Proof.Claim.Inside (d n : Nat) (y x : Int) : Prop :=
  0 ≤ x ∧ x < (fieldAt d 24 4 : Nat) ∧ 0 ≤ y ∧ y < (fieldAt d 28 4 : Nat) ∧ n < fieldAt d 32 4

/-- R180: a window chain that completes: every fetched element on the process's own tile and readable. -/
def Sys2Proof.Claim.SlideRuns (x : F2) (s : State) (d : Nat) (full : Bool) : Prop :=
  let pos := (s.toMach.g x.aN).toNat
  let kh := fieldAt d 37 1
  let es := fieldAt d 36 1
  let x0 : Int := signed 16 (bitsAt pos 0 16) + (if full then 0 else (fieldAt d 38 1 : Int))
  let y0 : Int := signed 16 (bitsAt pos 16 16)
  let n := bitsAt pos 32 16
  let here := fun r c => imageAddr d n (y0 + (r : Nat)) (x0 + (c : Nat))
  bitsAt pos 48 16 = 0 → x0 ≤ 32767 → x.dN + kh ≤ 32 →
  (∀ r c, r < kh → c < windowCols d → ¬ Kept d full c → Inside d n (y0 + (r : Nat)) (x0 + (c : Nat)) → Reaches s (here r c) (2 ^ es) true false) →
  ∃ (m : Mach) (cnt : List (Nat × Nat)), cnt.Nodup ∧
    (∀ r c, (r, c) ∈ cnt ↔ r < kh ∧ c < windowCols d ∧ Inside d n (y0 + (r : Nat)) (x0 + (c : Nat))) ∧
    (let moved := if full then m else m.setG x.aN (BitVec.ofNat 64 (pos / 2 ^ 16 * 2 ^ 16 + (x0 % 2 ^ 16).toNat))
     Retires (.vslr x) x.len s (if x.w then moved.setG x.eN (BitVec.ofNat 64 cnt.length) else moved)) ∧
    VFrame s m x.dN kh ∧ m.tiles = s.tiles ∧ m.ctx.fpflags = s.ctx.fpflags ∧ m.ctx.diag = s.ctx.diag ∧
    ∀ r c, r < kh → c < windowCols d →
      (Kept d full c → elemAt m.ctx (x.dN + r) (8 * 2 ^ es) c = elemAt s.ctx (x.dN + r) (8 * 2 ^ es) (c + fieldAt d 38 1)) ∧
      (¬ Kept d full c → Inside d n (y0 + (r : Nat)) (x0 + (c : Nat)) →
        elemAt m.ctx (x.dN + r) (8 * 2 ^ es) c = Mem.nat s.mem (ownKey s (here r c)) (2 ^ es)) ∧
      (¬ Kept d full c → ¬ Inside d n (y0 + (r : Nat)) (x0 + (c : Nat)) →
        elemAt m.ctx (x.dN + r) (8 * 2 ^ es) c = fieldAt d 40 8)

/-- R179, R180: `vslrcfg` takes a configuration in range, and traps on one out of range; `vslr` keeps the columns it can, reads the fetched
elements of the image, writes the pad to the others, moves the position unless full, and counts the elements inside the image; without a
configuration, with rows above v31, with a malformed position and past column 32,767 it is illegal. -/
def Sys2Proof.Claim.SlideWindows : Prop :=
  ∀ (x : F2) (s : State),
    let a := s.toMach.g x.aN
    (OwnBlock s a 64 64 true false →
      (slideOk (Mem.nat s.mem (ownKey s a) 64) = true → Retires (.vslrcfg x) x.len s { s.toMach with ctx := { s.ctx with
        slide := some (BitVec.ofNat 512 (Mem.nat s.mem (ownKey s a) 64)) } }) ∧
      (slideOk (Mem.nat s.mem (ownKey s a) 64) = false → Traps (.vslrcfg x) x.len s { cause := 0x01, reason := 0x0C, opnd := 5, value := a })) ∧
    (s.ctx.slide = none → ∃ v, Traps (.vslr x) x.len s { cause := 0x01, reason := 0x0C, value := v }) ∧
    ∀ d : BitVec 512, s.ctx.slide = some d → slideOk d.toNat = true →
      (32 < x.dN + fieldAt d.toNat 37 1 →
        Traps (.vslr x) x.len s { cause := 0x01, reason := 0x0B, opnd := 1, value := BitVec.ofNat 64 x.dN }) ∧
      (Plain s.toMach → x.dN + fieldAt d.toNat 37 1 ≤ 32 →
        (bitsAt a.toNat 48 16 ≠ 0 ∨ (x.pre.sub ≠ 1 ∧ 32767 < signed 16 (bitsAt a.toNat 0 16) + (fieldAt d.toNat 38 1 : Int)) →
          Traps (.vslr x) x.len s { cause := 0x01, reason := 0x0C, value := a }) ∧
        (Settled s.toMach → SlideRuns x s d.toNat (x.pre.sub == 1)))

/-- R183, R184, R189: a copy instruction whose descriptor passes the checks, with its counter on the process's own tile and room in the copy unit and in
the copy-fault table, retires having handed the copy over; its first element moves later. -/
def Sys2Proof.Claim.CopyIssue : Prop :=
  ∀ c ∈ [(Instr.cpy, 0), (.cpyx, 1), (.cpyz, 2), (.cpydist, 3)], ∀ (x : F2) (s : State),
    let a := s.toMach.g x.aN
    let ctr := s.toMach.g x.dN
    let d := Mem.nat s.mem (ownKey s a) 256
    OwnBlock s a 64 256 true false → Settled s.toMach → Reaches s ctr 8 true true →
    (if c.2 = 3 then distFields d = true ∧ ∀ j, j < fieldAt d 17 1 → partCtr d j = noCtr else copyFields d c.2 = true) →
    (∀ y ∈ copyAligned d c.2, y.1 % y.2.1 = 0) →
    s.ctx.faults.length < 16 → (s.copies.filter fun c => c.tile == s.here).length < 16 →
    Retires (c.1 x) x.len s { s.toMach with
      fresh := s.fresh + 1
      copies := s.copies ++ [{ key := s.fresh, proc := s.toMach.self, tile := s.here, kind := c.2, desc := BitVec.ofNat 2048 d
                               off := a, ctr := ctr }]
      ctx := { s.ctx with faults := s.ctx.faults ++ [{ key := s.fresh, live := true, ctr := some ctr, desc := a }] } }

/-! Memory servers. -/

/-- R273, R279: an address of the global space that a valid entry of the tenant's active table covers with n bytes of one 2 MiB piece. -/
structure Sys2Proof.Claim.Maps (s : State) (a : Word) (n : Nat) (e : RangeEntry) (t : Tenant) : Prop where
  global : a.toNat / 2 ^ 62 = 3 ∧ bitsAt a.toNat 48 14 = 0
  tenant : s.toMach.tenantNo.bind s.toMach.tenant = some t
  entry  : t.entryAt (bitsAt a.toNat 0 48) = some e
  piece  : bitsAt a.toNat 0 21 + n ≤ 2 ^ 21
  pos    : 0 < n

/-- R273: server and address of an offset of an entry: spread over all 3,072 servers, or over the 384 of one die. -/
def Sys2Proof.Claim.serverKey (e : RangeEntry) (va : Nat) : Nat :=
  let p := e.pbase + (va - e.vbase)
  if e.mode = 0 then p / 256 % 3072 * 2 ^ 30 + (p / 256 / 3072 * 256 + p % 256)
  else (p / 256 % 384 / 3 * 24 + 3 * e.die + p / 256 % 384 % 3) * 2 ^ 30 + (p / 256 / 384 * 256 + p % 256)

/-- R273, R282: the location of an address that an entry maps: at a server, or in the host window. -/
def Sys2Proof.Claim.homeKey (e : RangeEntry) (t : Tenant) (va : Nat) : Nat :=
  if e.host then Key.host (t.window.1 + (e.pbase + (va - e.vbase))) else serverKey e va

/-- R99, R100, R196, R273, R279, R282: with nothing on its way, a load of the global space reads the bytes at their server; from host memory it
leaves as a request on mq1 and waits, and retires with the answer's value or takes the answer's fault when it has come; a store leaves as a
request on mq1 with its bytes, to a server or to host memory, and memory stays as it was until the request is performed; an unmapped
address and a missing right trap. -/
def Sys2Proof.Claim.GlobalAccess : Prop :=
  ∀ (x : F2) (s : State) (e : RangeEntry) (t : Tenant),
    let a := addrOf s x
    let k := homeKey e t (bitsAt a.toNat 0 48)
    (∀ c ∈ loads, ∀ r, a.toNat % c.2 = 0 → Maps s a c.2 e t → e.host = true → e.rd = true → s.ctx.mq1Err = none → s.bad = [] →
      s.reqs = [r] → r.stage = .answered → s.ctx.issued.host = some r.key →
      let m : Mach := { s.toMach with reqs := [], ctx := { s.ctx with issued := { s.ctx.issued with host := none } } }
      (r.fault = none → r.value < 2 ^ (8 * c.2) → ∃ w, LoadRule (c.1 x) r.value w ∧ Retires (c.1 x) x.len s (m.setG x.dN w)) ∧
      (∀ cause reason, r.fault = some (cause, reason) → exec (c.1 x) s = .next { s with
        toMach := m.takeTrap x.len { cause := cause, reason := reason, opnd := 5, value := a } })) ∧
    (Settled s.toMach → s.bad = [] →
    (∀ c ∈ loads, a.toNat % c.2 = 0 → Maps s a c.2 e t → e.host = false → e.rd = true →
      ∃ (r : Word) (m : Mach), LoadRule (c.1 x) (Mem.nat s.mem k c.2) r ∧ Retires (c.1 x) x.len s (m.setG x.dN r) ∧
        m = { s.toMach with servers := m.servers }) ∧
    (∀ c ∈ loads, a.toNat % c.2 = 0 → Maps s a c.2 e t → e.host = true → e.rd = true →
      exec (c.1 x) s = .next { s with toMach := Mach.block { s.toMach with
        fresh := s.fresh + 1
        reqs := [{ key := s.fresh, proc := s.toMach.self, chan := 1, tag := none, loc := k, addr := a, host := true, gen := t.gen
                   op := .read c.2 0 }]
        ctx := { s.ctx with issued := { s.ctx.issued with host := some s.fresh } } } { kind := .engine } }) ∧
    (∀ c ∈ stores, a.toNat % c.2 = 0 → Maps s a c.2 e t → e.w = true →
      Retires (c.1 x) x.len s { s.toMach with
        fresh := s.fresh + 1
        reqs := [{ key := s.fresh, proc := s.toMach.self, chan := 1, tag := none, loc := k, addr := a, host := e.host, gen := t.gen
                   op := .write (bytesOfNat c.2 (s.toMach.g x.dN).toNat) }] }) ∧
    (∀ c ∈ loads, a.toNat % c.2 = 0 → Maps s a c.2 e t → e.rd = false →
      Traps (c.1 x) x.len s { cause := 0x06, reason := 0x01, opnd := 5, value := a }) ∧
    (∀ c ∈ stores, a.toNat % c.2 = 0 → Maps s a c.2 e t → e.w = false →
      Traps (c.1 x) x.len s { cause := 0x06, reason := 0x02, opnd := 5, value := a }) ∧
    (∀ c ∈ loads ++ stores, a.toNat % c.2 = 0 → a.toNat / 2 ^ 62 = 3 → bitsAt a.toNat 48 14 = 0 →
      s.toMach.tenantNo.bind s.toMach.tenant = some t → t.entryAt (bitsAt a.toNat 0 48) = none →
      Traps (c.1 x) x.len s { cause := 0x05, reason := 0x01, opnd := 5, value := a }))

/-- R191 to R193, R282: a packet of the global space on a channel with a free tag and a free slot: it leaves, to a server or to host memory, on
tag seq mod 8, which goes to g(d), and the channel's sequence advances; an atomic on host memory is a permission trap. -/
def Sys2Proof.Claim.Packets : Prop :=
  ∀ (x : F2) (s : State) (e : RangeEntry) (t : Tenant),
    let a := s.toMach.g x.aN
    let b := s.toMach.g x.eN
    let n := x.pre.sub / 8
    let size := 8 * 2 ^ (x.pre.sub % 8)
    let tag := (s.ctx.mq n).seq % 8
    let k := homeKey e t (bitsAt a.toNat 0 48)
    let sent := fun (op : ReqOp) => ({ s.toMach with
      fresh := s.fresh + 1
      reqs := [{ key := s.fresh, proc := s.toMach.self, chan := n, tag := some tag, op := op, loc := k, addr := a, host := e.host, gen := t.gen }]
      ctx := s.ctx.setMq n { (s.ctx.mq n).setTag tag { kind := .waiting } with seq := (s.ctx.mq n).seq + 1 } } : Mach)
    x.w = true → Settled s.toMach → n < 2 → (((s.ctx.mq n).tag tag).kind = .free ∨ ((s.ctx.mq n).tag tag).kind = .acked) →
    e.rd = true →
    (a.toNat % size = 0 → Maps s a size e t → OwnBlock s b (min size 16) size false true →
      Retires (.mrd x) x.len s ((sent (.read size b.toNat)).setG x.dN (BitVec.ofNat 64 tag))) ∧
    (e.w = true → a.toNat % size = 0 → Maps s a size e t →
      (OwnBlock s b (min size 16) size true false →
        Retires (.mwr x) x.len s ((sent (.write (Mem.bytes s.mem (ownKey s b) size))).setG x.dN (BitVec.ofNat 64 tag))) ∧
      (OwnBlock s b (min size 16) (size + size / 8) true false →
        Retires (.mwrm x) x.len s ((sent (.masked ((List.range size).map fun i =>
          if (Mem.get s.mem (ownKey s b + size + i / 8)).getLsbD (i % 8) = true then some (Mem.get s.mem (ownKey s b + i)) else none))).setG
            x.dN (BitVec.ofNat 64 tag)))) ∧
    (e.w = true → a.toNat % 8 = 0 → Maps s a 8 e t → e.host = true →
      Traps (.matom x) x.len s { cause := 0x06, reason := 0x07, opnd := 2, value := a }) ∧
    (e.w = true → a.toNat % 8 = 0 → Maps s a 8 e t → e.host = false → (x.pre.sub % 8 = 6 → x.eN % 2 = 0) →
      Retires (.matom x) x.len s ((sent (.atomic (x.pre.sub % 8) b (s.toMach.g (x.eN + 1)))).setG x.dN (BitVec.ofNat 64 tag)))

/-- R194: `mrsp` on a tag: a read or atomic without error is consumed and its value, 0 for a read, goes to g(d); an acknowledged write
gives 0 and keeps the tag; a tag not in use traps; a tag whose reply has not come waits; a tag above 7 is illegal. -/
def Sys2Proof.Claim.PacketReplies : Prop :=
  ∀ (x : F2) (s : State), x.pre.sub / 8 < 2 →
    let n := x.pre.sub / 8
    let t := (s.toMach.g x.aN).toNat
    let tag := (s.ctx.mq n).tag t
    let freed : Mach := { s.toMach with ctx := s.ctx.setMq n ((s.ctx.mq n).setTag t {}) }
    (t ≤ 7 → tag.cause = 0 →
      (tag.kind = .read → Retires (.mrsp x) x.len s (freed.setG x.dN 0)) ∧
      (tag.kind = .atomic → Retires (.mrsp x) x.len s (freed.setG x.dN tag.value)) ∧
      (tag.kind = .acked → Retires (.mrsp x) x.len s (s.toMach.setG x.dN 0))) ∧
    (t ≤ 7 → tag.kind = .free → Traps (.mrsp x) x.len s { cause := 0x08, reason := 0x08, opnd := 2, value := s.toMach.g x.aN }) ∧
    (t ≤ 7 → tag.kind = .waiting → Waits (.mrsp x) s { kind := .engine }) ∧
    (7 < t → Traps (.mrsp x) x.len s { cause := 0x01, reason := 0x0C, value := s.toMach.g x.aN })

/-- R196: an active element of a `vstg` is among the bytes of a request. -/
def Sys2Proof.Claim.SentIn (rs : List Req) (loc : Nat) (bs : List Byte) : Prop :=
  ∃ r ∈ rs, ∃ l, r.op = .write l ∧ r.loc ≤ loc ∧ (l.drop (loc - r.loc)).take bs.length = bs

/-- R196, R145, R271: vector loads and stores of server memory in the global space, with nothing on its way and every active element in one entry that grants
the access: a load gives an active element the bytes at its server; a store leaves memory as it is and sends the active elements as requests
of mq1 without a tag; it retires when they stand in the eight slots of the gateway, and waits while they do not. -/
def Sys2Proof.Claim.GlobalVectors : Prop :=
  ∀ (x : F2) (s : State) (f : Fmt) (t : Tenant) (e : Nat → RangeEntry),
    s.ctx.fmt = some f → inM f = true → Plain s.toMach → s.ctx.vl ≤ s.ctx.vlmax → Aligned s x.dN → x.dN + groupRegs s f.width ≤ 32 →
    (Settled s.toMach → s.bad = [] → (s.toMach.g x.aN).toNat / 2 ^ 62 = 3 →
      (∀ j, Active s x.pre j → (elemAddr s x .unit f.width j).toNat % (f.width / 8) = 0 ∧
        Maps s (elemAddr s x .unit f.width j) (f.width / 8) (e j) t ∧ (e j).host = false) →
      let key := fun j => serverKey (e j) (bitsAt (elemAddr s x .unit f.width j).toNat 0 48)
      ((∀ j, Active s x.pre j → (e j).rd = true) → ∀ c ∈ [Instr.vldg, .vldgff],
        ∃ m, Retires (c x) x.len s m ∧ VFrame { s with servers := m.servers } m x.dN (groupRegs s f.width) ∧ m.ctx.fpflags = s.ctx.fpflags ∧
          ∀ j, j < s.ctx.vlmax → s.ctx.vl ≠ 0 →
            (Active s x.pre j → elemAt m.ctx x.dN f.width j = Mem.nat s.mem (key j) (f.width / 8)) ∧
            (¬ Active s x.pre j → OtherElem s x.pre j (elemAt s.ctx x.dN f.width j) (elemAt m.ctx x.dN f.width j))) ∧
      ((∀ j, Active s x.pre j → (e j).w = true) → s.ctx.issued.sent = false →
        ∃ rs fresh, (∀ r ∈ rs, r.proc = s.toMach.self ∧ r.chan = 1 ∧ r.tag = none ∧ r.host = false ∧ r.stage = .issued) ∧
          (∀ j, Active s x.pre j → SentIn rs (key j) (bytesOfNat (f.width / 8) (elemAt s.ctx x.dN f.width j))) ∧
          (rs.length ≤ 8 → ∃ m, Retires (.vstg x) x.len s m ∧ m.ctx = { s.ctx with diag := m.ctx.diag } ∧
            m = { s.toMach with ctx := m.ctx, tiles := m.tiles, reqs := rs, fresh := fresh }) ∧
          (8 < rs.length → exec (.vstg x) s = .next { s with toMach := Mach.block { s.toMach with
            reqs := rs, fresh := fresh, ctx := { s.ctx with issued := { s.ctx.issued with sent := true } } } { kind := .engine } }))) ∧
    (s.ctx.issued.sent = true →
      (s.toMach.unaccepted 1 ≤ 8 → ∃ m, Retires (.vstg x) x.len s m ∧ m.ctx = { s.ctx with diag := m.ctx.diag } ∧
        m = { s.toMach with ctx := m.ctx, tiles := m.tiles }) ∧
      (8 < s.toMach.unaccepted 1 → Waits (.vstg x) s { kind := .engine }))

/-! Residencies. -/

/-- R33, R158: the handle operand w names the live residency r, the i-th of the list, for the running process. -/
def Sys2Proof.Claim.Names (s : State) (w : Word) (i : Nat) (r : Resid) : Prop :=
  s.resids[i]? = some r ∧ handleOk w = true ∧ s.toMach.myResid w = some (i, r)

/-- R160: the tenant of the running process. -/
def Sys2Proof.Claim.tenantOf (s : State) : Nat := s.toMach.tenantNo.getD 0

/-- R160, R256: the array slots of the tile that are free for the tenant: within its quota and within the sixteen of the tile, beside
those that reserved contexts are still to have. -/
def Sys2Proof.Claim.SlotRoom (s : State) : Prop :=
  let held := s.toMach.holding false s.here
  (held.filter fun r => r.tenant == tenantOf s).length + s.toMach.reservedSlots s.here (fun im => im.tenant == tenantOf s) <
    s.toMach.quotaArr (tenantOf s) ∧
  held.length + s.toMach.reservedSlots s.here (fun _ => true) < 16

/-- R160, R33, R273: `rsalloc` for an array residency (bit 0 of the selector clear) and for a bank residency: without room in the quota -1 or
-2, without a free slot or free rows of the stack -1 or -3, else a new residency, empty, whose handle goes to g(d); other selectors are
illegal. -/
def Sys2Proof.Claim.ResidencyAllocation : Prop :=
  ∀ (x : F2) (s : State), s.ctx.mOn = true → ∀ (refresh : Bool),
    let w := (s.toMach.g x.aN).toNat
    let ten := tenantOf s
    let q := if refresh then 4 else 0
    (w = q →
      let held := s.toMach.holding false s.here
      (¬ SlotRoom s ∨ (∀ i, i < 16 → ∃ r ∈ held, r.slot = i) →
        Retires (.rsalloc x) x.len s (s.toMach.setG x.dN (BitVec.allOnes 64))) ∧
      (SlotRoom s → (∃ i, i < 16 ∧ ∀ r ∈ held, r.slot ≠ i) →
        ∃ i, i < 16 ∧ (∀ r ∈ held, r.slot ≠ i) ∧
          let key := genKey false s.here i
          let g := s.toMach.nextGen key
          let h := handleOf false s.here i g
          Retires (.rsalloc x) x.len s (({ s.toMach with
            gens := (s.toMach.setGen key g).gens
            resids := s.resids ++ [{ bank := false, handle := h, spot := s.here, slot := i, gen := g, owner := s.toMach.self
                                     tenant := ten, refresh := refresh }] } : Mach).setG x.dN (BitVec.ofNat 64 h)))) ∧
    (∀ mib stack, 1 ≤ mib → mib ≤ 98304 → stack ≤ 23 → w = mib * 256 + stack * 8 + q + 1 →
      let held := s.toMach.holding true stack
      let mine := held.filter fun r => r.tenant == ten
      (s.toMach.quotaBank ten stack < sumMib mine + mib →
        Retires (.rsalloc x) x.len s (s.toMach.setG x.dN (BitVec.ofInt 64 (-2)))) ∧
      (sumMib mine + mib ≤ s.toMach.quotaBank ten stack →
        (s.toMach.freeRows stack mib = none ∨ (∀ i, i < 1024 → ∃ r ∈ held, r.slot = i) →
          Retires (.rsalloc x) x.len s (s.toMach.setG x.dN (BitVec.ofInt 64 (-3)))) ∧
        ∀ rows, s.toMach.freeRows stack mib = some rows → (∃ i, i < 1024 ∧ ∀ r ∈ held, r.slot ≠ i) →
          ∃ i, i < 1024 ∧ (∀ r ∈ held, r.slot ≠ i) ∧
            let key := genKey true stack i
            let g := s.toMach.nextGen key
            let h := handleOf true stack i g
            Retires (.rsalloc x) x.len s (({ s.toMach with
              gens := (s.toMach.setGen key g).gens
              resids := s.resids ++ [{ bank := true, handle := h, spot := stack, slot := i, gen := g, owner := s.toMach.self
                                       tenant := ten, refresh := refresh, mib := mib, rows := rows }] } : Mach).setG x.dN (BitVec.ofNat 64 h)))) ∧
    (w / 2 % 2 = 1 ∨ 2 ^ 40 ≤ w ∨ (w % 2 = 0 ∧ 8 ≤ w) ∨ (w % 2 = 1 ∧ (w / 256 = 0 ∨ 98304 < w / 256 ∨ 23 < w / 8 % 32)) →
      Traps (.rsalloc x) x.len s { cause := 0x01, reason := 0x0C, opnd := 2, value := s.toMach.g x.aN })

/-- R161, R169, R171, R172: a live residency filled from local memory or from a watched global source, pinned and unpinned, queried and
revoked; a handle that names nothing reads as revoked, is left alone by `rsrev` and traps the others. -/
def Sys2Proof.Claim.ResidencyControl : Prop :=
  ∀ (x : F2) (s : State) (i : Nat) (r : Resid), s.ctx.mOn = true →
    (Names s (s.toMach.g x.dN) i r → r.state ≠ .loading → s.ctx.faults.length < 16 → Settled s.toMach →
      (x.w = true → Reaches s (s.toMach.g x.eN) 8 true false) →
      let a := s.toMach.g x.aN
      let ctr := if x.w then some (s.toMach.g x.eN) else none
      a.toNat % 64 = 0 →
      ((r.bank = false ∧ LocalAddr a ∧ a.toNat + 32768 ≤ 0x180000 ∧ OwnWindow s a.toNat 32768 true false) ∨
        (∃ e t, Maps s a r.size e t ∧ e.rd = true ∧ e.watched = true ∧ e.host = false)) →
      ∃ entry : CopyFault, entry.key = s.fresh ∧ entry.live = true ∧ entry.ctr = ctr ∧ entry.handle = some r.handle ∧
        Retires (.rsload x) x.len s { s.toMach with
          fresh := s.fresh + 1
          resids := s.resids.modify i fun r => { r with
            state := .loading, load := a, filler := s.toMach.self, fill := some s.fresh, fillCtr := ctr, marked := false, reload := false }
          ctx := { s.ctx with faults := s.ctx.faults ++ [entry] } }) ∧
    (Names s (s.toMach.g x.aN) i r →
      Retires (.rspin x) x.len s { s.toMach with resids := s.resids.modify i fun r => { r with pinned := true } } ∧
      Retires (.rsunpin x) x.len s { s.toMach with resids := s.resids.modify i fun r => { r with pinned := false } } ∧
      Retires (.rsq x) x.len s (s.toMach.setG x.dN (BitVec.ofNat 64
        (r.mib * 2 ^ 32 + (if r.global then 32 else 0) + (if r.refresh then 16 else 0) + (if r.pinned then 8 else 0) + r.state.code))) ∧
      (r.state ≠ .loading → r.noSlot = false → Memory.wf s.mem = true →
        ∃ m, Retires (.rsrev x) x.len s m ∧ m = { s.toMach with mem := m.mem, bad := m.bad, resids := m.resids } ∧
          (∃ q, m.resids[i]? = some q ∧ q.state = .revoked ∧ q.pinned = false) ∧ (∀ j, j ≠ i → m.resids[j]? = s.resids[j]?) ∧
          ∀ k, Mem.get m.mem k = if r.base ≤ k ∧ k < r.base + r.size then 0 else Mem.get s.mem k)) ∧
    (handleOk (s.toMach.g x.aN) = true → s.toMach.myResid (s.toMach.g x.aN) = none →
      Retires (.rsq x) x.len s (s.toMach.setG x.dN 5) ∧ Retires (.rsrev x) x.len s s.toMach ∧
      ∀ c ∈ [Instr.rspin, .rsunpin], Traps (c x) x.len s
        { cause := 0x0C, reason := 0x02, opnd := 2, value := s.toMach.g x.aN, ref := (s.toMach.g x.aN).toNat }) ∧
    (handleOk (s.toMach.g x.aN) = false → ∀ c ∈ [Instr.rspin, .rsunpin, .rsq, .rsrev],
      Traps (c x) x.len s { cause := 0x01, reason := 0x10, value := s.toMach.g x.aN })

/-- R162, R164, R165: `mres` with a ready array residency on the tile: the tile of accumulators takes what the outer product with
block U adds; on int8 an enabled pair's s takes the sixteen products modulo 2^32 with err zero, any other pair stays. -/
def Sys2Proof.Claim.ArrayResidencyUse : Prop :=
  ∀ (x : F2) (s : State) (f : Fmt) (i : Nat) (r : Resid), MatrixReady s x.dN → x.dN < 32 → x.w = true →
    s.ctx.fmt = some f → matrixFmt f = true → Plain s.toMach → s.bad = [] →
    (if f = .fp4 then x.u < 2048 ∧ x.u % 64 < 51 ∧ x.aN % 2 = 0 else x.u < 64) →
    Names s (s.toMach.g x.eN) i r → r.bank = false → r.noSlot = false → r.spot = s.here → r.state = .ready →
    ∃ m, Retires (.mres x) x.len s m ∧ ZFrame s m x.dN ∧
      (f = .int8 → ∀ n, n < 1024 →
        (PairOn s x.pre n →
          (pairS m.ctx x.dN n : Int) = (pairS s.ctx x.dN n + ((List.range 16).map fun k =>
            signed 8 (elemAt s.ctx x.aN 8 (16 * (n / 32) + k)) *
              (Mem.get s.mem (r.base + 512 * x.u + 16 * (n % 32) + k)).toInt).sum) % 2 ^ 32 ∧
          pairErr m.ctx x.dN n = 0) ∧
        (¬ PairOn s x.pre n → pairS m.ctx x.dN n = pairS s.ctx x.dN n ∧ pairErr m.ctx x.dN n = pairErr s.ctx x.dN n))

/-- R166: `mresv` on a reply stream, with fewer than eight requests of the process open: the request leaves with the active elements
of va below vl, inactive ones absent; nothing else of the machine changes. -/
def Sys2Proof.Claim.BankResidencyUse : Prop :=
  ∀ (x : F2) (s : State) (f : Fmt), s.ctx.mOn = true → x.w = true → handleOk (s.toMach.g x.eN) = true →
    s.ctx.fmt = some f → f ∈ [Fmt.bf16, .fp8e4, .fp8e5] → Aligned s x.aN → s.ctx.vl ≤ s.ctx.vlmax →
    x.dN < 32 → s.ctx.streamOn x.dN = true → s.ctx.sinkOn x.dN = false → (s.ctx.stream (x.dN - 24)).kind = .reply →
    (∀ k, x.aN ≤ k → k < x.aN + groupRegs s f.width → s.ctx.streamOn k = false) →
    (∀ k : Nat, s.ctx.vBad[k]?.getD 0 = 0) → (∀ k : Nat, s.ctx.pBad[k]?.getD 0 = 0) →
    (s.nears.filter fun n => n.proc == s.toMach.self).length < 8 →
    ∃ xs : List (Option Nat), xs.length = s.ctx.vl ∧
      Retires (.mresv x) x.len s { s.toMach with
        fresh := s.fresh + 1
        nears := s.nears ++ [{ key := s.fresh, proc := s.toMach.self, handle := (s.toMach.g x.eN).toNat, panel := x.u
                               fmt := s.ctx.fmtCode, xs := xs }] } ∧
      ∀ j, j < s.ctx.vl → (Active s x.pre j → xs[j]? = some (some (elemAt s.ctx x.aN f.width j))) ∧
        (¬ Active s x.pre j → xs[j]? = some none)

/-- What becomes of a residency whose fill or reload ends; one that ends well records its source (R161). -/
def Sys2Proof.Claim.Filled (r q : Resid) (st : ResState) (done : Bool) : Prop :=
  q = { r with state := st, marked := false, fill := none, fillCtr := none, lost := [], reload := false
               source := if done then r.watch else r.source, global := if done then isGlobal r.watch else r.global }

/-- R161, R164, R168: a fill and a reload end ready with the bytes of their source, stale where a mark fell meanwhile, or empty at a fault
of the source; a write to a watched source that is on its way marks the residency. Residencies without a counter to add to. -/
def Sys2Proof.Claim.ResidencyFills : Prop :=
  ∀ (s : State) (i : Nat) (r : Resid), s.resids[i]? = some r →
    (r.state = .loading → r.lost = [] → r.fillCtr = none →
      (∀ bs m, s.toMach.fillSource r = .ok (bs, m) →
        (r.reload = false → Memory.wf m.mem = true → ∃ t q, exec (.residencyFillComplete i) s = .next t ∧ t.resids[i]? = some q ∧
          Filled r q (if r.marked then .stale else .ready) true ∧ Mem.bytes t.mem r.base bs.length = bs ∧ t.port = s.port) ∧
        (r.reload = true → Memory.wf m.mem = true → ∃ t q, exec (.residencyReloadComplete i) s = .next t ∧ t.resids[i]? = some q ∧
          Filled r q (if r.marked then .stale else .ready) true ∧ Mem.bytes t.mem r.base bs.length = bs ∧ t.port = s.port)) ∧
      (∀ e, s.toMach.fillSource r = .error e →
        (r.reload = false → ∃ t q, exec (.residencyFillFault i) s = .next t ∧ t.resids[i]? = some q ∧ Filled r q .empty false ∧
          t.mem = e.2.mem) ∧
        (r.reload = true → ∃ t q, exec (.residencyReloadComplete i) s = .next t ∧ t.resids[i]? = some q ∧ Filled r q .empty false ∧
          t.mem = e.2.mem))) ∧
    (∀ k q, s.reqs.find? (fun (y : Req) => y.key == k) = some q → q.stage = .issued → q.host = false →
      (∃ a ∈ q.written, s.toMach.overlaps r a 1 = true) →
      exec (.residencyStaleMark i k) s = .next { s with
        tick := s.tick + 1
        resids := s.resids.modify i fun r => match r.state with
          | .ready => { r with loads := r.loads + 1, state := .stale }
          | .evicted => { r with loads := r.loads + 1, state := .stale }
          | .loading => { r with loads := r.loads + 1, marked := true }
          | _ => r })

/-- R166, R167: the gate answers a request whose residency is ready, with the results of its panel, a failing check or a panel beyond
the image with one faulted token; the tokens of the oldest answered request arrive one by one. -/
def Sys2Proof.Claim.NearBankRequests : Prop :=
  ∀ (s : State) (k : Nat) (n : NearReq), s.nears.find? (fun y => y.key == k) = some n →
    (n.reply = none → ∀ w ten, w = (BitVec.ofNat 64 n.handle : Word) →
      ten = ((s.procs[n.proc]?).bind fun p => (s.nets[p.net]?).map (·.tenant)) →
      let answered := fun (l : List Reply) => s.nears.map fun y => if y.key == k then { y with reply := some l } else y
      (∀ i r, s.toMach.checkResid n.proc ten none true w 3 = .go i r → n.panel < (s.toMach.bankHead r).panels → s.bad = [] →
        exec (.nearBankRequest k) s = .next { s with
          tick := s.tick + 1
          nears := answered (replyTokens (s.toMach.panelResults r (s.toMach.bankHead r) n.panel ((Fmt.ofCode n.fmt).getD .bf16) n.xs)) }) ∧
      (∀ i r, s.toMach.checkResid n.proc ten none true w 3 = .go i r → (s.toMach.bankHead r).panels ≤ n.panel →
        ∃ t x, exec (.nearBankRequest k) s = .next t ∧ t.nears = answered [{ fault := some x, data := 0 }] ∧
          x.cause = 0x08 ∧ x.reason = 0x09 ∧ x.ref = n.handle) ∧
      (∀ x, s.toMach.checkResid n.proc ten none true w 3 = .fail x →
        ∃ t, exec (.nearBankRequest k) s = .next t ∧ t.nears = answered [{ fault := some x, data := 0 }])) ∧
    (∀ tok more, n.reply = some (tok :: more) → (s.nears.find? fun y => y.proc == n.proc).map (·.key) = some k →
      n.proc < s.procs.length →
      ∃ t, exec (.nearBankReply k) s = .next t ∧
        (t.toMach.ctxOf n.proc).replies = (s.toMach.ctxOf n.proc).replies ++ [tok] ∧
        t.nears = if more = [] then s.nears.filter fun y => y.key != k
          else s.nears.map fun y => if y.key == k then { y with reply := some more } else y)

/-! Instructions of the tenant level, launches, and entries of the level table. -/

/-- R39: instructions of the tenant level take the privileged-instruction trap at process level; `chgown` takes it at every level. The
trap's tval is free. -/
def Obligations.Privilege : Prop :=
  ∀ (x : F2) (s : State),
    (s.ctx.lvl = 0 → ∀ c ∈ [Instr.cancel, .cut, .ctxsave, .ctxrest, .resume, .resumeSnap, .rtset, .rtcommit, .rtinv, .fgload, .fgclr,
        .dgon, .dgoff], ∃ v, Traps (c x) x.len s { cause := 0x02, value := v }) ∧
    ∃ v, Traps (.chgown x) x.len s { cause := 0x02, value := v }

/-- R206: `launch` on a descriptor that grants: an image that is not pre-placed gives -1, a live index -2, and a pre-placed image that is
free 0 with the network live at its index, its processes unplaced, as a graph of one in the issuer's phase. -/
def Sys2Proof.Claim.Launches : Prop :=
  ∀ (x : F2) (s : State) (handle index flags : Nat),
    let a := s.toMach.g x.aN
    let ten := tenantOf s
    OwnBlock s a 64 64 true false → Settled s.toMach → handle < 2 ^ 64 → index < 65536 → flags < 2 →
    Mem.nat s.mem (ownKey s a) 64 = handle + 2 ^ 64 * index + 2 ^ 96 * flags →
    (s.toMach.readyImage ten handle = none → Retires (.launch x) x.len s (s.toMach.setG x.dN (BitVec.ofInt 64 (-1)))) ∧
    (∀ im, s.toMach.readyImage ten handle = some im → s.toMach.isLive ten 0 index = true →
      Retires (.launch x) x.len s (s.toMach.setG x.dN (BitVec.ofInt 64 (-2)))) ∧
    (∀ im, s.toMach.readyImage ten handle = some im → s.toMach.isLive ten 0 index = false →
      im.resids = [] → (∀ y ∈ s.nets, y.live = true → y.image ≠ handle) →
      ∃ (m : Mach), Retires (.launch x) x.len s (m.setG x.dN 0) ∧ m.mem = s.mem ∧ m.ctx = s.ctx ∧
        m.isLive ten 0 index = true ∧ m.nets.length = s.nets.length + 1 ∧
        ∃ y, m.nets[s.nets.length]? = some y ∧ y.live = true ∧ y.started = false ∧ y.tenant = ten ∧ y.index = index ∧ y.image = handle ∧
          y.nid = s.toMach.nextNid ten index ∧ y.procs.length = im.procs.length ∧
          (y.replay.isSome = true ↔ flags = 1) ∧ ∀ k ∈ y.procs, ∃ p, m.procs[k]? = some p ∧ p.st = .unplaced)

/-- R207 to R209, R229: targets with a bit outside [63:62] and [15:0] are illegal; `cancel` marks a live entry; `ccget` reads a final
entry's status and discarded count, those it waited for where the entry has been used again since, and waits for one that is not final;
`dgget` waits likewise and copies the digest, or answers -1 where there is none. -/
def Sys2Proof.Claim.EntryInstructions : Prop :=
  ∀ (x : F2) (s : State),
    let w := s.toMach.g x.aN
    let level := w.toNat / 2 ^ 62
    let index := w.toNat % 2 ^ 16
    let ten := tenantOf s
    (w.toNat / 2 ^ 16 % 2 ^ 46 = 0 →
      (s.ctx.lvl ≠ 0 → Retires (.cancel x) x.len s { s.toMach with entries := s.entries.map fun (e : Entry) =>
        if e.tenant = ten ∧ e.level = level ∧ e.index = index then { e with cancel := e.cancel || e.live } else e }) ∧
      (∀ r, s.ctx.issued.answer.or (s.toMach.finalRecord ten level index) = some r →
        Retires (.ccget x) x.len s (s.toMach.setG x.dN (BitVec.ofNat 64 (r.status + 2 ^ 32 * r.discarded)))) ∧
      (s.ctx.issued.answer = none → s.toMach.finalRecord ten level index = none →
        Waits (.ccget x) s { kind := .read, code := 0x07, opnd := 2, ref := index, val := w }) ∧
      (x.w = true → level = 0 → OwnBlock s (s.toMach.g x.eN) 64 256 false true → s.bad = [] → Memory.wf s.mem = true →
        (s.ctx.issued.answer = none → s.toMach.finalRecord ten 0 index = none →
          Waits (.dgget x) s { kind := .read, code := 0x07, opnd := 2, ref := index, val := w }) ∧
        ∀ r, s.ctx.issued.answer.or (s.toMach.finalRecord ten 0 index) = some r →
          (∀ bs, r.digest = some bs → ∃ m, Retires (.dgget x) x.len s (({ s.toMach with mem := m } : Mach).setG x.dN 0) ∧
            Mem.bytes m (ownKey s (s.toMach.g x.eN)) bs.length = bs ∧
            ∀ k, (k < ownKey s (s.toMach.g x.eN) ∨ ownKey s (s.toMach.g x.eN) + bs.length ≤ k) → Mem.get m k = Mem.get s.mem k) ∧
          (r.digest = none → Retires (.dgget x) x.len s (s.toMach.setG x.dN (BitVec.allOnes 64))))) ∧
    (w.toNat / 2 ^ 16 % 2 ^ 46 ≠ 0 →
      Traps (.ccget x) x.len s { cause := 0x01, reason := 0x0C, value := w } ∧
      (s.ctx.lvl ≠ 0 → Traps (.cancel x) x.len s { cause := 0x01, reason := 0x0C, value := w }))

/-- R209, R303, R308: `cut` of another live network of the tenant: the cut is noted with its address and a sweep in progress dropped, once;
an index without a live network is left alone; an address that is not 4 KiB aligned is misaligned; an index above 65,535, the issuer's own
network and an address outside the global space are illegal. -/
def Sys2Proof.Claim.CutInstruction : Prop :=
  ∀ (x : F2) (s : State),
    let a := (s.toMach.g x.aN).toNat
    let e := s.toMach.g x.eN
    s.ctx.lvl ≠ 0 → x.w = true →
    (65536 ≤ a ∨ (∃ y, s.toMach.curNet = some y ∧ y.live = true ∧ y.index = a) →
      Traps (.cut x) x.len s { cause := 0x01, reason := 0x0C, value := s.toMach.g x.aN }) ∧
    (a < 65536 → (∀ y, s.toMach.curNet = some y → ¬ (y.live = true ∧ y.index = a)) →
    (e.toNat % 4096 = 0 → isGlobal e = true →
      (s.toMach.liveNet (tenantOf s) a = none → Retires (.cut x) x.len s s.toMach) ∧
      (∀ n y, s.toMach.liveNet (tenantOf s) a = some n → s.nets[n]? = some y → y.live = true →
        (y.cut = none → y.cancel = false → y.fatal = false →
          ∃ m z, Retires (.cut x) x.len s m ∧ m = { s.toMach with nets := m.nets, procs := m.procs } ∧ m.nets[n]? = some z ∧
            z = { y with cut := some e, sweep := .idle, active := true } ∧ (∀ j, j ≠ n → m.nets[j]? = s.nets[j]?) ∧
            m.procs.map (fun p => { p with gated := false }) = s.procs.map fun p => { p with gated := false }) ∧
        (y.cut ≠ none ∨ y.cancel = true ∨ y.fatal = true → Retires (.cut x) x.len s s.toMach))) ∧
    (e.toNat % 4096 = 0 → isGlobal e = false → Traps (.cut x) x.len s { cause := 0x01, reason := 0x0C, value := e }) ∧
    (e.toNat % 4096 ≠ 0 → Traps (.cut x) x.len s { cause := 0x03, opnd := 3, value := e }))

/-! Range tables. -/

/-- R218: the fields of a range-table image: an entry that is not valid, or one with its bounds, base, rights and flags. -/
def Sys2Proof.Claim.RangeRule (d : Nat) (e : RangeEntry) : Prop :=
  let f := fun lo n => bitsAt d (8 * lo) (8 * n)
  if f 26 1 / 128 = 0 then e.valid = false
  else e.valid = true ∧ e.vbase = f 0 8 ∧ e.vlimit = f 8 8 ∧ e.pbase = f 16 8 ∧ e.mode = f 24 1 % 4 ∧ e.die = f 24 1 / 4 % 8 ∧
    (e.rd = true ↔ f 25 1 % 2 = 1) ∧ (e.w = true ↔ f 25 1 / 2 % 2 = 1) ∧ (e.host = true ↔ f 26 1 % 2 = 1) ∧
    (e.counter = true ↔ f 26 1 / 2 % 2 = 1) ∧ (e.watched = true ↔ f 26 1 / 4 % 2 = 1) ∧
    e.vbase % 2 ^ 21 = 0 ∧ e.vlimit % 2 ^ 21 = 0 ∧ e.pbase % 2 ^ 21 = 0 ∧ e.vbase < e.vlimit ∧ e.vlimit ≤ 2 ^ 48

/-- R218 to R221, R281, R273: `rtset` puts an image that breaks no rule, a host-shared one within the tenant's window, into the staged table and nothing else; `rtinv` makes the staged table
the active one's copy; `rtcommit` answers -1 for entries that overlap, -2 for bytes that the tenant does not own or a bank residency has taken, 0 where
nothing changes, and otherwise asks for the switch and waits; the switch, with no host-shared vector load of the tenant half read, makes the
table active, one generation on. Rests on readings of the model: log entries 40, 41, 42. -/
def Obligations.RangeTables : Prop :=
  (∀ (x : F2) (s : State), s.ctx.lvl ≠ 0 →
    let ten := tenantOf s
    (x.w = true → (s.toMach.g x.aN).toNat < 1024 → OwnBlock s (s.toMach.g x.eN) 32 32 true false →
      (∀ e, rangeImage (Mem.nat s.mem (ownKey s (s.toMach.g x.eN)) 32) = some e →
        RangeRule (Mem.nat s.mem (ownKey s (s.toMach.g x.eN)) 32) e ∧
        let window := ((s.toMach.tenantNo.bind s.toMach.tenant).map (·.window.2)).getD 0
        (e.host = true → window ≤ e.pbase →
          Traps (.rtset x) x.len s { cause := 0x01, reason := 0x0C, opnd := 5, value := s.toMach.g x.eN }) ∧
        (e.host = false ∨ e.pbase < window → ∃ f : Tenant → Tenant, (∀ t, (f t).staged.filter (fun y => y.1 != (s.toMach.g x.aN).toNat) =
            t.staged.filter (fun y => y.1 != (s.toMach.g x.aN).toNat) ∧ ((s.toMach.g x.aN).toNat, e) ∈ (f t).staged ∧
            f t = { t with staged := (f t).staged }) ∧
          Retires (.rtset x) x.len s (s.toMach.updTenant ten f))) ∧
      (rangeImage (Mem.nat s.mem (ownKey s (s.toMach.g x.eN)) 32) = none →
        Traps (.rtset x) x.len s { cause := 0x01, reason := 0x0C, opnd := 5, value := s.toMach.g x.eN })) ∧
    (x.w = true → 1024 ≤ (s.toMach.g x.aN).toNat →
      Traps (.rtset x) x.len s { cause := 0x01, reason := 0x0C, value := s.toMach.g x.aN }) ∧
    Retires (.rtinv x) x.len s (s.toMach.updTenant ten fun t => { t with staged := t.active }) ∧
    (∀ t, s.toMach.tenantNo.bind s.toMach.tenant = some t → s.ctx.issued.commit = none → t.switch = none → Settled s.toMach →
      (tableOverlaps t.staged = true → Retires (.rtcommit x) x.len s (s.toMach.setG x.dN (BitVec.ofInt 64 (-1)))) ∧
      (tableOverlaps t.staged = false → (∃ y ∈ t.staged, y.2.valid = true ∧ s.toMach.mayMap t y.2 = false) →
        Retires (.rtcommit x) x.len s (s.toMach.setG x.dN (BitVec.ofInt 64 (-2)))) ∧
      (tableOverlaps t.staged = false → (∀ y ∈ t.staged, y.2.valid = true → s.toMach.mayMap t y.2 = true) →
        (t.staged = t.active → Retires (.rtcommit x) x.len s (s.toMach.setG x.dN 0)) ∧
        (t.staged ≠ t.active → ∃ u, exec (.rtcommit x) s = .next u ∧ u.ctx.pc = s.ctx.pc ∧ u.ctx.issued.commit = some t.gen ∧
          u.tenants = s.tenants.map fun y => if y.id == t.id then { y with switch := some y.staged } else y))) ∧
    (∀ t g, s.toMach.tenantNo.bind s.toMach.tenant = some t → s.ctx.issued.commit = some g → g < t.gen → s.reqs = [] →
      Retires (.rtcommit x) x.len s (s.toMach.setG x.dN 0))) ∧
  (∀ (s : State) (ten : Nat) (t : Tenant) (tbl : List (Nat × RangeEntry)), s.toMach.tenant ten = some t → t.switch = some tbl →
    s.toMach.midLoad ten = false → ∃ u, exec (.rangeTableSwitch ten) s = .next u ∧ u.mem = s.mem ∧ u.ctx = s.ctx ∧ u.resids.length = s.resids.length ∧
      u.tenants = s.tenants.map fun y => if y.id == t.id then { t with active := tbl, gen := t.gen + 1, switch := none } else y)

/-! Figures, digests, counters, random numbers. -/

/-- R34, R231 to R233: figures loaded, bound, selected and cleared: a verified figure stands in the store with a mark at its first word; a
binding needs the mark; a cleared partition reads zero and has no marks. -/
def Sys2Proof.Claim.FigureStore : Prop :=
  ∀ (x : F2) (s : State), Memory.wf s.mem = true → (∀ y ∈ s.marks, 1 ≤ y.2) →
    (∀ at0 n, s.ctx.lvl ≠ 0 → x.w = true → at0 < 4096 → 1 ≤ n → n ≤ 256 →
      (s.toMach.g x.eN).toNat = at0 + 4096 * n → OwnBlock s (s.toMach.g x.aN) 8 (8 * n) true false →
      let ws := (List.range n).map fun i => (BitVec.ofNat 64 (Mem.nat s.mem (ownKey s (s.toMach.g x.aN) + 8 * i) 8) : Word)
      (verifyFigure ws at0 = none →
        ∃ m, Retires (.fgload x) x.len s m ∧ m = { s.toMach with mem := m.mem, bad := m.bad, marks := m.marks } ∧
          m.markAt s.here at0 = some n ∧
          (∀ i, i < n → Mem.nat m.mem (Key.figure s.here (at0 + i) 0) 8 = (ws[i]?.getD 0).toNat) ∧
          ∀ k, (k < Key.figure s.here at0 0 ∨ Key.figure s.here (at0 + n) 0 ≤ k) → Mem.get m.mem k = Mem.get s.mem k) ∧
      (∀ r i, verifyFigure ws at0 = some (r, i) →
        ∃ v, Traps (.fgload x) x.len s { cause := 0x11, reason := r, value := v, ref := i })) ∧
    (x.aImm ≤ 15 →
      Retires (.fgsel x) x.len s { s.toMach with ctx := { s.ctx with part := BitVec.ofNat 4 x.aImm } } ∧
      (s.ctx.lvl ≠ 0 → ∃ m, Retires (.fgclr x) x.len s m ∧ m = { s.toMach with mem := m.mem, bad := m.bad, marks := m.marks } ∧
        (∀ i, i < 256 → m.markAt s.here (256 * x.aImm + i) = none) ∧
        ∀ k, Mem.get m.mem k = if Key.figure s.here (256 * x.aImm) 0 ≤ k ∧ k < Key.figure s.here (256 * x.aImm + 256) 0 then 0
          else Mem.get s.mem k)) ∧
    (15 < x.aImm → Traps (.fgsel x) x.len s { cause := 0x01, reason := 0x0C, value := BitVec.ofNat 64 x.aImm }) ∧
    (x.w = true → (s.toMach.g x.aN).toNat ≤ 63 → (s.toMach.g x.eN).toNat ≤ 255 →
      let word := s.ctx.part.toNat * 256 + (s.toMach.g x.eN).toNat
      (s.toMach.markAt s.here word ≠ none → Retires (.fgbind x) x.len s { s.toMach with
        ctx := { s.ctx with figs := s.ctx.figs.setIfInBounds (s.toMach.g x.aN).toNat (some (BitVec.ofNat 12 word)) } }) ∧
      (s.toMach.markAt s.here word = none → Traps (.fgbind x) x.len s { cause := 0x0F, reason := 0x02, value := s.toMach.g x.aN }))

/-- R57, R237: a `fig` chain whose number is bound to a marked word runs the figure's micro-operations; where they come to `uend` it retires
with their registers and flags, and its stores leave for the own tile in buffer order; it is the model's reading that they are performed one
by one before the process's next chain (log entry 94). A figure of `uend` alone changes only its count; a number that is not bound traps. -/
def Sys2Proof.Claim.FigureInvocation : Prop :=
  ∀ (x : F2) (op : BitVec 5) (f : BitVec 3) (s : State),
    let num := x.pre.sub % 2 * 32 + op.toNat
    (∀ word, s.ctx.fig num = some word → s.toMach.markAt s.here word.toNat ≠ none →
      (∀ r, FigRun.run word.toNat (figPar x f.toNat num s.ctx.pc.toNat) 4097 0 { m := s.toMach } = .ok r →
        ∃ m, Retires (.fig x op f) x.len s m ∧ m = { r.m with
            ctx := m.ctx, mem := s.mem, bad := s.bad, tileReqs := m.tileReqs, fresh := r.m.fresh + r.stores.length } ∧
          m.ctx = { r.m.ctx with fpflags := r.m.ctx.fpflags ||| BitVec.ofNat 5 r.flags, diag := m.ctx.diag } ∧
          ∃ l, m.tileReqs = r.m.tileReqs ++ l ∧ l.map (fun q => (q.proc, q.loc, q.bytes)) =
            r.stores.map fun y => (r.m.self, y.1, y.2)) ∧
      (s.bad = [] → Mem.nat s.mem (Key.figure s.here word.toNat 0) 8 / 2 ^ 58 = 0x3F →
        ∃ m, Retires (.fig x op f) x.len s m ∧ m = { s.toMach with ctx := { s.ctx with diag := m.ctx.diag } })) ∧
    (s.ctx.fig num = none → Traps (.fig x op f) x.len s { cause := 0x0F, reason := 0x01, value := BitVec.ofNat 64 num })

/-- R228, R230: the digest switches, and `rdctr` for the context: cycle, retired and the three counts of its chains, the others free; the
array's, the copies' and the corrected words of the tile; a server's reads and writes, with the free number of those that moved records
and residency images (log entry 139), its read-modify-writes and ECC words. The counters of the
tile and of a server are the tenant level's; a selector that names no counter is illegal. -/
def Sys2Proof.Claim.DigestSwitchesCounters : Prop :=
  ∀ (x : F2) (s : State),
    let w := (s.toMach.g x.aN).toNat
    (s.ctx.lvl ≠ 0 →
      Retires (.dgon x) x.len s { s.toMach with ctx := { s.ctx with dgOn := true } } ∧
      Retires (.dgoff x) x.len s { s.toMach with ctx := { s.ctx with dgOn := false, dgDone := s.ctx.dgDone || s.ctx.dgOn } }) ∧
    (∀ num, w = num →
      (num = 0 → Retires (.rdctr x) x.len s (s.toMach.setG x.dN s.ctx.cycle)) ∧
      (num = 1 → Retires (.rdctr x) x.len s (s.toMach.setG x.dN s.ctx.retired)) ∧
      (5 ≤ num → num < 8 → Retires (.rdctr x) x.len s (s.toMach.setG x.dN (s.ctx.diag[num - 2]?.getD 0))) ∧
      (num < 8 → ∃ v, Retires (.rdctr x) x.len s (s.toMach.setG x.dN v))) ∧
    (∀ num, num ∈ [0, 1, 3] → s.ctx.lvl ≠ 0 → w = 256 + num →
      Retires (.rdctr x) x.len s (s.toMach.setG x.dN ((s.toMach.tile s.here).ctr[num]?.getD 0))) ∧
    (∀ num sv, num ∈ [0, 1, 2, 6, 7] → sv < 3072 → s.ctx.lvl ≠ 0 → w = 2 ^ 32 * sv + 512 + num →
      Retires (.rdctr x) x.len s (s.toMach.setG x.dN
        ((s.toMach.server sv).ctr[num]?.getD 0 + if num < 2 then s.toMach.rowRequests num sv else 0))) ∧
    (s.ctx.lvl = 0 → (w / 256 % 4 = 1 ∨ w / 256 % 4 = 2) → ∃ v, Traps (.rdctr x) x.len s { cause := 0x02, value := v }) ∧
    (selectorOk w = false → s.ctx.lvl ≠ 0 ∨ (w / 256 % 4 ≠ 1 ∧ w / 256 % 4 ≠ 2) →
      Traps (.rdctr x) x.len s { cause := 0x01, reason := 0x0C, value := s.toMach.g x.aN })

/-- R225: `rstream` puts the low halfword of g(a) into the upper half of the stream number, and sets the counter to g(e), or to 0 without
one; the key, the lower half and everything else stay. A g(a) of more than 16 bits is illegal. -/
def Obligations.StreamNumber : Prop :=
  ∀ (x : F2) (s : State),
    ((s.toMach.g x.aN).toNat / 2 ^ 16 = 0 → Retires (.rstream x) x.len s { s.toMach with ctx := { s.ctx with
      rngId := BitVec.ofNat 32 ((s.toMach.g x.aN).toNat % 2 ^ 16 * 2 ^ 16 + s.ctx.rngId.toNat % 2 ^ 16)
      rngctl := if x.w then s.toMach.g x.eN else 0 } }) ∧
    ((s.toMach.g x.aN).toNat / 2 ^ 16 ≠ 0 → ∃ v, Traps (.rstream x) x.len s { cause := 0x01, reason := 0x0C, value := v })

/-- R224 to R226: `rseed` takes a logged seed on a replay and otherwise a fresh one, which it logs; the key is the seed, the counter 0, the
sequence one on, g(d) the seed's low doubleword. `rstream` sets the stream number and the counter. `vrand` gives element i bits
w×i up of the outputs from the counter on, which advances by the outputs used; `vrandf` retires for the formats it accepts. -/
def Sys2Proof.Claim.RandomNumbers : Prop :=
  ∀ (x : F2) (s : State),
    let seeded := fun (m : Mach) (seed : BitVec 128) => ({ m with
      ctx := { m.ctx with rngKey := seed, rngctl := 0, seedSeq := m.ctx.seedSeq + 1 } } : Mach).setG x.dN (seed.truncate 64)
    (s.ctx.replay = false → s.seeds.length < 65536 → ∃ seed : BitVec 128,
      Retires (.rseed x) x.len s (seeded { s.toMach with seeds := s.seeds ++
        [{ tenant := tenantOf s, nid := s.ctx.nid.toNat, proc := s.ctx.idx.toNat, seq := s.ctx.seedSeq.toNat, s := seed }] } seed)) ∧
    (s.ctx.replay = true → ∀ y n, s.toMach.curNet = some y → y.replay = some n →
      (∀ e, s.seeds.find? (fun e => e.tenant == y.tenant && e.nid == n && e.proc == s.ctx.idx.toNat && e.seq == s.ctx.seedSeq.toNat) = some e →
        (e.bad = false → Retires (.rseed x) x.len s (seeded s.toMach e.s)) ∧
        (e.bad = true → ∃ r v, Traps (.rseed x) x.len s { cause := 0x16, reason := r, value := v })) ∧
      (s.seeds.find? (fun e => e.tenant == y.tenant && e.nid == n && e.proc == s.ctx.idx.toNat && e.seq == s.ctx.seedSeq.toNat) = none →
        Traps (.rseed x) x.len s { cause := 0x0E, reason := 0x02, value := BitVec.ofNat 64 s.ctx.seedSeq.toNat })) ∧
    ((s.toMach.g x.aN).toNat < 65536 → Retires (.rstream x) x.len s { s.toMach with ctx := { s.ctx with
      rngId := BitVec.ofNat 32 ((s.toMach.g x.aN).toNat * 2 ^ 16 + s.ctx.rngId.toNat % 2 ^ 16)
      rngctl := if x.w then s.toMach.g x.eN else 0 } }) ∧
    (65536 ≤ (s.toMach.g x.aN).toNat → Traps (.rstream x) x.len s { cause := 0x01, reason := 0x0C, value := s.toMach.g x.aN }) ∧
    (∀ f, s.ctx.fmt = some f → Plain s.toMach → Aligned s x.dN →
      (f.isInt = true → s.ctx.rngctl.toNat + (s.ctx.vl * f.width + 127) / 128 < 2 ^ 64 → s.ctx.vl ≤ s.ctx.vlmax →
        x.dN + groupRegs s f.width ≤ 32 →
        ∃ m, Retires (.vrand x) x.len s m ∧
          m.ctx = { s.ctx with v := m.ctx.v, vBad := m.ctx.vBad, diag := m.ctx.diag
                               rngctl := s.ctx.rngctl + BitVec.ofNat 64 ((s.ctx.vl * f.width + 127) / 128) } ∧
          ∀ j, j < s.ctx.vl → Active s x.pre j → elemAt m.ctx x.dN f.width j =
            genOut s.ctx.rngKey s.ctx.rngId (s.ctx.rngctl.toNat + f.width * j / 128) / 2 ^ (f.width * j % 128) % 2 ^ f.width) ∧
      (f ∈ [Fmt.bf16, .fp16, .fp32, .fp64] → s.ctx.rngctl.toNat + s.ctx.vl < 2 ^ 64 →
        ∃ m, Retires (.vrandf x) x.len s m ∧ (∀ k, Mem.get m.mem k = Mem.get s.mem k) ∧ m.ctx.g = s.ctx.g ∧
          m.ctx.rngctl = s.ctx.rngctl + BitVec.ofNat 64 ((s.ctx.vl * (if f = .fp64 then 64 else 32) + 127) / 128)))

/-! Parked processes. -/

/-- R213: g(a) names process k of the issuer's network, and it is parked. -/
def Sys2Proof.Claim.ParkedAt (s : State) (x : F2) (k : Nat) (p : Proc) : Prop :=
  (s.toMach.g x.aN).toNat < 65536 ∧ (∃ n, s.toMach.curNetNo = some n ∧ s.toMach.procAt n (s.toMach.g x.aN).toNat = some k) ∧
  s.procs[k]? = some p ∧ p.st = .parked

/-- R213 to R216: of a process of the issuer's network that is not parked, `ctxsave`, `ctxrest` and `resume` answer -1. Of a parked one,
`ctxsave` writes the save record, `ctxrest` takes a record that passes the checks of R215 back, and `resume` lets it run at its
parked chain. -/
def Sys2Proof.Claim.ParkedProcesses : Prop :=
  ∀ (x : F2) (s : State) (k : Nat) (p : Proc), s.ctx.lvl ≠ 0 →
    let e := s.toMach.g x.eN
    ((s.toMach.g x.aN).toNat < 65536 → (∃ n, s.toMach.curNetNo = some n ∧ s.toMach.procAt n (s.toMach.g x.aN).toNat = some k) →
      s.procs[k]? = some p → p.st ≠ .parked →
      Retires (.resume x) x.len s (s.toMach.setG x.dN (BitVec.allOnes 64)) ∧
      (x.w = true → e.toNat % 64 = 0 → ∀ c ∈ [Instr.ctxsave, .ctxrest],
        Retires (c x) x.len s (s.toMach.setG x.dN (BitVec.allOnes 64)))) ∧
    (ParkedAt s x k p → s.cur ≠ some k → Settled s.toMach → s.toMach.settled k = true →
      (p.held = false → p.ctx.place ≠ none →
        ∃ (m : Mach) (q : Proc), Retires (.resume x) x.len s (m.setG x.dN 0) ∧ (m.procs[k]? = some q ∧ q.st = .running ∧ q.record = none) ∧
          (m.ctxOf k).pc = BitVec.ofNat 24 p.park ∧ (m.ctxOf k).g = p.ctx.g ∧ m.mem = s.mem ∧ m.ctx = s.ctx) ∧
      (x.w = true →
        let rcd := saveRecord p.ctx 3 0xFF p.park
        let n := recordLength (p.ctx.saved 0xFF).length p.ctx.tiles p.ctx.replies.length
        (OwnBlock s e 64 n false true → s.bad = [] → Memory.wf s.mem = true → recordPoison p.ctx 0xFF = [] →
          ∃ m, Retires (.ctxsave x) x.len s (({ s.toMach with mem := m } : Mach).setG x.dN (BitVec.ofNat 64 n)) ∧
            (∀ i, i < n → Mem.get m (ownKey s e + i) = rcd[i]?.getD 0) ∧
            ∀ a, (a < ownKey s e ∨ ownKey s e + n ≤ a) → Mem.get m a = Mem.get s.mem a) ∧
        (∀ r m1, e.toNat % 64 = 0 → p.saved = none → s.toMach.readRecord e 64 = .ok (r, m1) → r.u 0 8 = 0x5452494553415645 → r.u 8 2 = 1 → r.u 56 4 % 64 = 0 →
          5888 ≤ r.u 56 4 → ∀ r' m2, s.toMach.readRecord e (r.u 56 4) = .ok (r', m2) → (s.toMach.select k).recordCheck p r' = none →
          ∃ (m : Mach) (c : Ctx) (q : Proc), Retires (.ctxrest x) x.len s (m.setG x.dN 0) ∧ m.mem = s.mem ∧ m.ctx = s.ctx ∧ m.procs[k]? = some q ∧
            q = { p with ctx := c, park := r'.pc } ∧ c.pc = BitVec.ofNat 24 r'.pc ∧
            (∀ i, 1 ≤ i → i < 32 → c.gr i = r'.w (72 + 8 * i)) ∧ c.place = p.ctx.place ∧ c.lvl = p.ctx.lvl)))

/-- R217, R309: `resume.snap` on a descriptor and placement entries that break no rule writes the hub's answer to g(d): -1 where no
snapshot stands, and where the hub accepts, 0 with a live network of the snapshot's id at the index. -/
def Sys2Proof.Claim.SnapshotResumption : Prop :=
  ∀ (x : F2) (s : State) (snap index k : Nat), s.cur = some k → s.ctx.lvl ≠ 0 →
    OwnBlock s (s.toMach.g x.aN) 64 64 true false → snap / 2 ^ 62 = 3 → snap < 2 ^ 64 → snap % 4096 = 0 → index < 65536 →
    Mem.nat s.mem (ownKey s (s.toMach.g x.aN)) 64 = snap + 2 ^ 64 * index →
    let ten := tenantOf s
    let a : Word := BitVec.ofNat 64 snap
    (s.toMach.settle.readSnapshot ten a = none → Retires (.resumeSnap x) x.len s (s.toMach.setG x.dN (BitVec.ofInt 64 (-1)))) ∧
    (∀ (phase : Nat) (m : Mach) (p : Snap), phase = ((s.toMach.curNet.bind fun y => s.toMach.entry ten 1 y.graph).map (·.parent)).getD 0 →
      s.toMach.settle.readSnapshot ten a = some p → s.toMach.hubResume ten a index 65536 [] phase = (0, m) →
      Retires (.resumeSnap x) x.len s ((m.select k).setG x.dN 0) ∧ m.isLive ten 0 index = true ∧
        ∃ y, m.nets[s.nets.length]? = some y ∧ y.live = true ∧ y.resumed = true ∧ y.nid = p.nid ∧ y.index = index ∧ y.tenant = ten)

/-! Requests to memory servers, to other tiles and to the host. -/

/-- The request of key k, among those on their way. -/
def Sys2Proof.Claim.Pending (s : State) (k : Nat) (r : Req) : Prop := s.reqs.find? (fun y => y.key == k) = some r

/-- The requests with that of r's key replaced. -/
def Sys2Proof.Claim.withReq (s : State) (r : Req) : List Req := s.reqs.map fun y => if y.key == r.key then r else y

/-- A request has reached its home: a memory server has accepted it, or the host has answered it. -/
def Sys2Proof.Claim.AtHome (y : Req) : Prop := if y.host then y.stage = .answered else y.stage ≠ .issued ∧ y.stage ≠ .gateway

/-- R275: a request behind its next ECC word: as it was, or, with its last byte, in the stage that is given. -/
def Sys2Proof.Claim.Advanced (r : Req) (last : Stage) : Req :=
  { r with done := r.done + r.span, stage := if r.bytes ≤ r.done + r.span then last else r.stage }

/-- R100, R271, R274, R275, R276, R343: a request goes to one of the eight slots of its channel's gateway in issue order, is accepted
where its server has room once those before it on its channel are at their homes, keeps memory as it was until it is performed, and is
performed one ECC word after another, behind what was accepted before it on the same word and is not yet performed and recoded: a read takes the word's bytes, a write leaves
its own; an uncorrectable word is poisoned and answered with 0x16. -/
def Sys2Proof.Claim.ServerRequests : Prop :=
  ∀ (s : State) (k : Nat) (r : Req), Pending s k r →
    (r.stage = .issued → r.host = false → (∀ y ∈ s.toMach.earlier r, y.stage ≠ .issued) →
      ((s.toMach.earlier r).filter fun y => y.stage = .gateway).length < 8 →
      exec (.gatewayForward k) s = .next { s with tick := s.tick + 1, reqs := withReq s { r with stage := .gateway } }) ∧
    (r.stage = .gateway → r.host = false →
      (∀ y ∈ s.toMach.earlier r, AtHome y) →
      (s.reqs.filter fun y => y.stage = .accepted && serverOf y.loc == serverOf r.loc).length < 128 →
      ∃ t, exec (.serverAccept k) s = .next t ∧ t.mem = s.mem ∧ t.ctx = s.ctx ∧
        t.reqs = (s.reqs.filter fun (y : Req) => y.key != k) ++ [{ r with stage := .accepted }]) ∧
    (r.stage = .accepted → (∀ y ∈ s.reqs.takeWhile (fun y => y.key != k), y.atServer = false ∨ r.meets y = false) → s.bad = [] →
      (∀ n b, r.op = .read n b → exec (.serverPerform k .clean) s = .next { s with
        tick := s.tick + 1
        reqs := withReq s { Advanced r .answered with value := r.value + Mem.nat s.mem r.spot r.span * 2 ^ (8 * r.done) } }) ∧
      (∀ bs, r.op = .write bs → Memory.wf s.mem = true → ∃ m, exec (.serverPerform k .clean) s = .next { s with
          tick := s.tick + 1, mem := m, reqs := withReq s (Advanced r (if bs.length < 32 then .merging else .answered)) } ∧
        Mem.bytes m r.spot r.span = (bs.drop r.done).take r.span ∧
        ∀ a, (a < r.spot ∨ r.spot + r.span ≤ a) → Mem.get m a = Mem.get s.mem a) ∧
      (∀ n b, r.op = .read n b → r.done < n → ∃ t, exec (.serverPerform k .uncorrectable) s = .next t ∧ t.mem = s.mem ∧
        t.bad = [unitOf r.spot] ∧ t.reqs = withReq s { Advanced r .answered with fault := some (0x16, 0x01) })) ∧
    (r.stage = .merging → exec (.rmwMergeComplete k) s = .next { s with
      tick := s.tick + 1, reqs := withReq s { r with stage := .answered } })

/-- R192, R193, R324, R343: an answer arrives at the running process: a read's bytes are laid in its buffer, which is the model's reading one
doubleword a step (log entry 94), and with the last of them the request is gone and its tag holds a read; an atomic's tag holds the old
value, an acknowledged write leaves memory alone; an error goes to the tag. A full write is acknowledged from its acceptance on, and is
then still to be performed. -/
def Sys2Proof.Claim.PacketAnswers : Prop :=
  ∀ (s : State) (k tag : Nat) (r : Req), Pending s k r → r.tag = some tag → tag < 8 → r.chan < 2 →
    s.cur = some r.proc → s.bad = [] → Memory.wf s.mem = true →
    let q := s.ctx.mq r.chan
    let tagged := fun (x : Tag) => s.ctx.setMq r.chan { q with tags := q.tags.setIfInBounds tag x }
    let after := fun (m : Memory) (x : Tag) => exec (.packetReplyArrival k) s = .next { s with
      tick := s.tick + 1, reqs := s.reqs.filter fun (y : Req) => y.key != k, mem := m, ctx := tagged x }
    let laid := fun (b n : Nat) (m : Memory) =>
      (∀ i, r.laid ≤ i → i < n → Mem.get m (Key.tile s.here b + i) = BitVec.ofNat 8 (r.value / 256 ^ i)) ∧
      ∀ a, (a < Key.tile s.here b + r.laid ∨ Key.tile s.here b + n ≤ a) → Mem.get m a = Mem.get s.mem a
    (r.stage = .answered →
      (∀ n b, r.op = .read n b → r.fault = none → s.ctx.place ≠ none → r.laid < n →
        (n ≤ r.laid + 8 → ∃ m, after m { kind := .read } ∧ laid b n m) ∧
        (r.laid + 8 < n → ∃ m, laid b (r.laid + 8) m ∧ exec (.packetReplyArrival k) s = .next { s with
          tick := s.tick + 1, mem := m, reqs := withReq s { r with laid := r.laid + 8 } })) ∧
      (∀ op v w, r.op = .atomic op v w → r.fault = none →
        after s.mem { kind := .atomic, value := BitVec.ofNat 64 r.value }) ∧
      (∀ bs, r.op = .write bs → r.fault = none → after s.mem { kind := .acked }) ∧
      (∀ bs cause reason, r.op = .write bs → r.fault = some (cause, reason) →
        after s.mem { kind := .held, cause := cause, reason := reason, value := r.addr })) ∧
    (∀ bs, r.stage = .accepted → r.host = false → r.op = .write bs → 32 ≤ bs.length → r.fault = none →
      exec (.packetReplyArrival k) s = .next { s with
        tick := s.tick + 1, reqs := withReq s { r with tag := none }, ctx := tagged { kind := .acked } })

/-- R270, R282, R283, R285, R290: a store is performed at its tile, behind those of its process that were sent there before it by another chain or meet its bytes (R147); the host
bridge, while the host answers it, performs the accesses of a channel in order, and a time-out answers one with the fault 0x07. -/
def Sys2Proof.Claim.TileAndHostAccesses : Prop :=
  ∀ (s : State) (k : Nat), Memory.wf s.mem = true → s.bad = [] →
    (∀ r, s.tileReqs.find? (fun y => y.key == k) = some r → r.half = none →
      (∀ y ∈ s.tileReqs.takeWhile (fun y => y.key != k), s.toMach.landsFirst y r = false) →
      ∃ m, exec (.remoteTileAccess k) s = .next { s with
          tick := s.tick + 1, mem := m, tileReqs := s.tileReqs.filter fun (y : TileReq) => y.key != k } ∧
        Mem.bytes m r.loc r.bytes.length = r.bytes ∧
        ∀ a, (a < r.loc ∨ r.loc + r.bytes.length ≤ a) → Mem.get m a = Mem.get s.mem a) ∧
    (∀ r, s.tileReqs.find? (fun y => y.key == k) = some r →
      (∃ y ∈ s.tileReqs.takeWhile (fun y => y.key != k), y.proc = r.proc ∧ tileOfKey y.loc = tileOfKey r.loc ∧
        (y.group ≠ r.group ∨ y.meets r = true)) →
      exec (.remoteTileAccess k) s = .next s) ∧
    (∀ r, Pending s k r → r.host = true → r.stage ≠ .answered →
      (s.hostUp = false → exec (.hostBridgeCompletion k) s = .next s) ∧
      exec (.hostPathTimeout k) s = .next { s with
        tick := s.tick + 1, reqs := withReq s { r with stage := .answered, fault := some (0x07, 0x00) } } ∧
      (s.hostUp = true → (∀ y ∈ s.toMach.earlier r, AtHome y) →
        (∀ n b, r.op = .read n b → exec (.hostBridgeCompletion k) s = .next { s with
          tick := s.tick + 1, reqs := withReq s { r with stage := .answered, value := Mem.nat s.mem r.loc n } }) ∧
        (∀ bs, r.op = .write bs → ∃ m, exec (.hostBridgeCompletion k) s = .next { s with
            tick := s.tick + 1, mem := m, reqs := withReq s { r with stage := .answered } } ∧
          Mem.bytes m r.loc bs.length = bs ∧
          ∀ a, (a < r.loc ∨ r.loc + bs.length ≤ a) → Mem.get m a = Mem.get s.mem a)))

/-- R184, R185: the next element of a copy or a zero fill of elements of at most eight bytes whose places lie on the process's own tile, behind
which no counter is due: the destination takes the source's bytes, or zeros, every other byte reads as before, the copy goes on. -/
def Sys2Proof.Claim.CopyElements : Prop :=
  ∀ (s : State) (k : Nat) (c : Copy), s.copies.find? (fun y => y.key == k) = some c → s.cur = some c.proc →
    let d := c.desc.toNat
    let n := 2 ^ copyEc d
    let src := (copyAddrs d c.next (c.next % dimCount d 0)).1
    let dst := (copyAddrs d c.next (c.next % dimCount d 0)).2
    (c.kind = 0 ∨ c.kind = 2) → copyKind d = c.kind → copyEc d ≤ 3 → copyProg d = false → c.next + 1 < copyCount d → c.got = [] → c.put = 0 →
    (c.kind = 0 → Reaches s src n true false) → Reaches s dst n false true → Memory.wf s.mem = true →
    ∃ t, exec (.copyElement k) s = .next t ∧ t.ctx = s.ctx ∧ t.port = s.port ∧
      t.copies = s.copies.map (fun y => if y.key == k then { c with next := c.next + 1 } else y) ∧
      ∀ a, Mem.get t.mem a = if ownKey s dst ≤ a ∧ a < ownKey s dst + n then
        (if c.kind = 0 then Mem.get s.mem (ownKey s src + (a - ownKey s dst)) else 0) else Mem.get s.mem a

/-! Channels, pools, barriers and the Snowplough. -/

/-- The machine with channel ch of network n changed, and one tick on. -/
def Sys2Proof.Claim.chanTo (s : State) (n ch : Nat) (c : Chan) : State :=
  { s with tick := s.tick + 1, nets := s.nets.modify n fun x => { x with chans := x.chans.modify ch fun _ => c, active := true } }

/-- R292, R294, R295, R304, R314, R318: on a channel that no span link carries the oldest token in flight reaches its reader's buffer, in
its tile as far as the reader is placed and base slots are free there; for a reader that has exited it is discarded and counted; a gate
marks the channel during a cut; a slot return frees a slot. A channel that is to be bound anew delivers what it had in flight, in order,
and keeps its free slots; one between packages takes the lowest working link, and waits while there is none. A fault record reaches the
supervisor's channel. -/
def Sys2Proof.Claim.ChannelTraffic : Prop :=
  ∀ (s : State) (n ch : Nat) (x : Net), s.nets[n]? = some x →
    (∀ c, x.chans[ch]? = some c →
      let near := s.toMach.readerPlaced x c
      (∀ tok r, c.flight = tok :: r → tok ≠ .gate → c.span = none →
        (c.rExited = false → exec (.tokenArrival n ch) s = .next (chanTo s n ch { c with
          flight := r, arrivals := (c.arrivals + 1) % 2 ^ 32, buf := c.buf ++ [tok]
          inTile := if near = true ∧ c.inTile = c.buf.length ∧ c.inTile < c.decl.slots then c.inTile + 1 else c.inTile })) ∧
        (c.rExited = true → ∃ t z, exec (.tokenArrival n ch) s = .next t ∧ t.mem = s.mem ∧ t.ctx = s.ctx ∧ t.nets[n]? = some z ∧
          z.chans[ch]? = some { c with flight := r, arrivals := (c.arrivals + 1) % 2 ^ 32 } ∧
          z.discard = x.discard + (if tok = .eos then 0 else 1))) ∧
      (∀ r, c.flight = .gate :: r → c.span = none →
        exec (.tokenArrival n ch) s = .next (chanTo s n ch { c with flight := r, gated := x.cut.isSome })) ∧
      (0 < c.returns → c.span = none →
        exec (.slotReturn n ch) s = .next (chanTo s n ch { c with returns := c.returns - 1, free := c.free + 1 })) ∧
      (x.live = true → c.rebind = true → c.sent = 0 →
        (s.toMach.spans x c.decl = false → c.span = none → c.rExited = false → (∀ tok ∈ c.flight, tok ≠ .gate) →
          ∃ t z d, exec (.channelRebind n ch) s = .next t ∧ t.mem = s.mem ∧ t.nets[n]? = some z ∧ z.chans[ch]? = some d ∧
            d.flight = [] ∧ d.buf = c.buf ++ c.flight ∧ d.free = c.free ∧ d.rebind = false ∧ d.span = none ∧
            d.inTile = (if near then min d.buf.length c.decl.slots else 0) ∧ ∀ j, j ≠ ch → z.chans[j]? = x.chans[j]?) ∧
        (s.toMach.spans x c.decl = true → c.flight = [] →
          (∀ l, (s.port.links[l]?).map (·.up) = some true → (∀ j, j < l → (s.port.links[j]?).map (·.up) = some false) →
            ∃ t z d, exec (.channelRebind n ch) s = .next t ∧ t.mem = s.mem ∧ t.nets[n]? = some z ∧ z.chans[ch]? = some d ∧
              d.span = some l ∧ d.buf = c.buf ∧ d.free = c.free ∧ d.rebind = false) ∧
          ((∀ l ∈ s.port.links.toList, l.up = false) → exec (.channelRebind n ch) s = .next s)))) ∧
    (∀ i rcd rest, x.faultQ = (i, rcd) :: rest → x.live = true → x.faultBuf.length + 8 ≤ 512 →
      exec (.faultRecordDelivery n) s = .next { s with
        tick := s.tick + 1
        nets := s.nets.modify n fun x => { x with faultQ := rest, faultBuf := x.faultBuf ++ rcd, active := true } })

/-- R205: a lap that may close appends its puts in order and serves waiting requests; with no request open the pool holds what it held
and those puts, and its lap is one on. -/
def Sys2Proof.Claim.LapCloses : Prop :=
  ∀ (s : State) (n i : Nat) (x : Net) (p : Pool), s.nets[n]? = some x → x.pools[i]? = some p → s.toMach.mayClose x p = true →
    p.gets = [] →
    exec (.lapClose n i) s = .next { s with
      tick := s.tick + 1
      nets := s.nets.modify n fun x => { x with
        pools := x.pools.modify i fun _ => { p with
          toks := p.toks ++ (sortBy (·.key) (p.puts.filter fun y => y.lap ≤ p.closed)).map (·.tok)
          check := (sortBy (·.key) (p.puts.filter fun y => y.lap ≤ p.closed)).foldl (fun c y => foldTok c y.tok) p.check
          puts := p.puts.filter fun y => p.closed < y.lap
          closed := p.closed + 1 }
        active := true } }

/-- R202, R203: the oldest arrival is counted and becomes pending for its process; the arrival that completes a generation begins the next,
where no `sstep` took part; one with an `sstep` waits until everything its participants sent is delivered. -/
def Sys2Proof.Claim.BarrierArrivals : Prop :=
  ∀ (s : State) (n i : Nat) (x : Net) (b : Barrier), s.nets[n]? = some x → x.barrier i = some b →
    (∀ k ss r, b.flight = (k, ss) :: r → b.due = false → k < s.procs.length →
      ∃ t z c, exec (.barrierArrival n i) s = .next t ∧ t.mem = s.mem ∧ t.nets[n]? = some z ∧ z.barrier i = some c ∧
        (t.toMach.ctxOf k).pendingAt i = some b.gen ∧ c.flight = r ∧
        (b.here.length + 1 = b.count → b.sstep = false → ss = false → c.gen = b.gen + 1 ∧ c.here = []) ∧
        (b.here.length + 1 = b.count → (b.sstep = true ∨ ss = true) → c.gen = b.gen ∧ c.due = true) ∧
        (b.here.length + 1 ≠ b.count → c.gen = b.gen ∧ c.here = b.here ++ [k])) ∧
    (b.due = true → s.toMach.delivered x b.here = true →
      ∃ t z c, exec (.sstepGenerationComplete n i) s = .next t ∧ t.mem = s.mem ∧ t.ctx = s.ctx ∧ t.nets[n]? = some z ∧
        z.barrier i = some c ∧ c.gen = b.gen + 1 ∧ c.here = [] ∧ c.due = false)

/-- R201, R177: a `vwait` that waits with a time-out finds it expired; a pattern stream fetches its next token, end of stream behind its
last element. -/
def Sys2Proof.Claim.WaitsAndFetches : Prop :=
  ∀ (s : State) (k : Nat) (p : Proc), s.procs[k]? = some p →
    (p.st = .blocked → p.held = false → (s.toMach.ctxOf k).issued.started = true →
      ∃ t, exec (.vwaitTimeout k) s = .next t ∧ t.mem = s.mem ∧ (t.toMach.ctxOf k).issued.fired = true ∧
        (t.toMach.ctxOf k).pc = (s.toMach.ctxOf k).pc) ∧
    (∀ j, j < 8 → ((s.toMach.ctxOf k).stream j).wants = true →
      ∃ t tok, exec (.patternTokenFetch k j) s = .next t ∧ t.port = s.port ∧
        ((t.toMach.ctxOf k).stream j).ahead = ((s.toMach.ctxOf k).stream j).ahead ++ [tok] ∧
        (let y := (s.toMach.ctxOf k).stream j
         copyCount y.block.toNat ≤ 512 / copySize y.block.toNat * (y.pos + y.ahead.length) → tok = .eos ∧ t.mem = s.mem))

/-- R298 to R302: the first pass of a sweep notes the counts of a network whose processes are all blocked; the second waits until the other
package has answered, where processes stand there, and where the network is not quiescent only ends the sweep, and where it is, doubles the narrowest channel on which a writer is blocked, if the growth pool has
the granules; with no writer blocked and no supervisor, a deadlock ends the network with the record of the first process that waits.
Rests on readings of the model: log entries 59, 60. -/
def Obligations.SnowploughSweeps : Prop :=
  ∀ (s : State) (n : Nat) (x : Net), s.nets[n]? = some x →
    (s.toMach.sweepable x = true → exec (.sweepFirstPass n) s = .next { s with
      tick := s.tick + 1
      nets := s.nets.modify n fun x => { x with active := false, sweep := .first (x.chans.map fun c => (c.pushes, c.arrivals)), heard := 0 } }) ∧
    (∀ counts, x.sweep = .first counts →
      (s.toMach.hasAway x = true → x.heard < 4 → exec (.sweepSecondPass n) s = .next s) ∧
      (s.toMach.quiescent x counts = false → (s.toMach.hasAway x = false ∨ 4 ≤ x.heard) → exec (.sweepSecondPass n) s = .next { s with
        tick := s.tick + 1, nets := s.nets.modify n fun x => { x with sweep := .idle } }) ∧
      (s.toMach.quiescent x counts = true → ∀ slots id c, s.toMach.narrowest x = some (slots, false, id) → x.chans[id]? = some c →
        baseGranules slots c.decl.vector ≤ x.grow →
        ∃ t z d, exec (.sweepSecondPass n) s = .next t ∧ t.mem = s.mem ∧ t.ctx = s.ctx ∧ t.procs = s.procs ∧ t.nets[n]? = some z ∧
          z.sweep = .idle ∧ z.grow = x.grow - baseGranules slots c.decl.vector ∧ z.chans[id]? = some d ∧
          d.slots = 2 * c.slots ∧ d.free = c.free + c.slots ∧ d.grown = c.grown + baseGranules slots c.decl.vector) ∧
      (s.toMach.quiescent x counts = true → s.toMach.narrowest x = none → x.dead = false → s.toMach.supOf n = none →
        ∀ k, x.procs.find? (fun j => s.toMach.stance x j = .onRead ∧ s.toMach.isParked j = false) = some k →
        ∃ t z rcd, exec (.sweepSecondPass n) s = .next t ∧ t.mem = s.mem ∧ t.ctx = s.ctx ∧ t.procs = s.procs ∧ t.nets[n]? = some z ∧
          z.dead = true ∧ z.fatal = true ∧ z.faults = [((s.toMach.ctxOf k).idx.toNat, rcd)]))

/-! Placement. -/

/-- The process record k changed, and one tick on. -/
def Sys2Proof.Claim.procTo (s : State) (k : Nat) (p : Proc) : State := { s with tick := s.tick + 1, procs := s.procs.modify k fun _ => p }

/-- R260, R320, R321: a process that others wait for is asked to give way; one that has not done so by the deadline stops at its chain; a
stopped process whose work is over and whose record fits the save pool is swapped out and gives its context up, with the record
under a fresh number. -/
def Sys2Proof.Claim.Preemption : Prop :=
  ∀ (s : State) (k : Nat) (p : Proc), s.procs[k]? = some p →
    (p.decl.pinned = false → p.req = false → p.held = false → s.toMach.isPlaced k = true → s.toMach.contended k = true →
      (p.st = .running → exec (.preemptionRequest k) s = .next (procTo s k { p with req := true })) ∧
      (∀ w, p.st = .blocked → p.wait = some w →
        (w.kind ≠ .engine ∨ w.code = 8 →
          exec (.preemptionRequest k) s = .next (procTo s k { p with st := .saving, stop := some { kind := 1, keep := 0xFF }, req := true })) ∧
        (w.kind = .engine → w.code ≠ 8 → exec (.preemptionRequest k) s = .next (procTo s k { p with req := true })))) ∧
    (p.req = true → p.st = .running → p.held = false →
      exec (.preemptionDeadline k) s = .next (procTo s k { p with st := .saving, stop := some { kind := 2, keep := 0xFF } })) ∧
    (∀ st, p.st = .saving → p.stop = some st → s.toMach.settled k = true →
      let c := s.toMach.ctxOf k
      let len := recordLength (c.saved st.keep).length c.tiles c.replies.length
      let room := ((s.toMach.tenant (s.toMach.tenantOf k)).map (·.pool)).getD 0
      (s.toMach.poolUsed (s.toMach.tenantOf k) + len ≤ room →
        ∃ t q n, exec (.saveSequence k) s = .next t ∧ t.port = s.port ∧ t.procs[k]? = some q ∧ q.st = .swapped ∧
          q.saved = some (s.fresh, n) ∧ q.req = false ∧ (t.toMach.ctxOf k).place = none ∧ (t.toMach.ctxOf k).pc = c.pc ∧
          (t.toMach.ctxOf k).g = c.g ∧ (t.toMach.ctxOf k).streams = c.streams ∧
          (t.toMach.ctxOf k).diag = c.diag.setIfInBounds 5 (c.diag[5] + 1)) ∧
      (room < s.toMach.poolUsed (s.toMach.tenantOf k) + len →
        exec (.saveSequence k) s = .next (procTo s k { p with
          st := if p.wait = none then .running else .blocked, stop := none, req := false })))

/-- R40, R252, R260, R322: a process that finds a place begins there with the start values, or goes on there with its saved context; one
whose wait is over becomes ready behind the others. -/
def Sys2Proof.Claim.Placement : Prop :=
  ∀ (s : State) (k : Nat) (p : Proc) (x : Net) (im : Image),
    s.procs[k]? = some p → s.nets[p.net]? = some x → s.toMach.image x.image = some im →
    (p.saved = none → p.started = false → ∀ pl, s.toMach.placeNow k = some pl →
      ∃ t q, exec (.placeProcess k) s = .next t ∧ t.port = s.port ∧ t.cur = some k ∧ t.procs[k]? = some q ∧ q.st = .running ∧
        q.started = true ∧ t.ctx.place = some pl ∧ t.ctx.pc = BitVec.ofNat 24 p.decl.entry ∧
        t.toMach.g 1 = 0 ∧ t.toMach.g 2 = BitVec.ofNat 64 (bitsAt (p.decl.win[1]?.getD 0).toNat 24 24) ∧
        (∀ i, i < 8 → t.toMach.g (3 + i) = p.decl.args[i]?.getD 0) ∧
        (∀ i, i < 4 → t.ctx.win[i]? = some (windowBits i (p.decl.win[i]?.getD 0))) ∧ t.toMach.g 31 = BitVec.ofNat 64 im.rtblk ∧
        t.ctx.lvl = (if p.decl.tenant then 1 else 0) ∧ t.ctx.vl = 0 ∧ t.ctx.nid = BitVec.ofNat 32 x.nid) ∧
    (∀ slot len pl, p.saved = some (slot, len) → s.toMach.isReady k = true →
      (s.toMach.select k).recordCheck p (s.toMach.heldRecord slot len) = none → s.toMach.placeNow k = some pl →
      ∃ t q, exec (.hubRestore k) s = .next t ∧ t.port = s.port ∧ t.cur = some k ∧ t.procs[k]? = some q ∧ q.st = .running ∧
        q.saved = none ∧ t.ctx.place = some pl ∧ t.ctx.pc = BitVec.ofNat 24 (s.toMach.heldRecord slot len).pc ∧
        (t.ctx.far = none ↔ (s.toMach.heldRecord slot len).pc < 2 ^ 24) ∧
        ∀ i, 1 ≤ i → i < 32 → t.toMach.g i = (s.toMach.heldRecord slot len).w (72 + 8 * i)) ∧
    (p.held = false → p.away = false → p.st = .swapped ∨ p.st = .unplacedBlocked →
      (p.wait = none ∨ (∃ w, p.wait = some w ∧ s.toMach.waitMet k w = true) →
        ∃ t, exec (.unplacedWake k) s = .next t ∧ t.mem = s.mem ∧ t.ctx = s.ctx ∧ t.fresh = s.fresh + 1 ∧
          t.procs = s.procs.modify k fun p => { p with st := .unplaced, order := s.fresh }) ∧
      (∀ w, p.wait = some w → s.toMach.waitMet k w = false →
        exec (.unplacedWake k) s = .next (procTo s k { p with st := .unplacedBlocked })))

/-! The level table. -/

/-- No teardown of a queue is under way. -/
def Sys2Proof.Claim.NoTeardown (s : State) : Prop := ∀ q ∈ s.port.queues, q.tearing = false

/-- The entry of a tenant's level table, final with a status. -/
def Sys2Proof.Claim.FinalAs (s : State) (ten level index status : Nat) : Prop :=
  ∃ e r, s.toMach.entry ten level index = some e ∧ e.live = false ∧ e.record = some r ∧ r.status = status ∧ r.level = level ∧ r.index = index

/-- R239 to R241, R243: an entry becomes final: a network whose processes have all exited and whose channels and pools have nothing on its way as done (1), one with
a fatal fault as faulted (3), a cancelled one as cancelled (2), or dependency-cancelled (5); a graph, phase or job whose members are all final, and which
is a graph, closed, cancelled or a job that has had a phase, by the strongest of their statuses and of its own cancel. A cancel reaches the network below it, and ends a process at its next chain. -/
def Sys2Proof.Claim.LevelTable : Prop :=
  (∀ (s : State) (ten index : Nat) (e : Entry) (n : Nat) (x : Net),
    s.toMach.entry ten 0 index = some e → e.live = true → s.toMach.liveNet ten index = some n → s.nets[n]? = some x →
    s.deps = [] → NoTeardown s →
    let gone := x.procs.all s.toMach.hasExited = true
    (gone → x.cancel = true → ∃ t, exec (.entryFinal ten 0 index) s = .next t ∧ FinalAs t ten 0 index (if x.depCut then 5 else 2)) ∧
    (x.cancel = false → x.fatal = true → ∃ t, exec (.entryFinal ten 0 index) s = .next t ∧ FinalAs t ten 0 index 3) ∧
    (gone → x.cancel = false → x.fatal = false → x.cut = none → (∀ c ∈ x.chans, c.flight = []) → (∀ p ∈ x.pools, p.puts = []) →
      ∃ t z, exec (.entryFinal ten 0 index) s = .next t ∧ FinalAs t ten 0 index 1 ∧ t.nets[n]? = some z ∧ z.live = false) ∧
    (e.cancel = true → s.subs = [] → (∀ k ∈ x.procs, s.toMach.isPlaced k = true ∧ s.toMach.hasExited k = false) →
      ∃ t z, exec (.cancelPropagate ten 0 index) s = .next t ∧ t.mem = s.mem ∧ t.nets[n]? = some z ∧ z.cancel = true ∧
        ∀ k ∈ x.procs, ∃ p, t.procs[k]? = some p ∧ p.cancel = true)) ∧
  (∀ (s : State) (ten level index : Nat) (e : Entry), 1 ≤ level → s.toMach.entry ten level index = some e → e.live = true → NoTeardown s →
    e.left = 0 → level = 1 ∨ e.closed = true ∨ e.cancel = true ∨ (level = 3 ∧ 0 < e.members) →
    ∃ t, exec (.entryFinal ten level index) s = .next t ∧ FinalAs t ten level index
      (if 4 ∈ e.statuses then 4 else if 3 ∈ e.statuses then 3 else if e.cancel = true ∨ 2 ∈ e.statuses then 2 else if 5 ∈ e.statuses then 5
        else if 6 ∈ e.statuses then 6 else 1)) ∧
  (∀ (s : State) (k : Nat) (p : Proc), s.procs[k]? = some p → p.cancel = true →
    ∃ t q, exec (.cancelledTrap k) s = .next t ∧ t.port = s.port ∧ t.procs[k]? = some q ∧ q.st = .exited ∧
      (t.toMach.ctxOf k).place = none)

/-- R252, R254 to R256: the submission that comes first among a tenant's ready ones is dispatched where its network can be made: it has a home
from then on; a network with every pinned process placed starts. -/
def Sys2Proof.Claim.NetworkStarts : Prop :=
  (∀ (s : State) (ten i : Nat) (m : Mach), (s.toMach.dispatchOrder ten).head? = some i → s.toMach.dispatchSub i = some m →
    ∃ t b y, exec (.networkDispatch ten) s = .next t ∧ t.port = s.port ∧ t.subs[i]? = some b ∧ b.home = some s.nets.length ∧
      t.nets[s.nets.length]? = some y ∧ y.live = true ∧ y.index = b.net.index ∧ y.tenant = b.tenant ∧ y.image = b.net.image) ∧
  (∀ (s : State) (n : Nat) (x : Net), s.nets[n]? = some x → x.live = true → x.started = false → x.cancel = false → x.resumed = false →
    (∀ im, s.toMach.image x.image = some im → im.ready = false) →
    (∀ k p, k ∈ x.procs → s.procs[k]? = some p → p.decl.pinned = true → p.st ≠ .unplaced) →
    exec (.launchStart n) s = .next { s with
      tick := s.tick + 1, nets := s.nets.modify n fun x => { x with started := true, active := true } })

/-- R304 to R307, R309: a process whose gate is due and whose work is over is held, with a gate behind its last token on each channel that it
writes; a cut whose processes are all held ends its network as cut (6) where the tenant's range takes the snapshot;
a resumed network goes on. Rests on readings of the model: log entries 62, 63. -/
def Obligations.Cuts : Prop :=
  (∀ (s : State) (k : Nat) (p : Proc) (x : Net), s.procs[k]? = some p → s.nets[p.net]? = some x →
    s.toMach.gateDue k = true → s.toMach.settled k = true →
    ∃ t q z, exec (.takeGate k) s = .next t ∧ t.mem = s.mem ∧ t.ctx = s.ctx ∧ t.procs[k]? = some q ∧ q.held = true ∧
      q.req = false ∧ q.st = (if p.st = .saving then (if p.wait = none then .running else .blocked) else p.st) ∧ t.nets[p.net]? = some z ∧
      z.chans = x.chans.map fun c => if c.decl.wproc == p.index then { c with flight := c.flight ++ [.gate] } else c) ∧
  (∀ (s : State) (n : Nat) (x : Net) (a : Word) (im : Image) (e : Entry), s.nets[n]? = some x → x.cut = some a →
    s.toMach.image x.image = some im → s.toMach.cutDone x = true → s.toMach.entry x.tenant 0 x.index = some e → s.deps = [] →
    NoTeardown s → s.bad = [] → s.reqs = [] →
    (∀ i, i < ((s.toMach.snapshot x im).bytes.length + 31) / 32 →
      ∃ sp, s.toMach.translate (some x.tenant) (a + BitVec.ofNat 64 (32 * i)) 32 false true = .ok sp) →
    ∃ t z, exec (.cutComplete n) s = .next t ∧ FinalAs t x.tenant 0 x.index 6 ∧ t.nets[n]? = some z ∧ z.live = false) ∧
  (∀ (s : State) (n : Nat) (x : Net), s.nets[n]? = some x → x.resumed = true → x.started = false → x.live = true → x.cancel = false →
    ∃ t z, exec (.snapshotRebuild n) s = .next t ∧ t.port = s.port ∧ t.nets[n]? = some z ∧ z.started = true)

/-! The arbiters of a tile, and poison in the hub. -/

/-- R262, R264: the arbiters of a tile change that tile alone, and do nothing where nothing is queued or at work. On a tile with idle lane
groups, the one vector chain that is queued, in a context with a share weight and a deficit that covers it, is bound to lane group 0, its
cost leaves the deficit and joins the context's total, and with the queue empty the deficit is zero. The idle array goes to the first
context after the one last served whose head is a matrix chain, for as many cycles as the chain costs. -/
def Sys2Proof.Claim.TileArbiters : Prop :=
  ∀ (s : State) (tile : Nat),
    let a := (s.toMach.tile tile).arb
    let still := (∀ g ∈ a.groups.toList, g = none) ∧ a.array = none
    let Local := fun (i : Instr) (b : Arbiter) => ∃ t, exec i s = .next t ∧ t.toMach = { s.toMach with tiles := t.tiles, tick := s.tick + 1 } ∧
      t.port = s.port ∧ (∀ j, j ≠ tile → t.toMach.tile j = s.toMach.tile j) ∧ (t.toMach.tile tile).arb = b
    (a.idle = true → exec (.laneGroupBind tile) s = .next s ∧ exec (.arrayGrant tile) s = .next s) ∧
    (a.idle = false → (∃ b, Local (.laneGroupBind tile) b) ∧ ∃ b, Local (.arrayGrant tile) b) ∧
    (∀ c j, still → c < 8 → j.matrix = false → a.queue c = [j] → (∀ i, i ≠ c → a.queue i = []) → a.ptr = c →
      (s.toMach.weights tile)[c]?.getD 0 ≠ 0 → j.cost ≤ a.d[c]?.getD 0 →
      ∃ b, Local (.laneGroupBind tile) b ∧ b.groups[0]? = some (some (c, j, j.cost)) ∧ b.queue c = [] ∧ b.d[c]? = some 0 ∧
        b.total[c]? = some (a.total[c]?.getD 0 + j.cost)) ∧
    (∀ c j q n, still → n < 8 → c = (a.served + 1 + n) % 8 → a.queue c = j :: q → j.matrix = true →
      (∀ i, i < n → ∀ y, (a.queue ((a.served + 1 + i) % 8)).head? = some y → y.matrix = false) →
      ∃ b, Local (.arrayGrant tile) b ∧ b.served = c ∧ b.array = some (c, j, j.cost) ∧ b.queue c = q)

/-- R267: poison in the entry of a submission that waits in queue SRAM ends it with status 4 and is logged with the owner's graph. -/
def Sys2Proof.Claim.QueueSramPoison : Prop :=
  ∀ (s : State) (i : Nat) (b : Sub), s.subs[i]? = some b → b.home = none → b.ended = none → NoTeardown s →
    ∃ t d l, exec (.queueSramPoison (.submission i)) s = .next t ∧ t.subs[i]? = some d ∧ d.ended = some 4 ∧
      t.port.log.getLast? = some l ∧ l.source = 3 ∧ l.detail = b.net.graph

/-! Messages of the host. -/

/-- R330: the message that a step of the host delivers. -/
def Sys2Proof.Claim.msgOf : Instr → Option (Sqp × Msg)
  | .submitNetwork h m => some (h, .submitNetwork m)
  | .submitGraph h g p ns es => some (h, .submitGraph g p ns es)
  | .openPhase h p => some (h, .openPhase p)
  | .closePhase h p => some (h, .closePhase p)
  | .sqpCancel h l i => some (h, .sqpCancel l i)
  | .teardownQueue h => some (h, .teardownQueue)
  | .resetQueue h => some (h, .resetQueue)
  | .registerImage h a n => some (h, .registerImage a n)
  | .prePlaceImage h i => some (h, .prePlaceImage i)
  | .releaseImage h i => some (h, .releaseImage i)
  | .sqpCut h i a => some (h, .sqpCut i a)
  | .resumeSnapshot h a i p => some (h, .resumeSnapshot a i p)
  | .openQueue h c q p => some (h, .openQueue c q p)
  | .closeQueue h c q => some (h, .closeQueue c q)
  | .jobStart h j => some (h, .jobStart j)
  | .jobEnd h t => some (h, .jobEnd t)
  | .rangeRegion h t b n rd w => some (h, .rangeRegion t b n rd w)
  | .hostWindow h t b n => some (h, .hostWindow t b n)
  | .setAgeCap h v c => some (h, .setAgeCap v c)
  | .setHostPathTimeout h n => some (h, .setHostPathTimeout n)
  | .readErrorLog h => some (h, .readErrorLog)
  | .clearErrorLog h => some (h, .clearErrorLog)
  | .readCounters h d p n => some (h, .readCounters d p n)
  | .releaseSeedLog h n => some (h, .releaseSeedLog n)
  | .readCertificateChain h => some (h, .readCertificateChain)
  | .attest h n => some (h, .attest n)
  | .firmwareChunk h b => some (h, .firmwareChunk b)
  | .setSqpUdpPort h p => some (h, .setSqpUdpPort p)
  | _ => none

/-- R330: the messages for work queues, and those for management queue 0 alone. -/
def Sys2Proof.Claim.isWork : Msg → Bool
  | .submitNetwork _ | .submitGraph _ _ _ _ | .openPhase _ | .closePhase _ | .sqpCancel _ _ | .teardownQueue | .resetQueue
  | .sqpCut _ _ | .resumeSnapshot _ _ _ => true
  | _ => false

def Sys2Proof.Claim.isDevice : Msg → Bool
  | .jobStart _ | .jobEnd _ | .rangeRegion _ _ _ _ _ | .hostWindow _ _ _ | .setAgeCap _ _ | .setHostPathTimeout _ | .readErrorLog
  | .clearErrorLog | .readCertificateChain | .firmwareChunk _ | .setSqpUdpPort _ => true
  | _ => false

/-- R330, R331, R336: the queue that a header names is q, open and whole; the message is the next in order; the queue is the sender's, and
the device has started (management queue 0 needs neither). Nothing waits in the hub to be sent; no queue has two records. -/
structure Sys2Proof.Claim.InTurn (s : State) (h : Sqp) (q : SqpQueue) : Prop where
  number : if h.mgmt then h.queue < 16 else h.queue < 65536
  found  : s.port.queueOf h.mgmt h.queue = some q
  isOpen : q.isOpen = true
  turn   : h.seq = q.nextIn
  held   : q.held = []
  skip   : q.skip = []
  whole  : q.tearing = false ∧ q.torn = false
  sender : (h.mgmt = true ∧ h.queue = 0) ∨ (q.tenant = h.tenant ∧ s.port.start = .ready ∧ s.port.firmware.recovery = false)
  idle   : s.outbox = []
  quiet  : NoTeardown s
  apart  : s.port.queues.Pairwise fun a b => ¬(a.mgmt = b.mgmt ∧ a.queue = b.queue)

/-- R330 to R332: the answer, the data behind it in messages of at most 8,144 bytes, eight of them the seq, and the acknowledgement. That
an acknowledgement takes a seq and is kept is the model's choice (log entry 141). -/
def Sys2Proof.Claim.replies (h : Sqp) (code detail : Nat) (data : List Byte) : List OutMsg :=
  { mgmt := h.mgmt, queue := h.queue, body := .answer h.seq code detail } ::
    ((pieces (data.length + 1) 8136 data).map fun b => { mgmt := h.mgmt, queue := h.queue, body := .data h.seq b }) ++
    [{ mgmt := h.mgmt, queue := h.queue, body := .ack h.seq }]

/-- R331: the queue behind a message taken in its turn, with messages sent to the host on it. -/
def Sys2Proof.Claim.taken (h : Sqp) (l : List OutMsg) (y : SqpQueue) : SqpQueue :=
  { y with
    nextIn := h.seq + 1, acks := y.acks ++ [h.seq]
    unacked := y.unacked ++ l.zipIdx.map fun z => (y.nextOut + z.2, z.1), nextOut := y.nextOut + l.length }

/-- The step delivers a message in its turn: its effect leaves the machine m and the port p, and it is acknowledged and answered; each
message goes out in a datagram under the queue's key, and what the 4,096 messages that a queue keeps have no room for waits in the hub. -/
def Sys2Proof.Claim.Answers (i : Instr) (s : State) (h : Sqp) (code detail : Nat) (data : List Byte) (m : Mach) (p : Port) : Prop :=
  ∃ t q, exec i s = .next t ∧ s.port.queueOf h.mgmt h.queue = some q ∧ t.turns = s.turns ∧
    let room := 4096 - q.unacked.length
    let out := (replies h code detail data).take room
    t.toMach = { m with tick := m.tick + 1, outbox := (replies h code detail data).drop room } ∧
    t.port = { p.updQueue h.mgmt h.queue (taken h out) with
      sent := p.sent ++ out.zipIdx.map fun z => q.datagram (q.nextOut + z.2) z.1 }

/-- R332: a refused message has no effect. -/
def Sys2Proof.Claim.Refuses (i : Instr) (s : State) (h : Sqp) (code : Nat) : Prop := Answers i s h code 0 [] s.toMach s.port

/-- R338, R337, R333, R328, R334, R335: the settings and readings of the device owner on management queue 0. -/
def Sys2Proof.Claim.SqpSettings : Prop :=
  ∀ (s : State) (h : Sqp) (q : SqpQueue), InTurn s h q → h.mgmt = true → h.queue = 0 →
    (∀ server cap, server < 3072 → 64 ≤ cap → cap ≤ 65535 → ∃ m, Answers (.setAgeCap h server cap) s h 0 0 [] m s.port ∧
      m = { s.toMach with servers := m.servers } ∧ (m.server server).cap = cap ∧ ∀ j, j ≠ server → m.server j = s.toMach.server j) ∧
    (∀ server cap, 3072 ≤ server ∨ cap < 64 ∨ 65535 < cap → Refuses (.setAgeCap h server cap) s h 6) ∧
    (∀ ns, 10000 ≤ ns → ns ≤ 100000000 → Answers (.setHostPathTimeout h ns) s h 0 0 [] s.toMach { s.port with timeout := ns }) ∧
    (∀ ns, ns < 10000 ∨ 100000000 < ns → Refuses (.setHostPathTimeout h ns) s h 6) ∧
    Answers (.clearErrorLog h) s h 0 0 [] s.toMach { s.port with log := [] } ∧
    (∃ data, data.length = 64 * s.port.log.length ∧ Answers (.readErrorLog h) s h 0 0 data s.toMach s.port ∧
      ∀ i e, s.port.log[i]? = some e → (data.drop (64 * i)).take 9 = bytesOfNat 8 e.starts ++ [BitVec.ofNat 8 e.source]) ∧
    (∀ port, port < 65536 → Answers (.setSqpUdpPort h port) s h 0 0 [] s.toMach { s.port with udpPort := port }) ∧
    Answers (.readCertificateChain h) s h 0 0 Config.certificates s.toMach s.port ∧
    (∀ tenant y base len, s.toMach.tenant tenant = some y → base + len ≤ 2 ^ 64 →
      Answers (.hostWindow h tenant base len) s h 0 0 []
        { s.toMach with tenants := s.tenants.map fun (t : Tenant) => if t.id = tenant then { t with window := (base, len) } else t } s.port) ∧
    (∀ tenant y (base : Word) len rd w, s.toMach.tenant tenant = some y → y.gone = false → isGlobal base = true → bitsAt base.toNat 48 14 = 0 →
      bitsAt base.toNat 0 48 + len ≤ 2 ^ 48 →
      Answers (.rangeRegion h tenant base len rd w) s h 0 (s.port.regions.length + 1) [] s.toMach { s.port with
        regions := s.port.regions ++ [{ rkey := s.port.regions.length + 1, tenant := tenant, base := base, len := len, rd := rd, w := w }] }) ∧
    (∀ bytes, 1 ≤ bytes.length → bytes.length ≤ 8144 →
      let b := s.port.firmware.staged ++ bytes
      let long := 2 ^ 24 < field b 16 8
      (b.length < 512 ∨ (b.length < firmwareLength b ∧ ¬ long) → Answers (.firmwareChunk h bytes) s h 0 0 [] s.toMach
        { s.port with firmware := { s.port.firmware with staged := b } }) ∧
      (512 ≤ b.length → firmwareLength b ≤ b.length ∨ long →
        if firmwareOk b s.port.firmware.fuses then Answers (.firmwareChunk h bytes) s h 0 0 [] s.toMach
          { s.port with firmware := { s.port.firmware with staged := [], flash := some b } }
        else Answers (.firmwareChunk h bytes) s h 0 0 [] s.toMach
          { s.port with firmware := { s.port.firmware with staged := [], recovery := true } }))

/-- R338, R335: what a tenant may ask for on a management queue of its own as well. -/
def Sys2Proof.Claim.SqpReadings : Prop :=
  ∀ (s : State) (h : Sqp) (q : SqpQueue), InTurn s h q → h.mgmt = true →
    (∀ spot num, spot < 2048 → num < 2 ∨ num = 3 → h.queue = 0 ∨ (∃ t, s.toMach.tenant h.tenant = some t ∧ spot ∈ t.tiles) →
      Answers (.readCounters h 1 spot num) s h 0 0 (bytesOfWord ((s.toMach.tile spot).ctr[num]?.getD 0)) s.toMach s.port) ∧
    (∀ spot num, spot < 2048 → num < 5 → h.queue ≠ 0 → (∀ t, s.toMach.tenant h.tenant = some t → spot ∉ t.tiles) →
      Refuses (.readCounters h 1 spot num) s h 8) ∧
    (∀ nid, Answers (.releaseSeedLog h nid) s h 0 0 []
      { s.toMach with seeds := s.seeds.filter fun (y : Seed) => ¬(y.tenant = h.tenant ∧ y.nid = nid) } s.port) ∧
    (∀ nonce, ∃ data, data.length = 388 ∧ data.take 64 = bytesOfNat 64 nonce.toNat ∧
      (data.drop 64).take 64 = bytesOfNat 64 (sha512 s.port.firmware.body).toNat ∧
      (data.drop 160).take 8 = bytesOfNat 8 s.port.starts ∧ Answers (.attest h nonce) s h 0 0 data s.toMach s.port)

/-- R331, R332, R336, R329: every message: one that stands behind its turn is acknowledged and left, one more than 256 ahead is left, one
ahead within those is held, with an acknowledgement of what was applied; a queue that is not open answers 5, a device that has not started 9; a message on the wrong class of queue
is malformed (6), one of the owner's on another queue not permitted (8). -/
def Sys2Proof.Claim.SqpDelivery : Prop :=
  ∀ (s : State) (i : Instr) (h : Sqp) (m : Msg) (q : SqpQueue), msgOf i = some (h, m) → InTurn s { h with seq := q.nextIn } q →
    let ack : OutMsg := { mgmt := h.mgmt, queue := h.queue, body := .ack (q.nextIn - 1) }
    (h.seq < q.nextIn → ∃ t, exec i s = .next t ∧
      (q.unacked.length < 4096 → t.toMach = { s.toMach with tick := s.tick + 1 } ∧ t.port.queueOf h.mgmt h.queue =
        some { q with acks := q.acks ++ [q.nextIn - 1], unacked := q.unacked ++ [(q.nextOut, ack)], nextOut := q.nextOut + 1 }) ∧
      (4096 ≤ q.unacked.length → t.toMach = { s.toMach with tick := s.tick + 1, outbox := [ack] } ∧
        t.port.queueOf h.mgmt h.queue = some { q with acks := q.acks ++ [q.nextIn - 1] })) ∧
    (q.nextIn + 256 < h.seq → exec i s = .next { s with tick := s.tick + 1 }) ∧
    (q.nextIn < h.seq → h.seq ≤ q.nextIn + 256 → ∃ t y, exec i s = .next t ∧
      t.toMach = { s.toMach with tick := s.tick + 1, outbox := t.outbox } ∧
      t.port.queueOf h.mgmt h.queue = some y ∧ y.held = [(h, m)] ∧ y.nextIn = q.nextIn ∧
      (q.nextIn = 0 → t.outbox = [] ∧ y.unacked = q.unacked) ∧
      (0 < q.nextIn → q.unacked.length < 4096 → t.outbox = [] ∧ y.unacked = q.unacked ++ [(q.nextOut, ack)]) ∧
      (0 < q.nextIn → 4096 ≤ q.unacked.length → t.outbox = [ack] ∧ y.unacked = q.unacked)) ∧
    (h.seq = q.nextIn → h.mgmt = isWork m → Refuses i s h 6) ∧
    (h.seq = q.nextIn → h.mgmt = true → isDevice m = true → h.queue ≠ 0 → Refuses i s h 8)

/-- R332, R336: a queue that nobody has opened answers 5, and a device that has not started answers 9 on every queue but management queue
0; neither has an effect on the machine. -/
def Sys2Proof.Claim.SqpClosed : Prop :=
  ∀ (s : State) (i : Instr) (h : Sqp) (m : Msg), msgOf i = some (h, m) → s.outbox = [] → NoTeardown s →
    (if h.mgmt then h.queue < 16 else h.queue < 65536) → h.mgmt = false ∨ h.queue ≠ 0 →
    (s.port.start = .ready → s.port.queueOf h.mgmt h.queue = none →
      ∃ t y, exec i s = .next t ∧ t.toMach = { s.toMach with tick := s.tick + 1 } ∧ t.port.queueOf h.mgmt h.queue = some y ∧
        y.isOpen = false ∧ y.unacked.map (·.2) = [{ mgmt := h.mgmt, queue := h.queue, body := .answer h.seq 5 0 }]) ∧
    (∀ q, s.port.start ≠ .ready → s.port.queueOf h.mgmt h.queue = some q → q.unacked.length < 4096 →
      ∃ t y, exec i s = .next t ∧ t.toMach = { s.toMach with tick := s.tick + 1 } ∧ t.port.queueOf h.mgmt h.queue = some y ∧
        y.nextIn = q.nextIn ∧ y.unacked = q.unacked ++ [(q.nextOut, { mgmt := h.mgmt, queue := h.queue, body := .answer h.seq 9 0 })])

/-- R238, R330: phases and cancels of a work queue: a phase that is not live is opened, a live one closed; a cancel marks a live entry and
leaves any other as it is. -/
def Sys2Proof.Claim.SqpPhases : Prop :=
  ∀ (s : State) (h : Sqp) (q : SqpQueue), InTurn s h q → h.mgmt = false →
    (∀ phase, phase < 65536 → s.toMach.isLive h.tenant 2 phase = false →
      ∃ m e, Answers (.openPhase h phase) s h 0 0 [] m s.port ∧ m = { s.toMach with entries := m.entries } ∧
        m.entry h.tenant 2 phase = some e ∧ e.live = true ∧ e.closed = false ∧ e.left = 0 ∧ e.queue = h.queue ∧
        ∀ ten level index, (ten, level, index) ≠ (h.tenant, 2, phase) → (ten, level, index) ≠ (h.tenant, 3, 0) →
          m.entry ten level index = s.toMach.entry ten level index) ∧
    (∀ phase, s.toMach.isLive h.tenant 2 phase = true → phase < 65536 → Refuses (.openPhase h phase) s h 2) ∧
    (∀ phase e, s.toMach.entry h.tenant 2 phase = some e → e.live = true →
      ∃ m, Answers (.closePhase h phase) s h 0 0 [] m s.port ∧ m = { s.toMach with entries := m.entries } ∧
        m.entry h.tenant 2 phase = some { e with closed := true } ∧
        ∀ ten level index, (ten, level, index) ≠ (h.tenant, 2, phase) → m.entry ten level index = s.toMach.entry ten level index) ∧
    (∀ level index e, level < 4 → index < 65536 → s.toMach.entry h.tenant level index = some e →
      ∃ m, Answers (.sqpCancel h level index) s h 0 0 [] m s.port ∧ m = { s.toMach with entries := m.entries } ∧
        m.entry h.tenant level index = some { e with cancel := e.cancel || e.live })

/-- R254, R330 to R332: a submission with room in queue SRAM, or else in its tenant's overflow region: the networks wait there in order, with
the edges between them, each live in the level table under its graph; with both full it is refused with 7, an unknown image with 1, a live
index with 2. -/
def Sys2Proof.Claim.SqpSubmissions : Prop :=
  ∀ (s : State) (h : Sqp) (q : SqpQueue), InTurn s h q → h.mgmt = false →
    (∀ n im, n.index < 65536 → n.graph < 65536 → n.phase < 65536 → s.toMach.tenantImage h.tenant n.image = some im →
      (s.toMach.isLive h.tenant 0 n.index = true → Refuses (.submitNetwork h n) s h 2) ∧
      (s.toMach.isLive h.tenant 0 n.index = false → n.args = 0 → s.toMach.couldRun h.tenant im = true →
        s.toMach.graphBad h.tenant n.graph n.phase = none →
        (s.toMach.inSram < 262144 ∨ s.toMach.inOverflow h.tenant < Config.overflow h.tenant →
          ∃ m e g, Answers (.submitNetwork h n) s h 0 0 [] m s.port ∧ m = { s.toMach with entries := m.entries, subs := m.subs } ∧
            m.subs = s.subs ++ [{ tenant := h.tenant, queue := h.queue, net := n, args := [], aside := decide (262144 ≤ s.toMach.inSram) }] ∧
            m.entry h.tenant 0 n.index = some e ∧ e.live = true ∧ e.parent = n.graph ∧ e.left = im.procs.length ∧
            m.entry h.tenant 1 n.graph = some g ∧ g.live = true ∧ 1 ≤ g.left) ∧
        (262144 ≤ s.toMach.inSram → Config.overflow h.tenant ≤ s.toMach.inOverflow h.tenant → Refuses (.submitNetwork h n) s h 7))) ∧
    (∀ n, n.index < 65536 → n.graph < 65536 → n.phase < 65536 → s.toMach.tenantImage h.tenant n.image = none →
      Refuses (.submitNetwork h n) s h 1) ∧
    (∀ graph phase nets edges l, graph < 65536 → phase < 65536 → 1 ≤ nets.length → nets.length ≤ 256 →
      s.toMach.inSram + nets.length ≤ 262144 → s.toMach.edgesOk h.tenant nets.length edges = true → s.toMach.isLive h.tenant 1 graph = false →
      (nets.map (·.index)).Nodup → nets.mapM (s.toMach.checkSub h.tenant) = .ok l → s.toMach.graphBad h.tenant graph phase = none →
      ∃ m, Answers (.submitGraph h graph phase nets edges) s h 0 0 [] m s.port ∧
        m = { s.toMach with entries := m.entries, subs := m.subs, deps := m.deps } ∧
        m.subs = s.subs ++ (nets.zip l).map (fun y =>
          { tenant := h.tenant, queue := h.queue, net := { y.1 with graph := graph }, args := y.2.2 }) ∧
        m.deps = s.deps ++ edges.map (fun e =>
          { src := s.subs.length + e.src, dst := s.subs.length + e.dst, kind := e.kind, ctr := e.ctr, base := e.base }) ∧
        (∀ n ∈ nets, m.isLive h.tenant 0 n.index = true) ∧ m.isLive h.tenant 1 graph = true)

/-- R209, R303, R217, R309: a cut reaches the live network at the index and leaves anything else alone; a resumption that the hub accepts
brings the network back, one that it refuses changes nothing. -/
def Sys2Proof.Claim.SqpCutsResumptions : Prop :=
  ∀ (s : State) (h : Sqp) (q : SqpQueue), InTurn s h q → h.mgmt = false →
    (∀ index (a : Word), index < 65536 → isGlobal a = true → a.toNat % 4096 = 0 →
      (s.toMach.liveNet h.tenant index = none → Answers (.sqpCut h index a) s h 0 0 [] s.toMach s.port) ∧
      (∀ n x, s.toMach.liveNet h.tenant index = some n → s.nets[n]? = some x → x.cut = none → x.cancel = false → x.fatal = false →
        ∃ m z, Answers (.sqpCut h index a) s h 0 0 [] m s.port ∧ m = { s.toMach with nets := m.nets, procs := m.procs } ∧
          m.nets[n]? = some z ∧ z.cut = some a ∧ z.chans = x.chans ∧
          ∀ k i p, x.procs[i]? = some k → x.isSource i = true → s.procs[k]? = some p → p.away = false → ∃ y, m.procs[k]? = some y ∧ y.gated = true)) ∧
    (∀ index (a : Word), isGlobal a = false ∨ a.toNat % 4096 ≠ 0 → Refuses (.sqpCut h index a) s h 6) ∧
    (∀ (a : Word) index place, index < 65536 → isGlobal a = true → a.toNat % 4096 = 0 → place.length ≤ 65536 →
      (∀ y ∈ place, y.proc < 65536 ∧ y.x < 64 ∧ y.y < 32) →
      (∀ m, (s.toMach.usePhase h.tenant 0 h.queue).hubResume h.tenant a index h.queue place 0 = (0, m) → m.outbox = [] →
        Answers (.resumeSnapshot h a index place) s h 0 0 [] m s.port) ∧
      (∀ r m code, (r, code) ∈ [((-1 : Int), 1), (-2, 2), (-3, 3), (-4, 10)] →
        (s.toMach.usePhase h.tenant 0 h.queue).hubResume h.tenant a index h.queue place 0 = (BitVec.ofInt 64 r, m) →
        Refuses (.resumeSnapshot h a index place) s h code))

/-- R329, R330: management opens another queue of a tenant with a new key exchange and both sequences at 0, and closes a management queue. -/
def Sys2Proof.Claim.SqpQueues : Prop :=
  ∀ (s : State) (h : Sqp) (q : SqpQueue), InTurn s h q → h.mgmt = true →
    ∀ mgmt queue tenant, (if mgmt then 1 ≤ queue ∧ queue < 16 else queue < 65536) → (mgmt, queue) ≠ (h.mgmt, h.queue) →
      s.toMach.queueOwner mgmt queue = some tenant → h.queue = 0 ∨ tenant = h.tenant →
      (∀ pub, pub < 2 ^ 1064 → ∃ y, Answers (.openQueue h mgmt queue pub) s h 0 0 (bytesBig 133 (Config.hubPublic s.tick)) s.toMach
          { s.port with queues := (s.port.queues.filter fun z => ¬(z.mgmt = mgmt ∧ z.queue = queue)) ++ [y] } ∧
        y.mgmt = mgmt ∧ y.queue = queue ∧ y.tenant = tenant ∧ y.isOpen = true ∧ y.torn = false ∧ y.nextIn = 0 ∧ y.nextOut = 0 ∧
        y.held = [] ∧ y.skip = [] ∧ y.unacked = [] ∧ y.pub = pub ∧ y.epoch = 0) ∧
      (s.port.queueOf mgmt queue = none → Refuses (.closeQueue h mgmt queue) s h 5) ∧
      (∀ y, s.port.queueOf mgmt queue = some y → y.isOpen = true → mgmt = true →
        Answers (.closeQueue h mgmt queue) s h 0 0 [] s.toMach { s.port with
          queues := s.port.queues.map fun z => if z.mgmt = mgmt ∧ z.queue = queue then { z with isOpen := false } else z })

/-- R266: what the teardown of a tenant's work queue has done: networks of the queue that no cut holds are cancelled, its phases closed, and
the queue is being torn down still, or what it is to become. -/
def Sys2Proof.Claim.TornDown (s t : State) (ten queue : Nat) (became : SqpQueue → Prop) : Prop :=
  (∀ (n : Nat) (x : Net), s.nets[n]? = some x → x.live = true → x.tenant = ten → x.queue = queue → x.cut = none →
    ∃ z, t.nets[n]? = some z ∧ z.cancel = true) ∧
  (∀ e ∈ t.entries, e.tenant = ten → e.level = 2 → e.queue = queue → e.closed = true) ∧
  ∃ y, t.port.queueOf false queue = some y ∧ (y.tearing = true ∨ became y)

/-- R266, R330, R339: teardown and reset on the queue itself, and the close of a work queue from management. -/
def Sys2Proof.Claim.SqpTeardowns : Prop :=
  ∀ (s : State) (h : Sqp) (q : SqpQueue), InTurn s h q → s.deps = [] →
    (h.mgmt = false →
      (∃ t, exec (.teardownQueue h) s = .next t ∧ TornDown s t q.tenant h.queue fun y => y.torn = true) ∧
      ∃ t, exec (.resetQueue h) s = .next t ∧ TornDown s t q.tenant h.queue fun y => y.epoch = q.epoch + 1 ∧ y.nextIn = 0 ∧ y.torn = false) ∧
    (h.mgmt = true → ∀ queue tenant y, queue < 65536 → s.toMach.queueOwner false queue = some tenant → h.queue = 0 ∨ tenant = h.tenant →
      s.port.queueOf false queue = some y → y.isOpen = true →
      ∃ t, exec (.closeQueue h false queue) s = .next t ∧ TornDown s t y.tenant queue fun z => z.isOpen = false)

/-- R249, R256, R330: an image that the loader accepts is registered under the next handle, one that it refuses answers 4 with the condition;
pre-placing reserves contexts and releasing gives them back. -/
def Sys2Proof.Claim.SqpImages : Prop :=
  ∀ (s : State) (h : Sqp) (q : SqpQueue), InTurn s h q → h.mgmt = true →
    (∀ (a : Word) len bs, isGlobal a = true → s.reqs = [] → s.toMach.readAll h.tenant a len = some bs →
      (∀ im, loadImage (s.images.length + 1) h.tenant bs = .ok im →
        Answers (.registerImage h a len) s h 0 (s.images.length + 1) [] { s.toMach with images := s.images ++ [im] } s.port) ∧
      (∀ c, loadImage (s.images.length + 1) h.tenant bs = .error c → Answers (.registerImage h a len) s h 4 c [] s.toMach s.port)) ∧
    (∀ (a : Word) len, isGlobal a = false → Refuses (.registerImage h a len) s h 6) ∧
    (∀ handle, s.toMach.tenantImage h.tenant handle = none →
      Refuses (.prePlaceImage h handle) s h 1 ∧ Refuses (.releaseImage h handle) s h 1) ∧
    (∀ handle im, s.toMach.tenantImage h.tenant handle = some im →
      (im.ready = true → Answers (.prePlaceImage h handle) s h 0 0 [] s.toMach s.port ∧
        Answers (.releaseImage h handle) s h 0 0 [] { s.toMach with
          images := s.images.map fun (i : Image) => if i.handle = handle then { i with ready := false, slots := [] } else i } s.port) ∧
      (im.ready = false → s.toMach.planSlots im = none → Refuses (.prePlaceImage h handle) s h 3) ∧
      (∀ l, im.ready = false → s.toMach.planSlots im = some l →
        ∃ m, Answers (.prePlaceImage h handle) s h 0 0 [] m s.port ∧ m = { s.toMach with mem := m.mem, bad := m.bad, images := m.images } ∧
          m.images = s.images.map fun (i : Image) => if i.handle = handle then { i with ready := true, slots := l } else i))

/-- R338, R339, R30: a job start gives the tenant what it assigns where nobody holds it, and refuses what another tenant holds; a job end
takes it back: its tiles are to be zeroed, its RDMA regions and images are gone, its queues close. -/
def Sys2Proof.Claim.SqpJobs : Prop :=
  ∀ (s : State) (h : Sqp) (q : SqpQueue), InTurn s h q → h.mgmt = true → h.queue = 0 →
    (∀ j, jobFieldsOk j = true → j.ranges = [] → s.toMach.tenant j.tenant = none →
      (s.toMach.taken j = true → Refuses (.jobStart h j) s h 3) ∧
      (s.toMach.taken j = false →
        ∃ m y e, Answers (.jobStart h j) s h 0 0 [] m s.port ∧ m = { s.toMach with tenants := s.tenants ++ [y], entries := m.entries } ∧
          y.id = j.tenant ∧ y.tiles = j.tiles ∧ y.stackNos = j.stackNos ∧ y.queues = j.queues ∧ y.arr = j.arr.getD 0 ∧ y.bank = j.bank ∧
          y.rows = j.rows ∧ y.active = [] ∧ y.staged = [] ∧ y.gone = false ∧
          m.entry j.tenant 3 0 = some e ∧ e.live = true)) ∧
    (∀ j t, jobFieldsOk j = true → j.ranges = [] → s.toMach.tenant j.tenant = some t → t.gone = false → Refuses (.jobStart h j) s h 2) ∧
    (∀ tenant, s.toMach.tenant tenant = none → Refuses (.jobEnd h tenant) s h 1) ∧
    (∀ tenant y, s.toMach.tenant tenant = some y → y.gone = false →
      ∃ t z, exec (.jobEnd h tenant) s = .next t ∧ t.toMach.tenant tenant = some z ∧ z.gone = true ∧ z.tiles = y.tiles ∧
        (∀ k ∈ y.tiles, (t.toMach.tile k).zeroing = true) ∧ (∀ r ∈ t.port.regions, r.tenant = tenant → r.live = false) ∧
        (∀ i ∈ t.images, i.tenant = tenant → i.live = false) ∧
        ∀ y ∈ t.port.queues, y.tenant = tenant → y.mgmt = false ∨ y.queue ≠ 0 → y.isOpen = false ∨ y.tearing = true)

/-! The hub as sender, and the bulk-data port. -/

/-- R331: an acknowledgement frees what was sent up to it and resets the interval, and a record held back for want of room goes out; a
retransmission doubles the interval up to 100 ms. -/
def Sys2Proof.Claim.SqpSending : Prop :=
  ∀ (s : State) (mgmt : Bool) (queue : Nat) (q : SqpQueue), s.port.queueOf mgmt queue = some q → NoTeardown s →
    s.port.queues.Pairwise (fun a b => ¬(a.mgmt = b.mgmt ∧ a.queue = b.queue)) →
    (∀ seq, ∃ t y, exec (.sqpAcknowledgement mgmt queue seq) s = .next t ∧ t.port.queueOf mgmt queue = some y ∧ y.interval = 100 ∧
      (s.outbox = [] → t.toMach = { s.toMach with tick := s.tick + 1 } ∧ y.unacked = q.unacked.filter (fun z => seq < z.1)) ∧
      (∀ b, s.outbox = [{ mgmt := mgmt, queue := queue, body := b }] → q.isOpen = true →
        (q.unacked.filter fun z => seq < z.1).length < 4096 → t.outbox = [] ∧
        y.unacked = (q.unacked.filter fun z => seq < z.1) ++ [(q.nextOut, { mgmt := mgmt, queue := queue, body := b })])) ∧
    (q.unacked ≠ [] → ∃ t, exec (.sqpRetransmit mgmt queue) s = .next t ∧ t.toMach = { s.toMach with tick := s.tick + 1 } ∧
      t.port.queueOf mgmt queue = some { q with interval := min (2 * q.interval) 100000 }) ∧
    (q.unacked = [] → ∃ t, exec (.sqpRetransmit mgmt queue) s = .next t ∧ t.port.queueOf mgmt queue = some q)

/-- R333, R288: RDMA within a registered region, of at most 256 bytes that end at no later than the next multiple of 256: a write leaves its
bytes and is acknowledged, a read brings the bytes there; outside every region an access is refused; SEND and the atomics are invalid;
a queue pair of 4,096 or above is dropped. -/
def Sys2Proof.Claim.BulkData : Prop :=
  ∀ (s : State) (qp rkey : Nat) (a : Word),
    (4096 ≤ qp → ∀ c ∈ [Instr.rdmaWrite qp rkey a [], .rdmaRead qp rkey a 0, .rdmaRefusedVerb qp],
      exec c s = .next { s with port := { s.port with dropped := s.port.dropped + 1 } }) ∧
    (qp < 4096 →
      exec (.rdmaRefusedVerb qp) s = .next { s with port := { s.port with rdma := s.port.rdma ++ [.nakInvalid qp] } } ∧
      (∀ bytes, (∀ r ∈ s.port.regions, r.rkey = rkey → r.live = true → r.w = true →
          a.toNat < r.base.toNat ∨ r.base.toNat + r.len < a.toNat + bytes.length) →
        exec (.rdmaWrite qp rkey a bytes) s = .next { s with port := { s.port with rdma := s.port.rdma ++ [.nakAccess qp] } }) ∧
      (∀ bytes r x, s.port.regionFor rkey a bytes.length true = some r → 1 ≤ bytes.length → bytes.length + a.toNat % 256 ≤ 256 →
        s.toMach.translate (some r.tenant) a bytes.length false false = .ok x → s.reqs = [] → s.bad = [] → Memory.wf s.mem = true →
        ∃ t, exec (.rdmaWrite qp rkey a bytes) s = .next t ∧ t.port.rdma = s.port.rdma ++ [.ack qp] ∧ t.ctx = s.ctx ∧
          Mem.bytes t.mem x.key bytes.length = bytes ∧
          ∀ k, (k < x.key ∨ x.key + bytes.length ≤ k) → Mem.get t.mem k = Mem.get s.mem k) ∧
      (∀ len r x, s.port.regionFor rkey a len false = some r → 1 ≤ len → len + a.toNat % 256 ≤ 256 →
        s.toMach.translate (some r.tenant) a len false false = .ok x → s.reqs = [] → s.bad = [] →
        ∃ t, exec (.rdmaRead qp rkey a len) s = .next t ∧ t.mem = s.mem ∧ t.ctx = s.ctx ∧
          t.port.rdma = s.port.rdma ++ [.data qp (Mem.bytes s.mem x.key len)]))

/-- A frame dropped and counted. -/
def Sys2Proof.Claim.Drops (s : State) : State := { s with port := { s.port with dropped := s.port.dropped + 1 } }

/-- R328, R329, R330: of the frames that come in, one that is no IPv6 frame of at most 9,216 bytes, or of no protocol that the hub answers, is
dropped and counted, and so is a datagram whose header or tag fails; one whose header and tag hold delivers the message of its type, or the
host's acknowledgement, which takes its seq, and answers 6 where its payload is malformed; bulk data go to their own steps; a discovery or
echo frame is answered; a priority flow control frame pauses the priorities that it names. Rests on readings of the model: log
entries 120, 121, 140, 141. -/
def Sys2Proof.Claim.Frames : Prop :=
  ∀ (s : State) (frame : List Byte),
    ((9216 < frame.length ∨ fieldBig frame 12 2 ≠ 0x86DD) → (frame.length < 34 ∨ fieldBig frame 12 4 ≠ 0x88080101) →
      exec (.droppedFrame frame) s = .next (Drops s)) ∧
    (∀ on off, frameKind s.port.udpPort frame = .pause on off → ∃ l, exec (.droppedFrame frame) s = .next { s with port := { s.port with paused := l } } ∧
      ∀ i, i ∈ l ↔ i ∈ on ∨ (i ∈ s.port.paused ∧ i ∉ off)) ∧
    (frameKind s.port.udpPort frame = .other → exec (.droppedFrame frame) s = .next (Drops s)) ∧
    (frameKind s.port.udpPort frame = .bulk → exec (.droppedFrame frame) s = .next s) ∧
    (∀ echo, frameKind s.port.udpPort frame = .icmp echo →
      exec (.icmpv6NeighbourDiscoveryAndEcho echo frame) s = .next { s with
        port := { s.port with frames := s.port.frames ++ [Config.icmpAnswer ((if echo then 1 else 0) :: frame)] } }) ∧
    (∀ echo, frameKind s.port.udpPort frame ≠ .icmp echo → exec (.icmpv6NeighbourDiscoveryAndEcho echo frame) s = .next (Drops s)) ∧
    (∀ b, frameKind s.port.udpPort frame = .sqp b →
      (sqpHeader b = none → exec (.droppedFrame frame) s = .next (Drops s)) ∧
      (∀ h type, sqpHeader b = some (h, type) →
        (s.port.queueOf h.mgmt h.queue = none → exec (.droppedFrame frame) s = .next (Drops s)) ∧
        (∀ q, s.port.queueOf h.mgmt h.queue = some q →
          let opened := gcmOpen q.keyBytes (q.nonce false h.seq) (b.take 32) (b.drop 32)
          (opened = none → exec (.droppedFrame frame) s = .next (Drops s)) ∧
          (∀ text, opened = some text →
            (type = 0x84 → h.seq < q.nextIn →
              exec (.droppedFrame frame) s = exec (.sqpAcknowledgement h.mgmt h.queue (field text 0 8)) s) ∧
            (type = 0x84 → h.seq = q.nextIn → q.held = [] → q.skip = [] → exec (.droppedFrame frame) s =
              exec (.sqpAcknowledgement h.mgmt h.queue (field text 0 8))
                { s with port := s.port.updQueue h.mgmt h.queue fun y => { y with nextIn := h.seq + 1 } }) ∧
            (type ≠ 0x84 → typeLevel type = none → exec (.droppedFrame frame) s = .next (Drops s)) ∧
            (∀ (i : Instr) (m : Msg), type ≠ 0x84 → msgOf i = some (h, m) → messageOf type text = some m →
              exec (.droppedFrame frame) s = exec i s) ∧
            (∀ level, type ≠ 0x84 → messageOf type text = some (.malformed level) → InTurn s h q →
              (2 ≤ level → h.mgmt = false ∨ h.queue = 0) → Refuses (.droppedFrame frame) s h 6)))))

/-! Span links. -/

/-- The state with link k changed. -/
def Sys2Proof.Claim.linkTo (s : State) (k : Nat) (l : Link) : State := { s with port := { s.port with links := s.port.links.setIfInBounds k l } }

/-- R310, R311: a data flit in order, one of a class but bulk that names no live network, is passed on; any other data flit is
discarded and answered once with the seq expected; an acknowledgement frees the replay buffer up to its seq, a negative one sends from
its seq on once more. -/
def Sys2Proof.Claim.FlitsInOrder : Prop :=
  ∀ (s : State) (k : Nat), k < 12 → (s.link k).up = true → s.outbox = [] → NoTeardown s →
    (∀ f lane, f.type = 1 → (∀ y ∈ (s.link k).replay, y.seq ≠ f.ack) → s.toMach.netOfTag f.payload = none →
      (flitGood f = true → f.seq = (s.link k).expect → f.cls ≠ 2 → ∃ l, exec (.spanFlitReceive k f lane) s = .next (linkTo s k l) ∧
        l.expect = (f.seq + 1) % 65536 ∧ l.passed = (s.link k).passed ++ [f] ∧ l.nakSent = false ∧ l.out = (s.link k).out ∧
        l.flits = (s.link k).flits + 1 ∧ l.replay = (s.link k).replay) ∧
      (flitGood f = true → f.seq ≠ (s.link k).expect → ∃ l, exec (.spanFlitReceive k f lane) s = .next (linkTo s k l) ∧
        l.expect = (s.link k).expect ∧ l.passed = (s.link k).passed ∧ l.nakSent = true ∧
        l.out = (s.link k).out ++ (if (s.link k).nakSent then [] else [.nak (s.link k).expect])) ∧
      (flitGood f = false → ∃ l, exec (.spanFlitReceive k f none) s = .next (linkTo s k l) ∧
        l.expect = (s.link k).expect ∧ l.passed = (s.link k).passed ∧ l.nakSent = true)) ∧
    (∀ before f after, (s.link k).replay = before ++ f :: after → (∀ y ∈ before, y.seq ≠ f.seq) →
      (∃ t, exec (.spanAcknowledgement k f.seq) s = .next t ∧ (t.link k).replay = after ∧ (t.link k).expect = (s.link k).expect ∧
        t.mem = s.mem ∧ t.procs = s.procs) ∧
      exec (.spanNegativeAcknowledgement k f.seq) s = .next (linkTo s k { s.link k with resend := f.seq :: after.map (·.seq) }))

/-- R310, R311, R314: on a channel of a live network that link k carries to another package, the oldest token that has not gone into a flit
goes, as a flit under the next seq with its CRC, where the link has room and credits, and counts as arrived with its acknowledgement; a token
that comes in order from a writer on the other package joins the tokens held; a channel that link k does not carry, or whose link is down,
sends nothing. Rests on readings of the model: log entries 80, 122. -/
def Sys2Proof.Claim.SpanTraffic : Prop :=
  ∀ (s : State) (n ch k : Nat) (x : Net) (c : Chan), k < 12 → s.nets[n]? = some x → x.live = true → x.chans[ch]? = some c →
    c.span = some k → c.rebind = false → (∀ m y, s.nets[m]? = some y → y.live = true → y.nid = x.nid → y.tenant = x.tenant → y.guest = x.guest → m = n) →
    x.nid < 2 ^ 32 → x.tenant < 2 ^ 32 → ch < 2 ^ 32 → s.outbox = [] → NoTeardown s →
    (∀ (w : Word) rest, s.turns = .spanToken n ch :: rest → c.flight[c.sent]? = some (.scalar w) → s.toMach.isAway x c.decl.wproc = false →
      ((s.link k).up = true → (s.link k).drain = false → (s.link k).grant = none →
        (s.link k).replay.length + (s.link k).held.length < 1024 →
        ((s.link k).replay ++ (s.link k).held).countP (fun f => f.cls = 0) < Config.linkCredits 0 + 3 →
        ∃ t z f, step s = .next t ∧ t.nets[n]? = some z ∧ z.chans[ch]? = some { c with sent := c.sent + 1 } ∧
          (t.link k).replay = (s.link k).replay ++ [f] ∧ (t.link k).nextOut = ((s.link k).nextOut + 1) % 65536 ∧
          f.seq = (s.link k).nextOut ∧ f.type = 1 ∧ f.cls = 0 ∧ f.crc = crc64 (flitBytes f)) ∧
      ((s.link k).up = false → step s = .next { s with turns := rest })) ∧
    (∀ f (w : Word), (s.link k).up = true → flitGood f = true → f.type = 1 → f.cls = 0 → f.seq = (s.link k).expect →
      (∀ y ∈ (s.link k).replay, y.seq ≠ f.ack) → f.payload = ((Tok.scalar w).payloads { x with guest := !x.guest } ch).headD [] →
      s.toMach.isAway x c.decl.wproc = true → c.flight = [] → c.rExited = false → 0 < c.free →
      ∃ t z d, exec (.spanFlitReceive k f none) s = .next t ∧ t.nets[n]? = some z ∧ z.chans[ch]? = some d ∧ d.buf = c.buf ++ [.scalar w] ∧
        d.flight = [] ∧ d.free = c.free - 1 ∧ d.arrivals = (c.arrivals + 1) % 2 ^ 32)

/-- R312, R313: lane repair: the sender grants a boundary, the receiver learns it, each end switches at the boundary; a link that drains
retrains, or fails; three failures take it down, with an entry of source 2 in the error log, and cancel the networks launched here that are
routed over it; a
lane that loses lock asks for repair. -/
def Sys2Proof.Claim.LaneRepair : Prop :=
  ∀ (s : State) (k : Nat) (l : Link), k < 12 → s.link k = l → l.up = true → s.outbox = [] → NoTeardown s →
    (∀ lane, l.grant = none → exec (.repairRequest k lane) s =
      .next (linkTo s k { l with grant := some (lane, l.nextOut), out := l.out ++ [.grant l.nextOut] })) ∧
    (∀ lane bound, l.asked = some (lane, none) → bound < 65536 →
      exec (.repairGrant k bound) s = .next (linkTo s k { l with asked := some (lane, some bound) })) ∧
    (∀ lane bound, l.drain = false → l.grant = some (lane, bound) → l.replay = [] → l.asked = none →
      exec (.laneMapSwitch k) s = .next (linkTo s k
        { l with spareOut := some lane, grant := none, replay := l.held, resend := l.held.map (·.seq), held := [] })) ∧
    (∀ lane, l.drain = false → l.grant = none → l.asked = some (lane, some l.expect) →
      exec (.laneMapSwitch k) s = .next (linkTo s k
        { l with spareIn := some lane, asked := none, late := 0, errs := Vector.replicate 9 [] })) ∧
    (l.drain = true → l.tries < 3 →
      exec (.linkRetrain k false) s = .next (linkTo s k { l with tries := l.tries + 1 }) ∧
      ∃ z, exec (.linkRetrain k true) s = .next (linkTo s k z) ∧ z.drain = false ∧ z.tries = 0 ∧ z.replay = l.replay ++ l.held ∧
        z.resend = z.replay.map (·.seq) ∧ z.expect = l.expect) ∧
    (l.tries = 3 → ∃ t e, exec (.linkDown k) s = .next t ∧ (t.link k).up = false ∧ t.port.log.getLast? = some e ∧
      e.source = 2 ∧ e.code = 7 ∧ e.spot = k ∧ (∀ r ∈ t.port.trained, r.unit ≠ 24 + k) ∧
      ∀ (n : Nat) (x : Net), s.nets[n]? = some x → x.live = true → x.guest = false → (∃ c ∈ x.chans, c.span = some k) →
        ∃ z, t.nets[n]? = some z ∧ z.cancel = true) ∧
    (∀ lane, l.spareIn = none → l.asked = none → exec (.laneLossOfLock k lane) s =
      .next (linkTo s k { l with asked := some (lane, none), late := 0, out := l.out ++ [.request lane] })) ∧
    (∀ lane other, l.spareIn = some other → other ≠ lane → l.asked = none →
      ∃ t, exec (.laneLossOfLock k lane) s = .next t ∧ t.toMach.nets = s.nets ∧
        t.link k = { l with drain := true, half := true, sound := if (if lane = 8 then other else lane) < 4 then 1 else 0 })

/-! Starts, ageing and the change of owner. -/

/-- The device clock of a measured value (R340). -/
def Sys2Proof.Claim.clockFor (c : Nat) : Nat := max 2800 (min c 3600)

/-- R336: the stored parameters of a stack (0 to 23), a span link (24 to 35) or the host link (36) are valid: the record's CRC holds, the
firmware version matches, and the temperature lies within 10 °C of that at training. -/
def Sys2Proof.Claim.HasValid (s : State) (f : StartFinds) (u : Nat) : Prop :=
  ∃ r ∈ s.port.trained, r.unit = u ∧ r.version = s.port.firmware.version ∧ u ∉ f.badRecords ∧
    -10 ≤ f.celsius[u]?.getD 25 - r.celsius ∧ f.celsius[u]?.getD 25 - r.celsius ≤ 10

/-- A failed start, with its entry in the error log. -/
def Sys2Proof.Claim.FailsAt (i : Instr) (s : State) (step spot : Nat) : Prop :=
  ∃ t l, exec i s = .next t ∧ t.port.start = .failed step ∧ t.port.log.getLast? = some l ∧ l.source = 1 ∧ l.code = step ∧ l.spot = spot

/-- R336, R337, R339: a start whose steps all succeed ends every job and process, zeroes what the device can own and leaves the host's memory; a cold
start takes the measured clocks, a warm start keeps a die's clock where the measurement meets it, and keeps what is trained, with nothing
of what the links carried, where all the stored parameters are valid; a cold start holds at the host link, a warm one only without valid parameters for it; a step that fails
ends the start there, with an entry in the error log. -/
def Sys2Proof.Claim.Starts : Prop :=
  ∀ (s : State) (f : StartFinds), (∀ c g, s.port.start ≠ .holding c g) →
    (f.firmwareOk = true → s.port.firmware.flash = none → f.selfTestOk = true →
      let goes := fun (i : Instr) => ∃ t, exec i s = .next t ∧ t.procs = [] ∧ t.nets = [] ∧ t.tenants = [] ∧ t.entries = [] ∧ t.reqs = [] ∧
        t.port.starts = s.port.starts + 1 ∧ t.port.queues.map (fun q => (q.mgmt, q.queue)) = [(true, 0)] ∧ t.port.regions = [] ∧
        (f.clearOk = true → t.port.start = .ready ∧ t.bad = s.bad.filter (fun u => 2 ^ 64 ≤ u) ∧ t.seeds = [] ∧
          ∀ k, Mem.get t.mem k = if 2 ^ 64 ≤ k then Mem.get s.mem k else 0) ∧
        (f.clearOk = false → t.port.start = .failed 7)
      let holds := fun (i : Instr) (cold : Bool) => ∃ t, exec i s = .next t ∧ t.port.start = .holding cold f
      Memory.wf s.mem = true →
      (f.stacksOk = true → f.hostLinkOk = true → goes (.coldStart f) ∧ goes (.warmStart f) ∧
        ∃ t, exec (.coldStart f) s = .next t ∧ ∀ (k : Nat) c, k < 8 → f.clocks[k]? = some c → ∃ d, t.port.dies[k]? = some d ∧ d.clock = clockFor c) ∧
      (f.stacksOk = true → f.hostLinkOk = false → holds (.coldStart f) true ∧ (¬ HasValid s f 36 → holds (.warmStart f) false)) ∧
      ((∀ u, u < 37 → HasValid s f u) → goes (.warmStart f) ∧ ∃ t, exec (.warmStart f) s = .next t ∧
        t.port.trained = s.port.trained ∧ t.port.links = s.port.links.map Link.quiet ∧
        ∀ (k : Nat) (d : Die) c, s.port.dies[k]? = some d → f.clocks[k]? = some c → d.clock ≤ clockFor c →
          ∃ e, t.port.dies[k]? = some e ∧ e.clock = d.clock ∧ e.soft = d.soft ∧ e.relock = false) ∧
      (f.stacksOk = false → FailsAt (.coldStart f) s 3 f.spot ∧ ((∃ u, u < 24 ∧ ¬ HasValid s f u) → FailsAt (.warmStart f) s 3 f.spot))) ∧
    (f.firmwareOk = false → ∀ c ∈ [Instr.coldStart, .warmStart], FailsAt (c f) s 1 0xFF) ∧
    (f.firmwareOk = true → s.port.firmware.flash = none → f.selfTestOk = false →
      ∀ c ∈ [Instr.coldStart, .warmStart], FailsAt (c f) s 2 f.spot)

/-- R337: a start that holds at step 5 goes on once the host link is up, and not before; another start that is asked for then goes on in
its place as a single start, cold if either is. -/
def Sys2Proof.Claim.HoldingStarts : Prop :=
  ∀ (s : State) (cold : Bool) (f : StartFinds), s.port.start = .holding cold f →
    exec (.hostLinkRetry false) s = .next s ∧
    (f.clearOk = true → ∃ t, exec (.hostLinkRetry true) s = .next t ∧ t.port.start = .ready ∧ t.seeds = []) ∧
    (f.clearOk = false → ∃ t, exec (.hostLinkRetry true) s = .next t ∧ t.port.start = .failed 7) ∧
    ∀ g, (∃ t, exec (.coldStart g) s = .next t ∧ t.port.starts = s.port.starts ∧ t.port.lastCold = true) ∧
      ∃ t, exec (.warmStart g) s = .next t ∧ t.port.starts = s.port.starts ∧ t.port.lastCold = cold

/-- R340: re-planning, relocking and the power limit: a voltage limit that is met changes no clock, one that is not costs a step of 100 MHz
down to the floor of 2,800; a 10 ms average over 3,900 W takes a step off every die that has one, at most one in 10 ms; below 3,700 W
for a second gives one back to each die that the limit holds down. -/
def Sys2Proof.Claim.ClocksAndPower : Prop :=
  ∀ (s : State), s.outbox = [] → NoTeardown s →
    (∀ (k : Nat) (d : Die), s.port.dies[k]? = some d →
      (∃ t, exec (.ageingReplan k true) s = .next t ∧ t.toMach = { s.toMach with tick := s.tick + 1 } ∧ ∃ v, t.port.dies[k]? = some { d with volts := v } ∧ d.volts ≤ v ∧
        (d.volts ≤ Config.voltageLimit → v ≤ Config.voltageLimit)) ∧
      (2900 ≤ d.clock → ∃ t e, exec (.ageingReplan k false) s = .next t ∧ t.port.dies[k]? = some e ∧ e.clock = d.clock - 100 ∧
        e.relock = true ∧ e.capped = d.capped) ∧
      (d.clock < 2900 → ∃ t e, exec (.ageingReplan k false) s = .next t ∧ t.port.dies[k]? = some e ∧ e.clock = d.clock ∧ e.relock = d.relock) ∧
      exec (.clockRelock k) s = .next { s with
        port := { s.port with dies := s.port.dies.setIfInBounds k { d with relock := false } } }) ∧
    (∀ watts, ∃ t, exec (.powerSample watts) s = .next t ∧ t.port.sample = s.port.sample + 1 ∧ t.mem = s.mem ∧ t.ctx = s.ctx ∧
      (s.port.watts.length = 9 → t.port.watts = s.port.watts ++ [watts] ∧
        (39000 < s.port.watts.sum + watts → 9 ≤ s.port.sinceStep → t.port.sinceStep = 0 ∧ ∀ (k : Nat) (d : Die), s.port.dies[k]? = some d →
          t.port.dies[k]? = some (if 2900 ≤ d.clock then { d with clock := d.clock - 100, capped := d.capped + 1, relock := true } else d)) ∧
        (s.port.watts.sum + watts ≤ 39000 → 37000 ≤ s.port.watts.sum + watts → t.port.dies = s.port.dies ∧ t.port.lowFor = 0) ∧
        (s.port.watts.sum + watts < 37000 → s.port.lowFor = 999 → ∀ (k : Nat) (d : Die), s.port.dies[k]? = some d →
          t.port.dies[k]? = some (if d.capped = 0 then d else { d with clock := d.clock + 100, capped := d.capped - 1, relock := true }))) ∧
      (s.port.watts.length < 9 → t.port.dies = s.port.dies))

/-- R296, R273: a location in the spill rows of a final network of an id: intervals of MiB of a stack. -/
def Sys2Proof.Claim.Spilled (s : State) (nid k : Nat) : Prop :=
  k < 2 ^ 50 ∧ ∃ x ∈ s.nets, x.live = false ∧ x.nid = nid ∧ ∃ y ∈ x.spill, y.1 = stackOf k ∧ y.2.1 ≤ k % 2 ^ 30 / 8192 ∧ k % 2 ^ 30 / 8192 < y.2.2

/-- R339: what an ended job returns: a tile with nobody placed on it reads zero and belongs to nobody; a save record that no process needs
reads zero; the tokens of a final network are gone, and its spill rows read zero; the rows of a tenant whose tiles and networks are gone read zero, and the tenant
is no more. -/
def Sys2Proof.Claim.OwnerChange : Prop :=
  ∀ (s : State),
    (∀ tile, (s.toMach.tile tile).zeroing = true → s.toMach.onTile tile = [] →
      (∀ r ∈ s.resids, r.bank = false → r.spot = tile → r.state ≠ .loading) → Memory.wf s.mem = true →
      ∃ t, exec (.tileZeroingComplete tile) s = .next t ∧ (t.toMach.tile tile).zeroing = false ∧ (∀ y ∈ t.tenants, tile ∉ y.tiles) ∧
        ∀ k, k < 2 ^ 52 → Mem.get t.mem k = if Key.tile tile 0 ≤ k ∧ k < Key.tile tile 0 + 2 ^ 24 then 0 else Mem.get s.mem k) ∧
    (∀ slot, (∀ p ∈ s.procs, ∀ y, p.saved = some y → y.1 ≠ slot) → Memory.wf s.mem = true →
      ∃ m b, exec (.rowClearComplete (.save slot)) s = .next { s with tick := s.tick + 1, mem := m, bad := b } ∧
        ∀ k, Mem.get m k = if Key.save slot 0 ≤ k ∧ k < Key.save slot 0 + 2 ^ 24 then 0 else Mem.get s.mem k) ∧
    (∀ nid, Memory.wf s.mem = true → ∃ t, exec (.rowClearComplete (.spill nid)) s = .next t ∧
      t.toMach = { s.toMach with tick := s.tick + 1, nets := t.nets, mem := t.mem, bad := t.bad } ∧
      (∀ k, Spilled s nid k → Mem.get t.mem k = 0) ∧ (∀ k, ¬ Spilled s nid k → Mem.get t.mem k = Mem.get s.mem k) ∧
      ∀ (n : Nat) (x : Net), s.nets[n]? = some x →
        (x.live = false → x.nid = nid → ∃ z, t.nets[n]? = some z ∧ z.spill = [] ∧ (∀ c ∈ z.chans, c.flight = [] ∧ c.buf = []) ∧
          ∀ p ∈ z.pools, p.toks = [] ∧ p.puts = []) ∧
        (x.live = true ∨ x.nid ≠ nid → t.nets[n]? = some x)) ∧
    (∀ ten y, s.toMach.tenant ten = some y → y.gone = true → y.tiles = [] → (∀ x ∈ s.nets, x.tenant = ten → x.live = false) →
      (∀ q ∈ s.port.queues, q.tenant = ten → q.tearing = false) →
      ∃ t, exec (.rowClearComplete (.blocks ten)) s = .next t ∧ t.toMach.tenant ten = none ∧ t.port = s.port ∧
        ∀ k, k < 2 ^ 50 → stackOf k ∈ y.stackNos → Mem.get t.mem k = 0)

/-! The whole machine. -/

/-- What the manual bounds of the host port: clocks of 2,800 to 3,600 MHz (R340), the error log (R337), messages kept and the
retransmission interval of each queue (R331), the power window (R340), the host-path time-out (R338), the UDP port, retrainings, seqs and
the replay buffer of a link (R310, R311, R313); and no queue has two records. -/
structure Sys2Proof.Claim.PortBounds (p : Port) : Prop where
  clocks   : ∀ (k : Nat) d, p.dies[k]? = some d → 2800 ≤ d.clock ∧ d.clock + 100 * d.capped ≤ 3600
  log      : p.log.length ≤ 4096
  kept     : ∀ q ∈ p.queues, q.unacked.length ≤ 4096
  interval : ∀ q ∈ p.queues, 100 ≤ q.interval ∧ q.interval ≤ 100000
  apart    : p.queues.Pairwise fun a b => ¬(a.mgmt = b.mgmt ∧ a.queue = b.queue)
  watts    : p.watts.length ≤ 10
  timeout  : 10000 ≤ p.timeout ∧ p.timeout ≤ 100000000
  udp      : p.udpPort < 65536
  links    : ∀ (k : Nat) l, p.links[k]? = some l → l.tries ≤ 3 ∧ l.expect < 65536 ∧ l.nextOut < 65536 ∧
    l.replay.length + l.held.length ≤ 1024

/-- R310, R311, R313, R331, R337, R338, R340: every step, whatever it runs, keeps the bounds of the host port. -/
def Obligations.PortBoundsKept : Prop := ∀ s t : State, PortBounds s.port → step s = .next t → PortBounds t.port

/-- R15, R40, R336, R338: the machine after its first start is empty: no tenant, no process, memory zero, management queue 0 alone open, the
time-out at its default, every die at 3,600 MHz; and it keeps the bounds of the host port. That memory reads zero and that management queue 0 alone is open are
the model's choices: log entries 3, 70. -/
def Obligations.ResetState : Prop :=
  PortBounds State.reset.port ∧ State.reset.procs = [] ∧ State.reset.nets = [] ∧ State.reset.tenants = [] ∧
  (∀ k, Mem.get State.reset.mem k = 0) ∧ Memory.wf State.reset.mem = true ∧
  State.reset.port.queues.map (fun q => (q.mgmt, q.queue, q.isOpen)) = [(true, 0, true)] ∧ State.reset.port.start = .ready ∧
  State.reset.port.timeout = 2000000 ∧ ∀ (k : Nat) d, State.reset.port.dies[k]? = some d → d.clock = 3600

/-- R53, R315 to R317 and the chapters on the agents: every instruction and every step of an agent, the hub or the host has a next state, in
every state: none ends in a fault or a refusal of the machine; a chain of a process changes neither the host port nor the schedule. That
no chain stops the machine rests on readings of the model: log entry 96. -/
def Obligations.Progress : Prop :=
  (∀ (i : Instr) (s : State), ∃ t, exec i s = .next t) ∧ (∀ s : State, ∃ t, step s = .next t) ∧
  ∀ (i : Instr) (s t : State), i.chain.isSome = true → exec i s = .next t → t.port = s.port ∧ t.turns = s.turns

/-! The statements that gather several of the claims above. -/

/-- Loads, stores and atomics on the own tile and at other tiles: values, bytes stored, frame, traps (R36, R38, R99, R100; R36, R38, R99, R100, R11; R97, R101; R37, R99; R36, R38, R99, R100; R36, R38, R99, R100, R270; R36, R38, R97, R101; R36, R38, R99). Rests on readings of the model: log entries 33, 94. -/
def Obligations.TileAccesses : Prop := LoadsOwnTile ∧ StoresOwnTile ∧ AtomicsOwnTile ∧ ControlAccesses ∧ LoadsElsewhere ∧ StoresElsewhere ∧ AtomicsElsewhere ∧ ElsewhereTraps

/-- Relative branches and calls, predicate branches, register branches and their traps (R102, R54; R104, R102; R102, R103). Rests on readings of the model: log entries 17, 21, 25. -/
def Obligations.Branches : Prop := RelativeBranches ∧ PredicateBranches ∧ RegisterBranches

/-- nop, ifsync, fence, svc, brk, tret, exit, and the parking of a process (R88, R91, R195; R90, R211, R29; R318, R241; R212; R89, R239). Rests on readings of the model: log entries 17, 26, 8, 123. -/
def Obligations.SystemInstructions : Prop := NopIfsyncFence ∧ ServiceCallEntry ∧ RemoteTrapParks ∧ TrapReturn ∧ ExitEndsProcess

/-- mfs and mts for every special register, with levels and traps (R92, R21; R92, R21, R39). Rests on readings of the model: log entries 43, 44. -/
def Obligations.SpecialRegisters : Prop := ReadSpecial ∧ WriteSpecial

/-- Queue pops, pushes, closes, binding, and pool puts and gets (R108, R292; R108, R109; R109, R292, R227; R106, R107, R20; R205). Rests on readings of the model: log entries 14, 15, 18. -/
def Obligations.Queues : Prop := QueuePops ∧ QueueTraps ∧ QueuePushes ∧ QueueBinding ∧ PoolPutGet

/-- setvl, setvli, strip, and the pre-emption point they are (R119, R120, R24; R121, R122, R25; R320, R321). Rests on readings of the model: log entries 86, 114. -/
def Obligations.VectorLength : Prop := SetVectorLength ∧ StripAdvances ∧ PreemptionPoint

/-- Counter waits and adds, and the barrier instructions (R198 to R201; R202, R203). -/
def Obligations.CountersBarriers : Prop := Counters ∧ Barriers

/-- Integer elements of vector arithmetic and accumulation (R114, R116, R125 to R127, R137; R125, R127, R129, R136). Rests on readings of the model: log entries 29, 108. -/
def Obligations.VectorArithmetic : Prop := IntegerElements ∧ IntegerAccumulate

/-- Vector instructions complete and change only what they write; values and flags of floating-point elements and of reductions (R114 to R117, R125 to R132, R135, R136, R141; R73 to R76, R114, R116, R125, R126, R134 to R136; R131, R132, R126). Rests on readings of the model: log entries 28, 109. -/
def Obligations.VectorRuns : Prop := ElementwiseRuns ∧ FloatElements ∧ Reductions

/-- Vector moves between registers and elements, and the permutes (R129, R130; R129; R129, R130, R116). Rests on readings of the model: log entries 108. -/
def Obligations.VectorPermutes : Prop := VectorMoves ∧ VectorElements ∧ Permutes

/-- Vector conversions, their values where they widen, narrow or clip, and block instructions (R133, R134, R138 to R140; R140, R116; R134, R138, R116). Rests on readings of the model: log entries 29, 113. -/
def Obligations.VectorConverts : Prop := VectorConversions ∧ BlockDequantise ∧ ConversionValues

/-- Vector loads and stores in tile space, and where they meet the global space (R142 to R145; R142 to R144, R147; R143, R144). Rests on readings of the model: log entries 25, 89, 94, 128. -/
def Obligations.VectorMemory : Prop := VectorLoads ∧ VectorStores ∧ VectorSpace

/-- The matrix state: turning it on and off, and traps without it (R148, R149; R148). Rests on readings of the model: log entries 137. -/
def Obligations.MatrixStates : Prop := MatrixState ∧ MatrixStateTraps

/-- Outer products and the fold of accumulators (R151 to R153, R79; R150, R82). Rests on readings of the model: log entries 30, 92. -/
def Obligations.MatrixProducts : Prop := OuterProducts ∧ MatrixFold

/-- Moves between accumulator tiles and vector registers (R154, R82; R155, R156). Rests on readings of the model: log entries 30, 92, 94, 128. -/
def Obligations.MatrixMoves : Prop := MatrixSlices ∧ MatrixTileMoves

/-- Stream mode of vector registers and moves through streams (R174 to R178; R17, R117, R292, R109). Rests on readings of the model: log entries 23, 24, 32. -/
def Obligations.Streams : Prop := StreamMode ∧ StreamMoves

/-- Slide windows and the issue of copies (R179, R180; R183, R184, R189). Rests on readings of the model: log entries 19, 35, 91. -/
def Obligations.SlidesCopies : Prop := SlideWindows ∧ CopyIssue

/-- Scalar accesses to the global space, and vector accesses to server memory (R99, R100, R196, R273, R279, R282; R196, R145, R271). Rests on readings of the model: log entries 25, 26, 94, 128. -/
def Obligations.GlobalAccesses : Prop := GlobalAccess ∧ GlobalVectors

/-- Tagged packets and their replies (R191 to R193, R282; R194). Rests on readings of the model: log entries 31. -/
def Obligations.TaggedPackets : Prop := Packets ∧ PacketReplies

/-- Residencies allocated, loaded, pinned, queried and revoked (R160, R33, R273; R161, R169, R171, R172). Rests on readings of the model: log entries 18, 34, 116. -/
def Obligations.Residencies : Prop := ResidencyAllocation ∧ ResidencyControl

/-- mres and mresv with a ready residency (R162, R164, R165; R166). Rests on readings of the model: log entries 16. -/
def Obligations.ResidencyUse : Prop := ArrayResidencyUse ∧ BankResidencyUse

/-- Fills and reloads of residencies and near-bank requests at the gate (R161, R164, R168; R166, R167). Rests on readings of the model: log entries 34. -/
def Obligations.ResidencyAgents : Prop := ResidencyFills ∧ NearBankRequests

/-- launch, cancel, ccget, dgget and cut (R206; R207 to R209, R229; R209, R303, R308). Rests on readings of the model: log entries 52, 53, 54, 55. -/
def Obligations.NetworkInstructions : Prop := Launches ∧ EntryInstructions ∧ CutInstruction

/-- The figure store and the invocation of a figure (R34, R231 to R233; R57, R237). Rests on readings of the model: log entries 36, 37, 39, 51, 94. -/
def Obligations.Figures : Prop := FigureStore ∧ FigureInvocation

/-- Digest switches, counters read, and the random generator (R228, R230; R224 to R226). Rests on readings of the model: log entries 9, 50, 125, 139. -/
def Obligations.DigestsRandom : Prop := DigestSwitchesCounters ∧ RandomNumbers

/-- ctxsave, ctxrest, resume and resume.snap (R213 to R216; R217, R309). Rests on readings of the model: log entries 45, 63, 64. -/
def Obligations.ParkedSnapshots : Prop := ParkedProcesses ∧ SnapshotResumption

/-- A request at its gateway and server, and its answer at the process (R100, R271, R274, R275, R276, R343; R192, R193, R324, R343). Rests on readings of the model: log entries 90, 94, 98. -/
def Obligations.MemoryServers : Prop := ServerRequests ∧ PacketAnswers

/-- Stores at other tiles, host accesses, and elements of copies (R270, R282, R283, R285, R290; R184, R185). Rests on readings of the model: log entries 35, 94. -/
def Obligations.TilesHostCopies : Prop := TileAndHostAccesses ∧ CopyElements

/-- Tokens and slot returns under way, re-binding, fault records and lap closes (R292, R294, R295, R304, R314, R318; R205). Rests on readings of the model: log entries 58, 80, 118. -/
def Obligations.ChannelsPools : Prop := ChannelTraffic ∧ LapCloses

/-- Arrivals at the barrier root, time-outs and pattern fetches (R202, R203; R201, R177). Rests on readings of the model: log entries 7, 22. -/
def Obligations.BarriersWaits : Prop := BarrierArrivals ∧ WaitsAndFetches

/-- Placement and start values, pre-emption, swap-out and restore (R260, R320, R321; R40, R252, R260, R322). Rests on readings of the model: log entries 45, 46, 47, 48. -/
def Obligations.PlacementPreemption : Prop := Preemption ∧ Placement

/-- Entries become final, cancels spread, submissions are dispatched and started (R239 to R241, R243; R252, R254 to R256). Rests on readings of the model: log entries 47, 56, 57, 100, 117. -/
def Obligations.LevelsStarts : Prop := LevelTable ∧ NetworkStarts

/-- The arbiters of a tile, and poison in queue SRAM (R262, R264; R267). Rests on readings of the model: log entries 93, 126. -/
def Obligations.ArbitersPoison : Prop := TileArbiters ∧ QueueSramPoison

/-- Delivery of every host message: duplicates, order, levels, closed queues (R331, R332, R336, R329; R332, R336). Rests on readings of the model: log entries 69, 70, 71, 141. -/
def Obligations.HostDelivery : Prop := SqpDelivery ∧ SqpClosed

/-- Settings and readings of management queues, and the hub as sender (R338, R337, R333, R328, R334, R335; R338, R335; R331). Rests on readings of the model: log entries 11, 68, 73, 76, 120. -/
def Obligations.HostSettings : Prop := SqpSettings ∧ SqpReadings ∧ SqpSending

/-- Phases, submissions, cancels, cuts and resumptions on work queues (R238, R330; R254, R330 to R332; R209, R303, R217, R309). Rests on readings of the model: log entries 64, 65, 66. -/
def Obligations.HostWork : Prop := SqpPhases ∧ SqpSubmissions ∧ SqpCutsResumptions

/-- Queues opened, closed and torn down, images and jobs (R329, R330; R266, R330, R339; R249, R256, R330; R338, R339, R30). Rests on readings of the model: log entries 67, 68, 71, 72, 74, 75. -/
def Obligations.HostManagement : Prop := SqpQueues ∧ SqpTeardowns ∧ SqpImages ∧ SqpJobs

/-- RDMA accesses, and frames answered or dropped (R333, R288; R328, R329, R330). Rests on readings of the model: log entries 77, 120, 121, 140, 141. -/
def Obligations.BulkFrames : Prop := BulkData ∧ Frames

/-- Flits in order, replay, tokens over a link, lane repair and the loss of a span link (R310, R311; R310, R311, R314; R312, R313). Rests on readings of the model: log entries 78, 79, 80, 81, 122, 123. -/
def Obligations.SpanLinks : Prop := FlitsInOrder ∧ SpanTraffic ∧ LaneRepair

/-- Starts, clocks and power, and the change of owner (R336, R337, R339; R337; R340; R339). Rests on readings of the model: log entries 75, 82, 83, 84, 85, 116. -/
def Obligations.DeviceService : Prop := Starts ∧ HoldingStarts ∧ ClocksAndPower ∧ OwnerChange
end

