-- ==== Sys2Proof/Laws/Memory.lean ====
section
/-! SUPPORT. Sparse memory: what a read gives after a write, and that every operation keeps the canonical form. -/

namespace Sys2Proof.Machine

theorem Mem.wfFrom_mono {m : Memory} {lo lo' : Nat} (h : lo' ≤ lo) (w : Mem.wfFrom lo m = true) : Mem.wfFrom lo' m = true := by
  cases m with
  | nil => rfl
  | cons c r => simp [Mem.wfFrom] at w ⊢; exact ⟨⟨by omega, w.1.2⟩, w.2⟩

theorem Mem.get_below {m : Memory} {lo a : Nat} (w : Mem.wfFrom lo m = true) (h : a < lo) : Mem.get m a = 0 := by
  cases m with
  | nil => rfl
  | cons c r => simp [Mem.wfFrom] at w; simp [Mem.get]; omega

theorem Mem.get_cons (a : Nat) (b : Byte) {r : Memory} (w : Mem.wfFrom (a + 1) r = true) (k : Nat) :
    Mem.get (Mem.cons a b r) k = if k = a then b else Mem.get r k := by
  unfold Mem.cons
  by_cases hb : b = 0
  · rw [if_pos hb]
    by_cases hk : k = a
    · subst hk; rw [if_pos rfl, Mem.get_below w (Nat.lt_succ_self _), hb]
    · rw [if_neg hk]
  · rw [if_neg hb, Mem.get]
    by_cases hk : k = a
    · subst hk; simp
    · rw [if_neg hk]
      by_cases hl : k < a
      · rw [if_pos hl, Mem.get_below w (by omega)]
      · rw [if_neg hl, if_neg (Ne.symm hk)]

theorem Mem.wf_cons {lo a : Nat} {b : Byte} {r : Memory} (h : lo ≤ a) (w : Mem.wfFrom (a + 1) r = true) :
    Mem.wfFrom lo (Mem.cons a b r) = true := by
  unfold Mem.cons
  split
  · exact Mem.wfFrom_mono (by omega) w
  · rename_i hb; simp [Mem.wfFrom, h, w]; exact hb

theorem Mem.wf_set_from {m : Memory} {lo a : Nat} {b : Byte} (h : lo ≤ a) (w : Mem.wfFrom lo m = true) :
    Mem.wfFrom lo (Mem.set m a b) = true := by
  induction m generalizing lo with
  | nil => exact Mem.wf_cons h rfl
  | cons c r ih =>
    obtain ⟨k, x⟩ := c
    simp [Mem.wfFrom] at w
    unfold Mem.set
    split
    · exact Mem.wf_cons h (by simp [Mem.wfFrom, w]; omega)
    · split
      · subst_vars; exact Mem.wf_cons h w.2
      · simp [Mem.wfFrom, w]; exact ih (by omega) w.2

theorem Mem.get_set_from {m : Memory} {lo : Nat} (w : Mem.wfFrom lo m = true) (a : Nat) (b : Byte) (k : Nat) :
    Mem.get (Mem.set m a b) k = if k = a then b else Mem.get m k := by
  induction m generalizing lo with
  | nil => exact Mem.get_cons a b rfl k
  | cons c r ih =>
    obtain ⟨j, x⟩ := c
    simp [Mem.wfFrom] at w
    unfold Mem.set
    split
    · exact Mem.get_cons a b (by simp [Mem.wfFrom, w]; omega) k
    · split
      · rename_i hja
        subst hja
        rw [Mem.get_cons _ b w.2]
        by_cases hk : k = j
        · simp [hk]
        · by_cases hl : k < j
          · simp [hk, Mem.get, hl, Mem.get_below w.2 (show k < j + 1 by omega)]
          · simp [hk, Mem.get, hl, Ne.symm hk]
      · simp only [Mem.get]
        split
        · rw [if_neg (by omega)]
        · split
          · rw [if_neg (by omega)]
          · exact ih w.2

/-- Reading a byte after a write of one byte. -/
theorem Mem.get_set {m : Memory} (w : Memory.wf m = true) (a : Nat) (b : Byte) (k : Nat) :
    Mem.get (Mem.set m a b) k = if k = a then b else Mem.get m k := Mem.get_set_from w a b k

theorem Mem.wf_set {m : Memory} (w : Memory.wf m = true) (a : Nat) (b : Byte) : Memory.wf (Mem.set m a b) = true :=
  Mem.wf_set_from (Nat.zero_le _) w

theorem Mem.wf_write {m : Memory} (w : Memory.wf m = true) (a : Nat) (bs : List Byte) : Memory.wf (Mem.write m a bs) = true := by
  induction bs generalizing m a with
  | nil => exact w
  | cons b r ih => exact ih (Mem.wf_set w a b) _

/-- Reading a byte after a write of several. -/
theorem Mem.get_write {m : Memory} (w : Memory.wf m = true) (a : Nat) (bs : List Byte) (k : Nat) :
    Mem.get (Mem.write m a bs) k = if a ≤ k ∧ k < a + bs.length then bs[k - a]?.getD 0 else Mem.get m k := by
  induction bs generalizing m a with
  | nil => exact (if_neg fun h => absurd h.2 (Nat.not_lt.2 h.1)).symm
  | cons b r ih =>
    rw [Mem.write, ih (Mem.wf_set w a b), Mem.get_set w]
    rw [List.length_cons]
    by_cases h1 : a + 1 ≤ k ∧ k < a + 1 + r.length
    · rw [if_pos h1, if_pos (by omega), show k - a = (k - (a + 1)) + 1 by omega]; simp
    · rw [if_neg h1]
      by_cases h0 : k = a
      · subst h0; rw [if_pos rfl, if_pos (by omega)]; simp
      · rw [if_neg h0, if_neg (by omega)]

theorem Mem.wf_mask {m : Memory} (w : Memory.wf m = true) (a : Nat) (bs : List (Option Byte)) :
    Memory.wf (Mem.mask m a bs) = true := by
  induction bs generalizing m a with
  | nil => exact w
  | cons b r ih =>
    cases b with
    | none => exact ih w _
    | some b => exact ih (Mem.wf_set w a b) _

/-- Reading a byte after a masked write. -/
theorem Mem.get_mask {m : Memory} (w : Memory.wf m = true) (a : Nat) (bs : List (Option Byte)) (k : Nat) :
    Mem.get (Mem.mask m a bs) k = if a ≤ k then ((bs[k - a]?).join).getD (Mem.get m k) else Mem.get m k := by
  induction bs generalizing m a with
  | nil => simp [Mem.mask]
  | cons b r ih =>
    have step : ∀ {x : Nat}, a + 1 ≤ x → x - a = (x - (a + 1)) + 1 := by omega
    by_cases h1 : a + 1 ≤ k
    · cases b with
      | none => rw [Mem.mask, ih w, if_pos h1, if_pos (by omega), step h1]; simp
      | some b => rw [Mem.mask, ih (Mem.wf_set w a b), if_pos h1, if_pos (by omega), step h1, Mem.get_set w, if_neg (by omega)]; simp
    · cases b with
      | none =>
        rw [Mem.mask, ih w, if_neg h1]
        split
        · rw [show k - a = 0 by omega]; rfl
        · rfl
      | some b =>
        rw [Mem.mask, ih (Mem.wf_set w a b), if_neg h1, Mem.get_set w]
        by_cases h2 : k = a
        · subst h2; simp
        · rw [if_neg h2, if_neg (by omega)]

theorem Mem.wf_filter_from {m : Memory} {lo : Nat} (w : Mem.wfFrom lo m = true) (f : Host.Cell → Bool) :
    Mem.wfFrom lo (m.filter f) = true := by
  induction m generalizing lo with
  | nil => rfl
  | cons c r ih =>
    obtain ⟨k, x⟩ := c
    simp [Mem.wfFrom] at w
    rw [List.filter_cons]
    split
    · simp [Mem.wfFrom, w]; exact ih w.2
    · exact Mem.wfFrom_mono (by omega) (ih w.2)

theorem Mem.wf_clear {m : Memory} (w : Memory.wf m = true) (a n : Nat) : Memory.wf (Mem.clear m a n) = true :=
  Mem.wf_filter_from w _

/-- Equal reads make equal memories: the canonical form is one list for one content. -/
theorem Mem.ext_from {m m' : Memory} {lo : Nat} (w : Mem.wfFrom lo m = true) (w' : Mem.wfFrom lo m' = true)
    (h : ∀ k, Mem.get m k = Mem.get m' k) : m = m' := by
  induction m generalizing m' lo with
  | nil =>
    cases m' with
    | nil => rfl
    | cons c r =>
      obtain ⟨j, y⟩ := c
      simp [Mem.wfFrom] at w'
      have := h j; simp [Mem.get] at this; exact absurd this.symm w'.1.2
  | cons c r ih =>
    obtain ⟨k, x⟩ := c
    simp [Mem.wfFrom] at w
    cases m' with
    | nil => have := h k; simp [Mem.get] at this; exact absurd this w.1.2
    | cons c' r' =>
      obtain ⟨j, y⟩ := c'
      simp [Mem.wfFrom] at w'
      have hk := h k
      have hj := h j
      by_cases e : k = j
      · subst e
        simp [Mem.get] at hk
        subst hk
        rw [ih w.2 w'.2]
        intro a
        have ha := h a
        simp only [Mem.get] at ha
        by_cases h1 : a < k
        · rw [Mem.get_below w.2 (by omega), Mem.get_below w'.2 (by omega)]
        · by_cases h2 : k = a
          · subst h2; rw [Mem.get_below w.2 (by omega), Mem.get_below w'.2 (by omega)]
          · simpa [h1, h2] using ha
      · rcases Nat.lt_or_gt_of_ne e with l | l
        · simp [Mem.get, l] at hk; exact absurd hk w.1.2
        · simp [Mem.get, show j < k from l] at hj; exact absurd hj.symm w'.1.2

theorem Mem.ext {m m' : Memory} (w : Memory.wf m = true) (w' : Memory.wf m' = true) (h : ∀ k, Mem.get m k = Mem.get m' k) :
    m = m' := Mem.ext_from w w' h

@[simp] theorem bytesOfNat_length (n x : Nat) : (bytesOfNat n x).length = n := by
  induction n generalizing x with
  | zero => rfl
  | succ n ih => simp [bytesOfNat, ih]

/-- The bytes of a number, read back. -/
theorem natOfBytes_bytesOfNat (n x : Nat) : natOfBytes (bytesOfNat n x) = x % 256 ^ n := by
  induction n generalizing x with
  | zero => simp [bytesOfNat, natOfBytes, Nat.mod_one]
  | succ n ih =>
    rw [bytesOfNat, natOfBytes, ih, Nat.pow_succ, Nat.mul_comm (256 ^ n) 256, Nat.mod_mul]
    simp [BitVec.toNat_ofNat]

theorem Mem.nat_eq (m : Memory) (a n : Nat) : Mem.nat m a n = natOfBytes (Mem.bytes m a n) := by
  induction n generalizing a with
  | zero => rfl
  | succ n ih =>
    rw [Mem.nat, ih, Mem.bytes, Mem.bytes, List.range_succ_eq_map, List.map_cons, natOfBytes]
    simp [Function.comp_def, Nat.add_assoc, Nat.add_comm 1]

theorem Mem.bytes_write {m : Memory} (w : Memory.wf m = true) (a : Nat) (bs : List Byte) :
    Mem.bytes (Mem.write m a bs) a bs.length = bs := by
  apply List.ext_getElem
  · simp [Mem.bytes]
  · intro i h1 h2
    simp only [Mem.bytes, List.getElem_map, List.getElem_range]
    rw [Mem.get_write w, if_pos ⟨by omega, by omega⟩]
    simp [h2]

/-- A read of n bytes after a write of n bytes at the same place. -/
theorem Mem.nat_write_same {m : Memory} (w : Memory.wf m = true) (a n x : Nat) :
    Mem.nat (Mem.write m a (bytesOfNat n x)) a n = x % 256 ^ n := by
  rw [Mem.nat_eq]
  have := Mem.bytes_write w a (bytesOfNat n x)
  rw [bytesOfNat_length] at this
  rw [this, natOfBytes_bytesOfNat]

/-- A read beside the bytes written. -/
theorem Mem.nat_write_other {m : Memory} (w : Memory.wf m = true) (a : Nat) (bs : List Byte) (k n : Nat)
    (h : k + n ≤ a ∨ a + bs.length ≤ k) : Mem.nat (Mem.write m a bs) k n = Mem.nat m k n := by
  induction n generalizing k with
  | zero => rfl
  | succ n ih => rw [Mem.nat, Mem.nat, ih (k + 1) (by omega), Mem.get_write w, if_neg (by omega)]

/-- Poison stays out of the way of a write's effect on memory. -/
theorem Mach.putNat_mem (s : Mach) (k n x : Nat) : (s.putNat k n x).mem = Mem.write s.mem k (bytesOfNat n x) := rfl

theorem Mach.put_wf (s : Mach) (w : Memory.wf s.mem = true) (k : Nat) (bs : List Byte) : Memory.wf (s.put k bs).mem = true :=
  Mem.wf_write w k bs

end Sys2Proof.Machine
end

