-- ==== Sys2Proof/Laws/Cipher.lean ====
section
/-! SUPPORT. The cipher of R329: a block is sixteen bytes, and what is sealed opens again. -/

namespace Sys2Proof.Machine

theorem xorBytes_length (a b : List Byte) : (xorBytes a b).length = min a.length b.length := List.length_zipWith

theorem xorBytes_cancel (a b : List Byte) (h : a.length ≤ b.length) : xorBytes (xorBytes a b) b = a := by
  induction a generalizing b with
  | nil => rfl
  | cons x r ih =>
    obtain _ | ⟨y, b⟩ := b
    · cases h
    · have h : r.length ≤ b.length := Nat.le_of_succ_le_succ h
      show ((x ^^^ y) ^^^ y) :: xorBytes (xorBytes r b) b = x :: r
      rw [ih b h, BitVec.xor_assoc, BitVec.xor_self, BitVec.xor_zero]

/-- A list of n pieces of k elements, taken apart. -/
theorem pieces_whole {α : Type} (k : Nat) (hk : 0 < k) : ∀ (n : Nat) (l : List α), l.length = n * k →
    (pieces n k l).length = n ∧ ∀ p ∈ pieces n k l, p.length = k ∧ ∀ x ∈ p, x ∈ l
  | 0, _, _ => ⟨rfl, fun _ h => absurd h List.not_mem_nil⟩
  | n + 1, l, h => by
    rw [Nat.succ_mul] at h
    have he : l.isEmpty = false := List.isEmpty_eq_false_iff.2 fun e => by rw [e, List.length_nil] at h; omega
    obtain ⟨h1, h2⟩ := pieces_whole k hk n (l.drop k) (by rw [List.length_drop]; omega)
    rw [pieces, he]
    refine ⟨congrArg Nat.succ h1, fun p hp => ?_⟩
    rcases List.mem_cons.1 hp with rfl | hp
    · exact ⟨by rw [List.length_take]; omega, fun x hx => List.mem_of_mem_take hx⟩
    · exact ⟨(h2 p hp).1, fun x hx => List.mem_of_mem_drop ((h2 p hp).2 x hx)⟩

/-- Words of four bytes stay so in the key schedule. -/
theorem keyWords_words : ∀ (n i : Nat) (rc : Byte) (w : List (List Byte)), 8 ≤ w.length → (∀ x ∈ w, x.length = 4) →
    (keyWords n i rc w).length = w.length + n ∧ ∀ x ∈ keyWords n i rc w, x.length = 4
  | 0, _, _, _, _, hw => ⟨rfl, hw⟩
  | n + 1, i, rc, w, h8, hw => by
    have hl : (w.headD []).length = 4 := by
      obtain _ | ⟨x, r⟩ := w
      · cases h8
      · exact hw x List.mem_cons_self
    have h7 : (w[7]?.getD []).length = 4 := by
      rw [List.getElem?_eq_getElem (by omega)]; exact hw _ (List.getElem_mem _)
    have hn : ∀ t : List Byte, t.length = 4 → ∀ x ∈ xorBytes (w[7]?.getD []) t :: w, x.length = 4 := fun t ht x hx => by
      rcases List.mem_cons.1 hx with rfl | hx
      · rw [xorBytes_length, h7, ht]; rfl
      · exact hw x hx
    rw [keyWords]
    have step : ∀ (rc : Byte) (t : List Byte), t.length = 4 →
        (keyWords n (i + 1) rc (xorBytes (w[7]?.getD []) t :: w)).length = w.length + (n + 1) ∧
        ∀ x ∈ keyWords n (i + 1) rc (xorBytes (w[7]?.getD []) t :: w), x.length = 4 := fun rc t ht => by
      have k := keyWords_words n (i + 1) rc (xorBytes (w[7]?.getD []) t :: w) (Nat.le_succ_of_le h8) (hn t ht)
      exact ⟨by rw [k.1, List.length_cons]; omega, k.2⟩
    refine step _ _ ?_
    split
    · rw [xorBytes_length, List.length_map, List.length_append, List.length_drop, List.length_take, hl]; rfl
    · split
      · rw [List.length_map, hl]
      · exact hl

theorem roundKeys_blocks (key : List Byte) (h : key.length = 32) :
    (roundKeys key).length = 15 ∧ ∀ k ∈ roundKeys key, k.length = 16 := by
  obtain ⟨a1, a2⟩ := pieces_whole 4 (by decide) 8 key h
  obtain ⟨b1, b2⟩ := keyWords_words 52 8 1 (pieces 8 4 key).reverse (Nat.le_of_eq (by rw [List.length_reverse, a1]))
    fun x hx => (a2 x (List.mem_reverse.1 hx)).1
  obtain ⟨c1, c2⟩ := pieces_whole 4 (by decide) 15 (keyWords 52 8 1 (pieces 8 4 key).reverse).reverse
    (by rw [List.length_reverse, b1, List.length_reverse, a1])
  refine ⟨by rw [roundKeys, List.length_map, c1], fun k hk => ?_⟩
  obtain ⟨p, hp, rfl⟩ := List.mem_map.1 hk
  have h4 : ∀ x ∈ p, x.length = 4 := fun x hx => b2 x (List.mem_reverse.1 ((c2 p hp).2 x hx))
  rw [List.length_flatten, List.map_congr_left h4, List.map_const', List.sum_replicate_nat, (c2 p hp).1]

theorem aesRounds_length : ∀ (ks : List (List Byte)) (s : List Byte), ks ≠ [] → (∀ k ∈ ks, k.length = 16) → (aesRounds ks s).length = 16
  | [], _, h, _ => absurd rfl h
  | [k], s, _, hk => by
    rw [aesRounds, xorBytes_length, hk k List.mem_cons_self, shiftRows, List.length_map, List.length_range]; rfl
  | k :: j :: r, s, _, hk => by
    rw [aesRounds.eq_def]
    exact aesRounds_length (j :: r) _ (by simp) fun x hx => hk x (List.mem_cons_of_mem _ hx)

/-- R329: a block of AES-256 is sixteen bytes. -/
theorem aesBlock_length (key b : List Byte) (h : key.length = 32) : (aesBlock (roundKeys key) b).length = 16 := by
  obtain ⟨h1, h2⟩ := roundKeys_blocks key h
  revert h1 h2
  obtain _ | ⟨k, _ | ⟨j, r⟩⟩ := roundKeys key
  · intro h1; cases h1
  · intro h1; cases h1
  · exact fun _ h2 => aesRounds_length (j :: r) _ (by simp) fun x hx => h2 x (List.mem_cons_of_mem _ hx)

/-- Counter mode, twice, with blocks of sixteen bytes. -/
theorem gcmStream_twice (keys : List (List Byte)) (nonce : List Byte) (hb : ∀ i, (aesBlock keys (counterBlock nonce i)).length = 16) :
    ∀ (n i : Nat) (l : List Byte), l.length < 16 * n →
      (gcmStream keys nonce i (pieces n 16 l)).length = l.length ∧
      gcmStream keys nonce i (pieces n 16 (gcmStream keys nonce i (pieces n 16 l))) = l
  | 0, _, _, h => absurd h (Nat.not_lt_zero _)
  | n + 1, i, [], _ => ⟨rfl, rfl⟩
  | n + 1, i, x :: r, h => by
    generalize hl : x :: r = l at *
    have he : l.isEmpty = false := by rw [← hl]; rfl
    let c := xorBytes (l.take 16) (aesBlock keys (counterBlock nonce i))
    have hc : c.length = min 16 l.length := by rw [xorBytes_length, hb, List.length_take]; omega
    have hp : gcmStream keys nonce i (pieces (n + 1) 16 l) = c ++ gcmStream keys nonce (i + 1) (pieces n 16 (l.drop 16)) := by
      rw [pieces, he]; rfl
    obtain ⟨k1, k2⟩ : (gcmStream keys nonce (i + 1) (pieces n 16 (l.drop 16))).length = (l.drop 16).length ∧
        gcmStream keys nonce (i + 1) (pieces n 16 (gcmStream keys nonce (i + 1) (pieces n 16 (l.drop 16)))) = l.drop 16 := by
      by_cases hd : 16 ≤ l.length
      · exact gcmStream_twice keys nonce hb n (i + 1) (l.drop 16) (by rw [List.length_drop]; omega)
      · have hd : l.drop 16 = [] := List.drop_eq_nil_of_le (by omega)
        have hn : pieces n 16 ([] : List Byte) = [] := by cases n <;> rfl
        rw [hd, hn]; exact ⟨rfl, by rw [gcmStream, hn]; rfl⟩
    rw [hp]
    generalize gcmStream keys nonce (i + 1) (pieces n 16 (l.drop 16)) = d at *
    rw [List.length_drop] at k1
    refine ⟨by rw [List.length_append, hc, k1]; omega, ?_⟩
    have h0 : 0 < l.length := by rw [← hl]; exact Nat.succ_pos _
    have hce : (c ++ d).isEmpty = false := List.isEmpty_eq_false_iff.2 fun e => by
      have := congrArg List.length e
      rw [List.length_append, hc, k1, List.length_nil] at this; omega
    have ht : (c ++ d).take 16 = c ∧ (c ++ d).drop 16 = d := by
      by_cases hd : 16 ≤ l.length
      · have : c.length = 16 := by omega
        exact ⟨List.take_left' this, List.drop_left' this⟩
      · have : d = [] := List.eq_nil_of_length_eq_zero (by omega)
        rw [this, List.append_nil]
        exact ⟨List.take_of_length_le (by omega), List.drop_eq_nil_of_le (by omega)⟩
    rw [pieces, hce]
    show xorBytes ((c ++ d).take 16) _ ++ gcmStream keys nonce (i + 1) (pieces n 16 ((c ++ d).drop 16)) = l
    rw [ht.1, ht.2, k2, xorBytes_cancel _ _ (by rw [hb, List.length_take]; omega), List.take_append_drop]

/-- R329: what is sealed under a key of 32 bytes has a tag of sixteen bytes, and opens. -/
theorem gcm_open_seal (key nonce aad text : List Byte) (h : key.length = 32) :
    (gcmSeal key nonce aad text).length = text.length + 16 ∧ gcmOpen key nonce aad (gcmSeal key nonce aad text) = some text := by
  obtain ⟨h1, h2⟩ := gcmStream_twice (roundKeys key) nonce (fun _ => aesBlock_length key _ h) (text.length / 16 + 1) 2 text (by omega)
  have hc : (gcmCrypt key nonce text).length = text.length := h1
  have hd : gcmCrypt key nonce (gcmCrypt key nonce text) = text := by rw [gcmCrypt, hc]; exact h2
  have ht : (gcmTag key nonce aad (gcmCrypt key nonce text)).length = 16 := by
    rw [gcmTag, xorBytes_length, aesBlock_length key _ h, bytesMost, List.length_reverse, bytesOfNat_length]; rfl
  have hs : (gcmSeal key nonce aad text).length = text.length + 16 := by rw [gcmSeal, List.length_append, hc, ht]
  refine ⟨hs, ?_⟩
  rw [gcmOpen, hs, gcmSeal]
  simp only [Nat.add_sub_cancel]
  rw [List.take_left' hc, List.drop_left' hc, hd]
  simp

end Sys2Proof.Machine
end

