-- ==== Sys2Proof/Laws/State.lean ====
section
/-! SUPPORT. What the named updates of the machine leave in each field: one lemma per field per update, so that no proof
unfolds a record update. Written out by field from the structures of State.lean. -/

namespace Sys2Proof.Machine

variable (s : Mach) (c : Ctx)

/-! Scalar and predicate registers. -/

@[simp] theorem Ctx.setG_pc (n : Nat) (w : Word) : (c.setG n w).pc = c.pc := by unfold Ctx.setG; split <;> rfl
@[simp] theorem Ctx.setG_far (n : Nat) (w : Word) : (c.setG n w).far = c.far := by unfold Ctx.setG; split <;> rfl
@[simp] theorem Ctx.setG_v (n : Nat) (w : Word) : (c.setG n w).v = c.v := by unfold Ctx.setG; split <;> rfl
@[simp] theorem Ctx.setG_p (n : Nat) (w : Word) : (c.setG n w).p = c.p := by unfold Ctx.setG; split <;> rfl
@[simp] theorem Ctx.setG_q (n : Nat) (w : Word) : (c.setG n w).q = c.q := by unfold Ctx.setG; split <;> rfl
@[simp] theorem Ctx.setG_fbuf (n : Nat) (w : Word) : (c.setG n w).fbuf = c.fbuf := by unfold Ctx.setG; split <;> rfl
@[simp] theorem Ctx.setG_vl (n : Nat) (w : Word) : (c.setG n w).vl = c.vl := by unfold Ctx.setG; split <;> rfl
@[simp] theorem Ctx.setG_vtype (n : Nat) (w : Word) : (c.setG n w).vtype = c.vtype := by unfold Ctx.setG; split <;> rfl
@[simp] theorem Ctx.setG_vlmax (n : Nat) (w : Word) : (c.setG n w).vlmax = c.vlmax := by unfold Ctx.setG; split <;> rfl
@[simp] theorem Ctx.setG_keep (n : Nat) (w : Word) : (c.setG n w).keep = c.keep := by unfold Ctx.setG; split <;> rfl
@[simp] theorem Ctx.setG_stripset (n : Nat) (w : Word) : (c.setG n w).stripset = c.stripset := by unfold Ctx.setG; split <;> rfl
@[simp] theorem Ctx.setG_share (n : Nat) (w : Word) : (c.setG n w).share = c.share := by unfold Ctx.setG; split <;> rfl
@[simp] theorem Ctx.setG_cycle (n : Nat) (w : Word) : (c.setG n w).cycle = c.cycle := by unfold Ctx.setG; split <;> rfl
@[simp] theorem Ctx.setG_retired (n : Nat) (w : Word) : (c.setG n w).retired = c.retired := by unfold Ctx.setG; split <;> rfl
@[simp] theorem Ctx.setG_lapLen (n : Nat) (w : Word) : (c.setG n w).lapLen = c.lapLen := by unfold Ctx.setG; split <;> rfl
@[simp] theorem Ctx.setG_lapPos (n : Nat) (w : Word) : (c.setG n w).lapPos = c.lapPos := by unfold Ctx.setG; split <;> rfl
@[simp] theorem Ctx.setG_rngctl (n : Nat) (w : Word) : (c.setG n w).rngctl = c.rngctl := by unfold Ctx.setG; split <;> rfl
@[simp] theorem Ctx.setG_rngKey (n : Nat) (w : Word) : (c.setG n w).rngKey = c.rngKey := by unfold Ctx.setG; split <;> rfl
@[simp] theorem Ctx.setG_rngId (n : Nat) (w : Word) : (c.setG n w).rngId = c.rngId := by unfold Ctx.setG; split <;> rfl
@[simp] theorem Ctx.setG_fpflags (n : Nat) (w : Word) : (c.setG n w).fpflags = c.fpflags := by unfold Ctx.setG; split <;> rfl
@[simp] theorem Ctx.setG_fptrap (n : Nat) (w : Word) : (c.setG n w).fptrap = c.fptrap := by unfold Ctx.setG; split <;> rfl
@[simp] theorem Ctx.setG_tcause (n : Nat) (w : Word) : (c.setG n w).tcause = c.tcause := by unfold Ctx.setG; split <;> rfl
@[simp] theorem Ctx.setG_tpc (n : Nat) (w : Word) : (c.setG n w).tpc = c.tpc := by unfold Ctx.setG; split <;> rfl
@[simp] theorem Ctx.setG_tval (n : Nat) (w : Word) : (c.setG n w).tval = c.tval := by unfold Ctx.setG; split <;> rfl
@[simp] theorem Ctx.setG_tinfo (n : Nat) (w : Word) : (c.setG n w).tinfo = c.tinfo := by unfold Ctx.setG; split <;> rfl
@[simp] theorem Ctx.setG_tvec (n : Nat) (w : Word) : (c.setG n w).tvec = c.tvec := by unfold Ctx.setG; split <;> rfl
@[simp] theorem Ctx.setG_act (n : Nat) (w : Word) : (c.setG n w).act = c.act := by unfold Ctx.setG; split <;> rfl
@[simp] theorem Ctx.setG_lvl (n : Nat) (w : Word) : (c.setG n w).lvl = c.lvl := by unfold Ctx.setG; split <;> rfl
@[simp] theorem Ctx.setG_tdeleg (n : Nat) (w : Word) : (c.setG n w).tdeleg = c.tdeleg := by unfold Ctx.setG; split <;> rfl
@[simp] theorem Ctx.setG_win (n : Nat) (w : Word) : (c.setG n w).win = c.win := by unfold Ctx.setG; split <;> rfl
@[simp] theorem Ctx.setG_part (n : Nat) (w : Word) : (c.setG n w).part = c.part := by unfold Ctx.setG; split <;> rfl
@[simp] theorem Ctx.setG_figs (n : Nat) (w : Word) : (c.setG n w).figs = c.figs := by unfold Ctx.setG; split <;> rfl
@[simp] theorem Ctx.setG_quota (n : Nat) (w : Word) : (c.setG n w).quota = c.quota := by unfold Ctx.setG; split <;> rfl
@[simp] theorem Ctx.setG_replay (n : Nat) (w : Word) : (c.setG n w).replay = c.replay := by unfold Ctx.setG; split <;> rfl
@[simp] theorem Ctx.setG_seedSeq (n : Nat) (w : Word) : (c.setG n w).seedSeq = c.seedSeq := by unfold Ctx.setG; split <;> rfl
@[simp] theorem Ctx.setG_dgOn (n : Nat) (w : Word) : (c.setG n w).dgOn = c.dgOn := by unfold Ctx.setG; split <;> rfl
@[simp] theorem Ctx.setG_dgDone (n : Nat) (w : Word) : (c.setG n w).dgDone = c.dgDone := by unfold Ctx.setG; split <;> rfl
@[simp] theorem Ctx.setG_mOn (n : Nat) (w : Word) : (c.setG n w).mOn = c.mOn := by unfold Ctx.setG; split <;> rfl
@[simp] theorem Ctx.setG_mN (n : Nat) (w : Word) : (c.setG n w).mN = c.mN := by unfold Ctx.setG; split <;> rfl
@[simp] theorem Ctx.setG_mAllow (n : Nat) (w : Word) : (c.setG n w).mAllow = c.mAllow := by unfold Ctx.setG; split <;> rfl
@[simp] theorem Ctx.setG_z (n : Nat) (w : Word) : (c.setG n w).z = c.z := by unfold Ctx.setG; split <;> rfl
@[simp] theorem Ctx.setG_streams (n : Nat) (w : Word) : (c.setG n w).streams = c.streams := by unfold Ctx.setG; split <;> rfl
@[simp] theorem Ctx.setG_slide (n : Nat) (w : Word) : (c.setG n w).slide = c.slide := by unfold Ctx.setG; split <;> rfl
@[simp] theorem Ctx.setG_faults (n : Nat) (w : Word) : (c.setG n w).faults = c.faults := by unfold Ctx.setG; split <;> rfl
@[simp] theorem Ctx.setG_mq0 (n : Nat) (w : Word) : (c.setG n w).mq0 = c.mq0 := by unfold Ctx.setG; split <;> rfl
@[simp] theorem Ctx.setG_mq1 (n : Nat) (w : Word) : (c.setG n w).mq1 = c.mq1 := by unfold Ctx.setG; split <;> rfl
@[simp] theorem Ctx.setG_mq1Err (n : Nat) (w : Word) : (c.setG n w).mq1Err = c.mq1Err := by unfold Ctx.setG; split <;> rfl
@[simp] theorem Ctx.setG_pending (n : Nat) (w : Word) : (c.setG n w).pending = c.pending := by unfold Ctx.setG; split <;> rfl
@[simp] theorem Ctx.setG_replies (n : Nat) (w : Word) : (c.setG n w).replies = c.replies := by unfold Ctx.setG; split <;> rfl
@[simp] theorem Ctx.setG_diag (n : Nat) (w : Word) : (c.setG n w).diag = c.diag := by unfold Ctx.setG; split <;> rfl
@[simp] theorem Ctx.setG_vBad (n : Nat) (w : Word) : (c.setG n w).vBad = c.vBad := by unfold Ctx.setG; split <;> rfl
@[simp] theorem Ctx.setG_pBad (n : Nat) (w : Word) : (c.setG n w).pBad = c.pBad := by unfold Ctx.setG; split <;> rfl
@[simp] theorem Ctx.setG_zBad (n : Nat) (w : Word) : (c.setG n w).zBad = c.zBad := by unfold Ctx.setG; split <;> rfl
@[simp] theorem Ctx.setG_place (n : Nat) (w : Word) : (c.setG n w).place = c.place := by unfold Ctx.setG; split <;> rfl
@[simp] theorem Ctx.setG_nid (n : Nat) (w : Word) : (c.setG n w).nid = c.nid := by unfold Ctx.setG; split <;> rfl
@[simp] theorem Ctx.setG_idx (n : Nat) (w : Word) : (c.setG n w).idx = c.idx := by unfold Ctx.setG; split <;> rfl
@[simp] theorem Ctx.setG_issued (n : Nat) (w : Word) : (c.setG n w).issued = c.issued := by unfold Ctx.setG; split <;> rfl

@[simp] theorem Ctx.setP_pc (n : Nat) (w : PReg) : (c.setP n w).pc = c.pc := by unfold Ctx.setP; split <;> rfl
@[simp] theorem Ctx.setP_far (n : Nat) (w : PReg) : (c.setP n w).far = c.far := by unfold Ctx.setP; split <;> rfl
@[simp] theorem Ctx.setP_g (n : Nat) (w : PReg) : (c.setP n w).g = c.g := by unfold Ctx.setP; split <;> rfl
@[simp] theorem Ctx.setP_v (n : Nat) (w : PReg) : (c.setP n w).v = c.v := by unfold Ctx.setP; split <;> rfl
@[simp] theorem Ctx.setP_q (n : Nat) (w : PReg) : (c.setP n w).q = c.q := by unfold Ctx.setP; split <;> rfl
@[simp] theorem Ctx.setP_fbuf (n : Nat) (w : PReg) : (c.setP n w).fbuf = c.fbuf := by unfold Ctx.setP; split <;> rfl
@[simp] theorem Ctx.setP_vl (n : Nat) (w : PReg) : (c.setP n w).vl = c.vl := by unfold Ctx.setP; split <;> rfl
@[simp] theorem Ctx.setP_vtype (n : Nat) (w : PReg) : (c.setP n w).vtype = c.vtype := by unfold Ctx.setP; split <;> rfl
@[simp] theorem Ctx.setP_vlmax (n : Nat) (w : PReg) : (c.setP n w).vlmax = c.vlmax := by unfold Ctx.setP; split <;> rfl
@[simp] theorem Ctx.setP_keep (n : Nat) (w : PReg) : (c.setP n w).keep = c.keep := by unfold Ctx.setP; split <;> rfl
@[simp] theorem Ctx.setP_stripset (n : Nat) (w : PReg) : (c.setP n w).stripset = c.stripset := by unfold Ctx.setP; split <;> rfl
@[simp] theorem Ctx.setP_share (n : Nat) (w : PReg) : (c.setP n w).share = c.share := by unfold Ctx.setP; split <;> rfl
@[simp] theorem Ctx.setP_cycle (n : Nat) (w : PReg) : (c.setP n w).cycle = c.cycle := by unfold Ctx.setP; split <;> rfl
@[simp] theorem Ctx.setP_retired (n : Nat) (w : PReg) : (c.setP n w).retired = c.retired := by unfold Ctx.setP; split <;> rfl
@[simp] theorem Ctx.setP_lapLen (n : Nat) (w : PReg) : (c.setP n w).lapLen = c.lapLen := by unfold Ctx.setP; split <;> rfl
@[simp] theorem Ctx.setP_lapPos (n : Nat) (w : PReg) : (c.setP n w).lapPos = c.lapPos := by unfold Ctx.setP; split <;> rfl
@[simp] theorem Ctx.setP_rngctl (n : Nat) (w : PReg) : (c.setP n w).rngctl = c.rngctl := by unfold Ctx.setP; split <;> rfl
@[simp] theorem Ctx.setP_rngKey (n : Nat) (w : PReg) : (c.setP n w).rngKey = c.rngKey := by unfold Ctx.setP; split <;> rfl
@[simp] theorem Ctx.setP_rngId (n : Nat) (w : PReg) : (c.setP n w).rngId = c.rngId := by unfold Ctx.setP; split <;> rfl
@[simp] theorem Ctx.setP_fpflags (n : Nat) (w : PReg) : (c.setP n w).fpflags = c.fpflags := by unfold Ctx.setP; split <;> rfl
@[simp] theorem Ctx.setP_fptrap (n : Nat) (w : PReg) : (c.setP n w).fptrap = c.fptrap := by unfold Ctx.setP; split <;> rfl
@[simp] theorem Ctx.setP_tcause (n : Nat) (w : PReg) : (c.setP n w).tcause = c.tcause := by unfold Ctx.setP; split <;> rfl
@[simp] theorem Ctx.setP_tpc (n : Nat) (w : PReg) : (c.setP n w).tpc = c.tpc := by unfold Ctx.setP; split <;> rfl
@[simp] theorem Ctx.setP_tval (n : Nat) (w : PReg) : (c.setP n w).tval = c.tval := by unfold Ctx.setP; split <;> rfl
@[simp] theorem Ctx.setP_tinfo (n : Nat) (w : PReg) : (c.setP n w).tinfo = c.tinfo := by unfold Ctx.setP; split <;> rfl
@[simp] theorem Ctx.setP_tvec (n : Nat) (w : PReg) : (c.setP n w).tvec = c.tvec := by unfold Ctx.setP; split <;> rfl
@[simp] theorem Ctx.setP_act (n : Nat) (w : PReg) : (c.setP n w).act = c.act := by unfold Ctx.setP; split <;> rfl
@[simp] theorem Ctx.setP_lvl (n : Nat) (w : PReg) : (c.setP n w).lvl = c.lvl := by unfold Ctx.setP; split <;> rfl
@[simp] theorem Ctx.setP_tdeleg (n : Nat) (w : PReg) : (c.setP n w).tdeleg = c.tdeleg := by unfold Ctx.setP; split <;> rfl
@[simp] theorem Ctx.setP_win (n : Nat) (w : PReg) : (c.setP n w).win = c.win := by unfold Ctx.setP; split <;> rfl
@[simp] theorem Ctx.setP_part (n : Nat) (w : PReg) : (c.setP n w).part = c.part := by unfold Ctx.setP; split <;> rfl
@[simp] theorem Ctx.setP_figs (n : Nat) (w : PReg) : (c.setP n w).figs = c.figs := by unfold Ctx.setP; split <;> rfl
@[simp] theorem Ctx.setP_quota (n : Nat) (w : PReg) : (c.setP n w).quota = c.quota := by unfold Ctx.setP; split <;> rfl
@[simp] theorem Ctx.setP_replay (n : Nat) (w : PReg) : (c.setP n w).replay = c.replay := by unfold Ctx.setP; split <;> rfl
@[simp] theorem Ctx.setP_seedSeq (n : Nat) (w : PReg) : (c.setP n w).seedSeq = c.seedSeq := by unfold Ctx.setP; split <;> rfl
@[simp] theorem Ctx.setP_dgOn (n : Nat) (w : PReg) : (c.setP n w).dgOn = c.dgOn := by unfold Ctx.setP; split <;> rfl
@[simp] theorem Ctx.setP_dgDone (n : Nat) (w : PReg) : (c.setP n w).dgDone = c.dgDone := by unfold Ctx.setP; split <;> rfl
@[simp] theorem Ctx.setP_mOn (n : Nat) (w : PReg) : (c.setP n w).mOn = c.mOn := by unfold Ctx.setP; split <;> rfl
@[simp] theorem Ctx.setP_mN (n : Nat) (w : PReg) : (c.setP n w).mN = c.mN := by unfold Ctx.setP; split <;> rfl
@[simp] theorem Ctx.setP_mAllow (n : Nat) (w : PReg) : (c.setP n w).mAllow = c.mAllow := by unfold Ctx.setP; split <;> rfl
@[simp] theorem Ctx.setP_z (n : Nat) (w : PReg) : (c.setP n w).z = c.z := by unfold Ctx.setP; split <;> rfl
@[simp] theorem Ctx.setP_streams (n : Nat) (w : PReg) : (c.setP n w).streams = c.streams := by unfold Ctx.setP; split <;> rfl
@[simp] theorem Ctx.setP_slide (n : Nat) (w : PReg) : (c.setP n w).slide = c.slide := by unfold Ctx.setP; split <;> rfl
@[simp] theorem Ctx.setP_faults (n : Nat) (w : PReg) : (c.setP n w).faults = c.faults := by unfold Ctx.setP; split <;> rfl
@[simp] theorem Ctx.setP_mq0 (n : Nat) (w : PReg) : (c.setP n w).mq0 = c.mq0 := by unfold Ctx.setP; split <;> rfl
@[simp] theorem Ctx.setP_mq1 (n : Nat) (w : PReg) : (c.setP n w).mq1 = c.mq1 := by unfold Ctx.setP; split <;> rfl
@[simp] theorem Ctx.setP_mq1Err (n : Nat) (w : PReg) : (c.setP n w).mq1Err = c.mq1Err := by unfold Ctx.setP; split <;> rfl
@[simp] theorem Ctx.setP_pending (n : Nat) (w : PReg) : (c.setP n w).pending = c.pending := by unfold Ctx.setP; split <;> rfl
@[simp] theorem Ctx.setP_replies (n : Nat) (w : PReg) : (c.setP n w).replies = c.replies := by unfold Ctx.setP; split <;> rfl
@[simp] theorem Ctx.setP_diag (n : Nat) (w : PReg) : (c.setP n w).diag = c.diag := by unfold Ctx.setP; split <;> rfl
@[simp] theorem Ctx.setP_vBad (n : Nat) (w : PReg) : (c.setP n w).vBad = c.vBad := by unfold Ctx.setP; split <;> rfl
@[simp] theorem Ctx.setP_zBad (n : Nat) (w : PReg) : (c.setP n w).zBad = c.zBad := by unfold Ctx.setP; split <;> rfl
@[simp] theorem Ctx.setP_place (n : Nat) (w : PReg) : (c.setP n w).place = c.place := by unfold Ctx.setP; split <;> rfl
@[simp] theorem Ctx.setP_nid (n : Nat) (w : PReg) : (c.setP n w).nid = c.nid := by unfold Ctx.setP; split <;> rfl
@[simp] theorem Ctx.setP_idx (n : Nat) (w : PReg) : (c.setP n w).idx = c.idx := by unfold Ctx.setP; split <;> rfl
@[simp] theorem Ctx.setP_issued (n : Nat) (w : PReg) : (c.setP n w).issued = c.issued := by unfold Ctx.setP; split <;> rfl

/-! R22: the counters of a retirement. -/

@[simp] theorem Ctx.count_pc (k : Nat) : (c.count k).pc = c.pc := rfl
@[simp] theorem Ctx.count_far (k : Nat) : (c.count k).far = c.far := rfl
@[simp] theorem Ctx.count_g (k : Nat) : (c.count k).g = c.g := rfl
@[simp] theorem Ctx.count_v (k : Nat) : (c.count k).v = c.v := rfl
@[simp] theorem Ctx.count_p (k : Nat) : (c.count k).p = c.p := rfl
@[simp] theorem Ctx.count_q (k : Nat) : (c.count k).q = c.q := rfl
@[simp] theorem Ctx.count_fbuf (k : Nat) : (c.count k).fbuf = c.fbuf := rfl
@[simp] theorem Ctx.count_vl (k : Nat) : (c.count k).vl = c.vl := rfl
@[simp] theorem Ctx.count_vtype (k : Nat) : (c.count k).vtype = c.vtype := rfl
@[simp] theorem Ctx.count_vlmax (k : Nat) : (c.count k).vlmax = c.vlmax := rfl
@[simp] theorem Ctx.count_keep (k : Nat) : (c.count k).keep = c.keep := rfl
@[simp] theorem Ctx.count_stripset (k : Nat) : (c.count k).stripset = c.stripset := rfl
@[simp] theorem Ctx.count_share (k : Nat) : (c.count k).share = c.share := rfl
@[simp] theorem Ctx.count_cycle (k : Nat) : (c.count k).cycle = c.cycle + BitVec.ofNat 64 k := rfl
@[simp] theorem Ctx.count_retired (k : Nat) : (c.count k).retired = c.retired + 1 := rfl
@[simp] theorem Ctx.count_lapLen (k : Nat) : (c.count k).lapLen = c.lapLen := rfl
@[simp] theorem Ctx.count_lapPos (k : Nat) : (c.count k).lapPos = if c.lapLen = 0 then 0 else (c.lapPos + 1) % c.lapLen := rfl
@[simp] theorem Ctx.count_rngctl (k : Nat) : (c.count k).rngctl = c.rngctl := rfl
@[simp] theorem Ctx.count_rngKey (k : Nat) : (c.count k).rngKey = c.rngKey := rfl
@[simp] theorem Ctx.count_rngId (k : Nat) : (c.count k).rngId = c.rngId := rfl
@[simp] theorem Ctx.count_fpflags (k : Nat) : (c.count k).fpflags = c.fpflags := rfl
@[simp] theorem Ctx.count_fptrap (k : Nat) : (c.count k).fptrap = c.fptrap := rfl
@[simp] theorem Ctx.count_tcause (k : Nat) : (c.count k).tcause = c.tcause := rfl
@[simp] theorem Ctx.count_tpc (k : Nat) : (c.count k).tpc = c.tpc := rfl
@[simp] theorem Ctx.count_tval (k : Nat) : (c.count k).tval = c.tval := rfl
@[simp] theorem Ctx.count_tinfo (k : Nat) : (c.count k).tinfo = c.tinfo := rfl
@[simp] theorem Ctx.count_tvec (k : Nat) : (c.count k).tvec = c.tvec := rfl
@[simp] theorem Ctx.count_act (k : Nat) : (c.count k).act = c.act := rfl
@[simp] theorem Ctx.count_lvl (k : Nat) : (c.count k).lvl = c.lvl := rfl
@[simp] theorem Ctx.count_tdeleg (k : Nat) : (c.count k).tdeleg = c.tdeleg := rfl
@[simp] theorem Ctx.count_win (k : Nat) : (c.count k).win = c.win := rfl
@[simp] theorem Ctx.count_part (k : Nat) : (c.count k).part = c.part := rfl
@[simp] theorem Ctx.count_figs (k : Nat) : (c.count k).figs = c.figs := rfl
@[simp] theorem Ctx.count_quota (k : Nat) : (c.count k).quota = c.quota := rfl
@[simp] theorem Ctx.count_replay (k : Nat) : (c.count k).replay = c.replay := rfl
@[simp] theorem Ctx.count_seedSeq (k : Nat) : (c.count k).seedSeq = c.seedSeq := rfl
@[simp] theorem Ctx.count_dgOn (k : Nat) : (c.count k).dgOn = c.dgOn := rfl
@[simp] theorem Ctx.count_dgDone (k : Nat) : (c.count k).dgDone = c.dgDone := rfl
@[simp] theorem Ctx.count_mOn (k : Nat) : (c.count k).mOn = c.mOn := rfl
@[simp] theorem Ctx.count_mN (k : Nat) : (c.count k).mN = c.mN := rfl
@[simp] theorem Ctx.count_mAllow (k : Nat) : (c.count k).mAllow = c.mAllow := rfl
@[simp] theorem Ctx.count_z (k : Nat) : (c.count k).z = c.z := rfl
@[simp] theorem Ctx.count_streams (k : Nat) : (c.count k).streams = c.streams := rfl
@[simp] theorem Ctx.count_slide (k : Nat) : (c.count k).slide = c.slide := rfl
@[simp] theorem Ctx.count_faults (k : Nat) : (c.count k).faults = c.faults := rfl
@[simp] theorem Ctx.count_mq0 (k : Nat) : (c.count k).mq0 = c.mq0 := rfl
@[simp] theorem Ctx.count_mq1 (k : Nat) : (c.count k).mq1 = c.mq1 := rfl
@[simp] theorem Ctx.count_mq1Err (k : Nat) : (c.count k).mq1Err = c.mq1Err := rfl
@[simp] theorem Ctx.count_pending (k : Nat) : (c.count k).pending = c.pending := rfl
@[simp] theorem Ctx.count_replies (k : Nat) : (c.count k).replies = c.replies := rfl
@[simp] theorem Ctx.count_diag (k : Nat) : (c.count k).diag = c.diag := rfl
@[simp] theorem Ctx.count_vBad (k : Nat) : (c.count k).vBad = c.vBad := rfl
@[simp] theorem Ctx.count_pBad (k : Nat) : (c.count k).pBad = c.pBad := rfl
@[simp] theorem Ctx.count_zBad (k : Nat) : (c.count k).zBad = c.zBad := rfl
@[simp] theorem Ctx.count_place (k : Nat) : (c.count k).place = c.place := rfl
@[simp] theorem Ctx.count_nid (k : Nat) : (c.count k).nid = c.nid := rfl
@[simp] theorem Ctx.count_idx (k : Nat) : (c.count k).idx = c.idx := rfl
@[simp] theorem Ctx.count_issued (k : Nat) : (c.count k).issued = {} := rfl

/-! Updates of the machine: the field that changes, and every other one. -/

@[simp] theorem Mach.setG_ctx (n : Nat) (w : Word) : (s.setG n w).ctx = s.ctx.setG n w := rfl
@[simp] theorem Mach.setG_cur (n : Nat) (w : Word) : (s.setG n w).cur = s.cur := rfl
@[simp] theorem Mach.setG_procs (n : Nat) (w : Word) : (s.setG n w).procs = s.procs := rfl
@[simp] theorem Mach.setG_nets (n : Nat) (w : Word) : (s.setG n w).nets = s.nets := rfl
@[simp] theorem Mach.setG_images (n : Nat) (w : Word) : (s.setG n w).images = s.images := rfl
@[simp] theorem Mach.setG_tenants (n : Nat) (w : Word) : (s.setG n w).tenants = s.tenants := rfl
@[simp] theorem Mach.setG_entries (n : Nat) (w : Word) : (s.setG n w).entries = s.entries := rfl
@[simp] theorem Mach.setG_subs (n : Nat) (w : Word) : (s.setG n w).subs = s.subs := rfl
@[simp] theorem Mach.setG_deps (n : Nat) (w : Word) : (s.setG n w).deps = s.deps := rfl
@[simp] theorem Mach.setG_mem (n : Nat) (w : Word) : (s.setG n w).mem = s.mem := rfl
@[simp] theorem Mach.setG_bad (n : Nat) (w : Word) : (s.setG n w).bad = s.bad := rfl
@[simp] theorem Mach.setG_tiles (n : Nat) (w : Word) : (s.setG n w).tiles = s.tiles := rfl
@[simp] theorem Mach.setG_servers (n : Nat) (w : Word) : (s.setG n w).servers = s.servers := rfl
@[simp] theorem Mach.setG_resids (n : Nat) (w : Word) : (s.setG n w).resids = s.resids := rfl
@[simp] theorem Mach.setG_gens (n : Nat) (w : Word) : (s.setG n w).gens = s.gens := rfl
@[simp] theorem Mach.setG_marks (n : Nat) (w : Word) : (s.setG n w).marks = s.marks := rfl
@[simp] theorem Mach.setG_carries (n : Nat) (w : Word) : (s.setG n w).carries = s.carries := rfl
@[simp] theorem Mach.setG_copies (n : Nat) (w : Word) : (s.setG n w).copies = s.copies := rfl
@[simp] theorem Mach.setG_reqs (n : Nat) (w : Word) : (s.setG n w).reqs = s.reqs := rfl
@[simp] theorem Mach.setG_tileReqs (n : Nat) (w : Word) : (s.setG n w).tileReqs = s.tileReqs := rfl
@[simp] theorem Mach.setG_nears (n : Nat) (w : Word) : (s.setG n w).nears = s.nears := rfl
@[simp] theorem Mach.setG_seeds (n : Nat) (w : Word) : (s.setG n w).seeds = s.seeds := rfl
@[simp] theorem Mach.setG_outbox (n : Nat) (w : Word) : (s.setG n w).outbox = s.outbox := rfl
@[simp] theorem Mach.setG_hostUp (n : Nat) (w : Word) : (s.setG n w).hostUp = s.hostUp := rfl
@[simp] theorem Mach.setG_fresh (n : Nat) (w : Word) : (s.setG n w).fresh = s.fresh := rfl
@[simp] theorem Mach.setG_tick (n : Nat) (w : Word) : (s.setG n w).tick = s.tick := rfl

@[simp] theorem Mach.setP_ctx (n : Nat) (w : PReg) : (s.setP n w).ctx = s.ctx.setP n w := rfl
@[simp] theorem Mach.setP_cur (n : Nat) (w : PReg) : (s.setP n w).cur = s.cur := rfl
@[simp] theorem Mach.setP_procs (n : Nat) (w : PReg) : (s.setP n w).procs = s.procs := rfl
@[simp] theorem Mach.setP_nets (n : Nat) (w : PReg) : (s.setP n w).nets = s.nets := rfl
@[simp] theorem Mach.setP_images (n : Nat) (w : PReg) : (s.setP n w).images = s.images := rfl
@[simp] theorem Mach.setP_tenants (n : Nat) (w : PReg) : (s.setP n w).tenants = s.tenants := rfl
@[simp] theorem Mach.setP_entries (n : Nat) (w : PReg) : (s.setP n w).entries = s.entries := rfl
@[simp] theorem Mach.setP_subs (n : Nat) (w : PReg) : (s.setP n w).subs = s.subs := rfl
@[simp] theorem Mach.setP_deps (n : Nat) (w : PReg) : (s.setP n w).deps = s.deps := rfl
@[simp] theorem Mach.setP_mem (n : Nat) (w : PReg) : (s.setP n w).mem = s.mem := rfl
@[simp] theorem Mach.setP_bad (n : Nat) (w : PReg) : (s.setP n w).bad = s.bad := rfl
@[simp] theorem Mach.setP_tiles (n : Nat) (w : PReg) : (s.setP n w).tiles = s.tiles := rfl
@[simp] theorem Mach.setP_servers (n : Nat) (w : PReg) : (s.setP n w).servers = s.servers := rfl
@[simp] theorem Mach.setP_resids (n : Nat) (w : PReg) : (s.setP n w).resids = s.resids := rfl
@[simp] theorem Mach.setP_gens (n : Nat) (w : PReg) : (s.setP n w).gens = s.gens := rfl
@[simp] theorem Mach.setP_marks (n : Nat) (w : PReg) : (s.setP n w).marks = s.marks := rfl
@[simp] theorem Mach.setP_carries (n : Nat) (w : PReg) : (s.setP n w).carries = s.carries := rfl
@[simp] theorem Mach.setP_copies (n : Nat) (w : PReg) : (s.setP n w).copies = s.copies := rfl
@[simp] theorem Mach.setP_reqs (n : Nat) (w : PReg) : (s.setP n w).reqs = s.reqs := rfl
@[simp] theorem Mach.setP_tileReqs (n : Nat) (w : PReg) : (s.setP n w).tileReqs = s.tileReqs := rfl
@[simp] theorem Mach.setP_nears (n : Nat) (w : PReg) : (s.setP n w).nears = s.nears := rfl
@[simp] theorem Mach.setP_seeds (n : Nat) (w : PReg) : (s.setP n w).seeds = s.seeds := rfl
@[simp] theorem Mach.setP_outbox (n : Nat) (w : PReg) : (s.setP n w).outbox = s.outbox := rfl
@[simp] theorem Mach.setP_hostUp (n : Nat) (w : PReg) : (s.setP n w).hostUp = s.hostUp := rfl
@[simp] theorem Mach.setP_fresh (n : Nat) (w : PReg) : (s.setP n w).fresh = s.fresh := rfl
@[simp] theorem Mach.setP_tick (n : Nat) (w : PReg) : (s.setP n w).tick = s.tick := rfl

@[simp] theorem Mach.updProc_ctx (k : Nat) (f : Proc → Proc) : (s.updProc k f).ctx = s.ctx := rfl
@[simp] theorem Mach.updProc_cur (k : Nat) (f : Proc → Proc) : (s.updProc k f).cur = s.cur := rfl
@[simp] theorem Mach.updProc_procs (k : Nat) (f : Proc → Proc) : (s.updProc k f).procs = listSet s.procs k f := rfl
@[simp] theorem Mach.updProc_nets (k : Nat) (f : Proc → Proc) : (s.updProc k f).nets = s.nets := rfl
@[simp] theorem Mach.updProc_images (k : Nat) (f : Proc → Proc) : (s.updProc k f).images = s.images := rfl
@[simp] theorem Mach.updProc_tenants (k : Nat) (f : Proc → Proc) : (s.updProc k f).tenants = s.tenants := rfl
@[simp] theorem Mach.updProc_entries (k : Nat) (f : Proc → Proc) : (s.updProc k f).entries = s.entries := rfl
@[simp] theorem Mach.updProc_subs (k : Nat) (f : Proc → Proc) : (s.updProc k f).subs = s.subs := rfl
@[simp] theorem Mach.updProc_deps (k : Nat) (f : Proc → Proc) : (s.updProc k f).deps = s.deps := rfl
@[simp] theorem Mach.updProc_mem (k : Nat) (f : Proc → Proc) : (s.updProc k f).mem = s.mem := rfl
@[simp] theorem Mach.updProc_bad (k : Nat) (f : Proc → Proc) : (s.updProc k f).bad = s.bad := rfl
@[simp] theorem Mach.updProc_tiles (k : Nat) (f : Proc → Proc) : (s.updProc k f).tiles = s.tiles := rfl
@[simp] theorem Mach.updProc_servers (k : Nat) (f : Proc → Proc) : (s.updProc k f).servers = s.servers := rfl
@[simp] theorem Mach.updProc_resids (k : Nat) (f : Proc → Proc) : (s.updProc k f).resids = s.resids := rfl
@[simp] theorem Mach.updProc_gens (k : Nat) (f : Proc → Proc) : (s.updProc k f).gens = s.gens := rfl
@[simp] theorem Mach.updProc_marks (k : Nat) (f : Proc → Proc) : (s.updProc k f).marks = s.marks := rfl
@[simp] theorem Mach.updProc_carries (k : Nat) (f : Proc → Proc) : (s.updProc k f).carries = s.carries := rfl
@[simp] theorem Mach.updProc_copies (k : Nat) (f : Proc → Proc) : (s.updProc k f).copies = s.copies := rfl
@[simp] theorem Mach.updProc_reqs (k : Nat) (f : Proc → Proc) : (s.updProc k f).reqs = s.reqs := rfl
@[simp] theorem Mach.updProc_tileReqs (k : Nat) (f : Proc → Proc) : (s.updProc k f).tileReqs = s.tileReqs := rfl
@[simp] theorem Mach.updProc_nears (k : Nat) (f : Proc → Proc) : (s.updProc k f).nears = s.nears := rfl
@[simp] theorem Mach.updProc_seeds (k : Nat) (f : Proc → Proc) : (s.updProc k f).seeds = s.seeds := rfl
@[simp] theorem Mach.updProc_outbox (k : Nat) (f : Proc → Proc) : (s.updProc k f).outbox = s.outbox := rfl
@[simp] theorem Mach.updProc_hostUp (k : Nat) (f : Proc → Proc) : (s.updProc k f).hostUp = s.hostUp := rfl
@[simp] theorem Mach.updProc_fresh (k : Nat) (f : Proc → Proc) : (s.updProc k f).fresh = s.fresh := rfl
@[simp] theorem Mach.updProc_tick (k : Nat) (f : Proc → Proc) : (s.updProc k f).tick = s.tick := rfl

@[simp] theorem Mach.updNet_ctx (n : Nat) (f : Net → Net) : (s.updNet n f).ctx = s.ctx := rfl
@[simp] theorem Mach.updNet_cur (n : Nat) (f : Net → Net) : (s.updNet n f).cur = s.cur := rfl
@[simp] theorem Mach.updNet_procs (n : Nat) (f : Net → Net) : (s.updNet n f).procs = s.procs := rfl
@[simp] theorem Mach.updNet_nets (n : Nat) (f : Net → Net) : (s.updNet n f).nets = listSet s.nets n f := rfl
@[simp] theorem Mach.updNet_images (n : Nat) (f : Net → Net) : (s.updNet n f).images = s.images := rfl
@[simp] theorem Mach.updNet_tenants (n : Nat) (f : Net → Net) : (s.updNet n f).tenants = s.tenants := rfl
@[simp] theorem Mach.updNet_entries (n : Nat) (f : Net → Net) : (s.updNet n f).entries = s.entries := rfl
@[simp] theorem Mach.updNet_subs (n : Nat) (f : Net → Net) : (s.updNet n f).subs = s.subs := rfl
@[simp] theorem Mach.updNet_deps (n : Nat) (f : Net → Net) : (s.updNet n f).deps = s.deps := rfl
@[simp] theorem Mach.updNet_mem (n : Nat) (f : Net → Net) : (s.updNet n f).mem = s.mem := rfl
@[simp] theorem Mach.updNet_bad (n : Nat) (f : Net → Net) : (s.updNet n f).bad = s.bad := rfl
@[simp] theorem Mach.updNet_tiles (n : Nat) (f : Net → Net) : (s.updNet n f).tiles = s.tiles := rfl
@[simp] theorem Mach.updNet_servers (n : Nat) (f : Net → Net) : (s.updNet n f).servers = s.servers := rfl
@[simp] theorem Mach.updNet_resids (n : Nat) (f : Net → Net) : (s.updNet n f).resids = s.resids := rfl
@[simp] theorem Mach.updNet_gens (n : Nat) (f : Net → Net) : (s.updNet n f).gens = s.gens := rfl
@[simp] theorem Mach.updNet_marks (n : Nat) (f : Net → Net) : (s.updNet n f).marks = s.marks := rfl
@[simp] theorem Mach.updNet_carries (n : Nat) (f : Net → Net) : (s.updNet n f).carries = s.carries := rfl
@[simp] theorem Mach.updNet_copies (n : Nat) (f : Net → Net) : (s.updNet n f).copies = s.copies := rfl
@[simp] theorem Mach.updNet_reqs (n : Nat) (f : Net → Net) : (s.updNet n f).reqs = s.reqs := rfl
@[simp] theorem Mach.updNet_tileReqs (n : Nat) (f : Net → Net) : (s.updNet n f).tileReqs = s.tileReqs := rfl
@[simp] theorem Mach.updNet_nears (n : Nat) (f : Net → Net) : (s.updNet n f).nears = s.nears := rfl
@[simp] theorem Mach.updNet_seeds (n : Nat) (f : Net → Net) : (s.updNet n f).seeds = s.seeds := rfl
@[simp] theorem Mach.updNet_outbox (n : Nat) (f : Net → Net) : (s.updNet n f).outbox = s.outbox := rfl
@[simp] theorem Mach.updNet_hostUp (n : Nat) (f : Net → Net) : (s.updNet n f).hostUp = s.hostUp := rfl
@[simp] theorem Mach.updNet_fresh (n : Nat) (f : Net → Net) : (s.updNet n f).fresh = s.fresh := rfl
@[simp] theorem Mach.updNet_tick (n : Nat) (f : Net → Net) : (s.updNet n f).tick = s.tick := rfl

@[simp] theorem Mach.updTenant_ctx (n : Nat) (f : Tenant → Tenant) : (s.updTenant n f).ctx = s.ctx := rfl
@[simp] theorem Mach.updTenant_cur (n : Nat) (f : Tenant → Tenant) : (s.updTenant n f).cur = s.cur := rfl
@[simp] theorem Mach.updTenant_procs (n : Nat) (f : Tenant → Tenant) : (s.updTenant n f).procs = s.procs := rfl
@[simp] theorem Mach.updTenant_nets (n : Nat) (f : Tenant → Tenant) : (s.updTenant n f).nets = s.nets := rfl
@[simp] theorem Mach.updTenant_images (n : Nat) (f : Tenant → Tenant) : (s.updTenant n f).images = s.images := rfl
@[simp] theorem Mach.updTenant_tenants (n : Nat) (f : Tenant → Tenant) : (s.updTenant n f).tenants = s.tenants.map fun t => if t.id == n then f t else t := rfl
@[simp] theorem Mach.updTenant_entries (n : Nat) (f : Tenant → Tenant) : (s.updTenant n f).entries = s.entries := rfl
@[simp] theorem Mach.updTenant_subs (n : Nat) (f : Tenant → Tenant) : (s.updTenant n f).subs = s.subs := rfl
@[simp] theorem Mach.updTenant_deps (n : Nat) (f : Tenant → Tenant) : (s.updTenant n f).deps = s.deps := rfl
@[simp] theorem Mach.updTenant_mem (n : Nat) (f : Tenant → Tenant) : (s.updTenant n f).mem = s.mem := rfl
@[simp] theorem Mach.updTenant_bad (n : Nat) (f : Tenant → Tenant) : (s.updTenant n f).bad = s.bad := rfl
@[simp] theorem Mach.updTenant_tiles (n : Nat) (f : Tenant → Tenant) : (s.updTenant n f).tiles = s.tiles := rfl
@[simp] theorem Mach.updTenant_servers (n : Nat) (f : Tenant → Tenant) : (s.updTenant n f).servers = s.servers := rfl
@[simp] theorem Mach.updTenant_resids (n : Nat) (f : Tenant → Tenant) : (s.updTenant n f).resids = s.resids := rfl
@[simp] theorem Mach.updTenant_gens (n : Nat) (f : Tenant → Tenant) : (s.updTenant n f).gens = s.gens := rfl
@[simp] theorem Mach.updTenant_marks (n : Nat) (f : Tenant → Tenant) : (s.updTenant n f).marks = s.marks := rfl
@[simp] theorem Mach.updTenant_carries (n : Nat) (f : Tenant → Tenant) : (s.updTenant n f).carries = s.carries := rfl
@[simp] theorem Mach.updTenant_copies (n : Nat) (f : Tenant → Tenant) : (s.updTenant n f).copies = s.copies := rfl
@[simp] theorem Mach.updTenant_reqs (n : Nat) (f : Tenant → Tenant) : (s.updTenant n f).reqs = s.reqs := rfl
@[simp] theorem Mach.updTenant_tileReqs (n : Nat) (f : Tenant → Tenant) : (s.updTenant n f).tileReqs = s.tileReqs := rfl
@[simp] theorem Mach.updTenant_nears (n : Nat) (f : Tenant → Tenant) : (s.updTenant n f).nears = s.nears := rfl
@[simp] theorem Mach.updTenant_seeds (n : Nat) (f : Tenant → Tenant) : (s.updTenant n f).seeds = s.seeds := rfl
@[simp] theorem Mach.updTenant_outbox (n : Nat) (f : Tenant → Tenant) : (s.updTenant n f).outbox = s.outbox := rfl
@[simp] theorem Mach.updTenant_hostUp (n : Nat) (f : Tenant → Tenant) : (s.updTenant n f).hostUp = s.hostUp := rfl
@[simp] theorem Mach.updTenant_fresh (n : Nat) (f : Tenant → Tenant) : (s.updTenant n f).fresh = s.fresh := rfl
@[simp] theorem Mach.updTenant_tick (n : Nat) (f : Tenant → Tenant) : (s.updTenant n f).tick = s.tick := rfl

@[simp] theorem Mach.updTile_ctx (n : Nat) (f : Tile → Tile) : (s.updTile n f).ctx = s.ctx := rfl
@[simp] theorem Mach.updTile_cur (n : Nat) (f : Tile → Tile) : (s.updTile n f).cur = s.cur := rfl
@[simp] theorem Mach.updTile_procs (n : Nat) (f : Tile → Tile) : (s.updTile n f).procs = s.procs := rfl
@[simp] theorem Mach.updTile_nets (n : Nat) (f : Tile → Tile) : (s.updTile n f).nets = s.nets := rfl
@[simp] theorem Mach.updTile_images (n : Nat) (f : Tile → Tile) : (s.updTile n f).images = s.images := rfl
@[simp] theorem Mach.updTile_tenants (n : Nat) (f : Tile → Tile) : (s.updTile n f).tenants = s.tenants := rfl
@[simp] theorem Mach.updTile_entries (n : Nat) (f : Tile → Tile) : (s.updTile n f).entries = s.entries := rfl
@[simp] theorem Mach.updTile_subs (n : Nat) (f : Tile → Tile) : (s.updTile n f).subs = s.subs := rfl
@[simp] theorem Mach.updTile_deps (n : Nat) (f : Tile → Tile) : (s.updTile n f).deps = s.deps := rfl
@[simp] theorem Mach.updTile_mem (n : Nat) (f : Tile → Tile) : (s.updTile n f).mem = s.mem := rfl
@[simp] theorem Mach.updTile_bad (n : Nat) (f : Tile → Tile) : (s.updTile n f).bad = s.bad := rfl
@[simp] theorem Mach.updTile_servers (n : Nat) (f : Tile → Tile) : (s.updTile n f).servers = s.servers := rfl
@[simp] theorem Mach.updTile_resids (n : Nat) (f : Tile → Tile) : (s.updTile n f).resids = s.resids := rfl
@[simp] theorem Mach.updTile_gens (n : Nat) (f : Tile → Tile) : (s.updTile n f).gens = s.gens := rfl
@[simp] theorem Mach.updTile_marks (n : Nat) (f : Tile → Tile) : (s.updTile n f).marks = s.marks := rfl
@[simp] theorem Mach.updTile_carries (n : Nat) (f : Tile → Tile) : (s.updTile n f).carries = s.carries := rfl
@[simp] theorem Mach.updTile_copies (n : Nat) (f : Tile → Tile) : (s.updTile n f).copies = s.copies := rfl
@[simp] theorem Mach.updTile_reqs (n : Nat) (f : Tile → Tile) : (s.updTile n f).reqs = s.reqs := rfl
@[simp] theorem Mach.updTile_tileReqs (n : Nat) (f : Tile → Tile) : (s.updTile n f).tileReqs = s.tileReqs := rfl
@[simp] theorem Mach.updTile_nears (n : Nat) (f : Tile → Tile) : (s.updTile n f).nears = s.nears := rfl
@[simp] theorem Mach.updTile_seeds (n : Nat) (f : Tile → Tile) : (s.updTile n f).seeds = s.seeds := rfl
@[simp] theorem Mach.updTile_outbox (n : Nat) (f : Tile → Tile) : (s.updTile n f).outbox = s.outbox := rfl
@[simp] theorem Mach.updTile_hostUp (n : Nat) (f : Tile → Tile) : (s.updTile n f).hostUp = s.hostUp := rfl
@[simp] theorem Mach.updTile_fresh (n : Nat) (f : Tile → Tile) : (s.updTile n f).fresh = s.fresh := rfl
@[simp] theorem Mach.updTile_tick (n : Nat) (f : Tile → Tile) : (s.updTile n f).tick = s.tick := rfl

@[simp] theorem Mach.updServer_ctx (n : Nat) (f : Server → Server) : (s.updServer n f).ctx = s.ctx := rfl
@[simp] theorem Mach.updServer_cur (n : Nat) (f : Server → Server) : (s.updServer n f).cur = s.cur := rfl
@[simp] theorem Mach.updServer_procs (n : Nat) (f : Server → Server) : (s.updServer n f).procs = s.procs := rfl
@[simp] theorem Mach.updServer_nets (n : Nat) (f : Server → Server) : (s.updServer n f).nets = s.nets := rfl
@[simp] theorem Mach.updServer_images (n : Nat) (f : Server → Server) : (s.updServer n f).images = s.images := rfl
@[simp] theorem Mach.updServer_tenants (n : Nat) (f : Server → Server) : (s.updServer n f).tenants = s.tenants := rfl
@[simp] theorem Mach.updServer_entries (n : Nat) (f : Server → Server) : (s.updServer n f).entries = s.entries := rfl
@[simp] theorem Mach.updServer_subs (n : Nat) (f : Server → Server) : (s.updServer n f).subs = s.subs := rfl
@[simp] theorem Mach.updServer_deps (n : Nat) (f : Server → Server) : (s.updServer n f).deps = s.deps := rfl
@[simp] theorem Mach.updServer_mem (n : Nat) (f : Server → Server) : (s.updServer n f).mem = s.mem := rfl
@[simp] theorem Mach.updServer_bad (n : Nat) (f : Server → Server) : (s.updServer n f).bad = s.bad := rfl
@[simp] theorem Mach.updServer_tiles (n : Nat) (f : Server → Server) : (s.updServer n f).tiles = s.tiles := rfl
@[simp] theorem Mach.updServer_resids (n : Nat) (f : Server → Server) : (s.updServer n f).resids = s.resids := rfl
@[simp] theorem Mach.updServer_gens (n : Nat) (f : Server → Server) : (s.updServer n f).gens = s.gens := rfl
@[simp] theorem Mach.updServer_marks (n : Nat) (f : Server → Server) : (s.updServer n f).marks = s.marks := rfl
@[simp] theorem Mach.updServer_carries (n : Nat) (f : Server → Server) : (s.updServer n f).carries = s.carries := rfl
@[simp] theorem Mach.updServer_copies (n : Nat) (f : Server → Server) : (s.updServer n f).copies = s.copies := rfl
@[simp] theorem Mach.updServer_reqs (n : Nat) (f : Server → Server) : (s.updServer n f).reqs = s.reqs := rfl
@[simp] theorem Mach.updServer_tileReqs (n : Nat) (f : Server → Server) : (s.updServer n f).tileReqs = s.tileReqs := rfl
@[simp] theorem Mach.updServer_nears (n : Nat) (f : Server → Server) : (s.updServer n f).nears = s.nears := rfl
@[simp] theorem Mach.updServer_seeds (n : Nat) (f : Server → Server) : (s.updServer n f).seeds = s.seeds := rfl
@[simp] theorem Mach.updServer_outbox (n : Nat) (f : Server → Server) : (s.updServer n f).outbox = s.outbox := rfl
@[simp] theorem Mach.updServer_hostUp (n : Nat) (f : Server → Server) : (s.updServer n f).hostUp = s.hostUp := rfl
@[simp] theorem Mach.updServer_fresh (n : Nat) (f : Server → Server) : (s.updServer n f).fresh = s.fresh := rfl
@[simp] theorem Mach.updServer_tick (n : Nat) (f : Server → Server) : (s.updServer n f).tick = s.tick := rfl

@[simp] theorem Mach.countTile_ctx (t i n : Nat) : (s.countTile t i n).ctx = s.ctx := rfl
@[simp] theorem Mach.countTile_cur (t i n : Nat) : (s.countTile t i n).cur = s.cur := rfl
@[simp] theorem Mach.countTile_procs (t i n : Nat) : (s.countTile t i n).procs = s.procs := rfl
@[simp] theorem Mach.countTile_nets (t i n : Nat) : (s.countTile t i n).nets = s.nets := rfl
@[simp] theorem Mach.countTile_images (t i n : Nat) : (s.countTile t i n).images = s.images := rfl
@[simp] theorem Mach.countTile_tenants (t i n : Nat) : (s.countTile t i n).tenants = s.tenants := rfl
@[simp] theorem Mach.countTile_entries (t i n : Nat) : (s.countTile t i n).entries = s.entries := rfl
@[simp] theorem Mach.countTile_subs (t i n : Nat) : (s.countTile t i n).subs = s.subs := rfl
@[simp] theorem Mach.countTile_deps (t i n : Nat) : (s.countTile t i n).deps = s.deps := rfl
@[simp] theorem Mach.countTile_mem (t i n : Nat) : (s.countTile t i n).mem = s.mem := rfl
@[simp] theorem Mach.countTile_bad (t i n : Nat) : (s.countTile t i n).bad = s.bad := rfl
@[simp] theorem Mach.countTile_servers (t i n : Nat) : (s.countTile t i n).servers = s.servers := rfl
@[simp] theorem Mach.countTile_resids (t i n : Nat) : (s.countTile t i n).resids = s.resids := rfl
@[simp] theorem Mach.countTile_gens (t i n : Nat) : (s.countTile t i n).gens = s.gens := rfl
@[simp] theorem Mach.countTile_marks (t i n : Nat) : (s.countTile t i n).marks = s.marks := rfl
@[simp] theorem Mach.countTile_carries (t i n : Nat) : (s.countTile t i n).carries = s.carries := rfl
@[simp] theorem Mach.countTile_copies (t i n : Nat) : (s.countTile t i n).copies = s.copies := rfl
@[simp] theorem Mach.countTile_reqs (t i n : Nat) : (s.countTile t i n).reqs = s.reqs := rfl
@[simp] theorem Mach.countTile_tileReqs (t i n : Nat) : (s.countTile t i n).tileReqs = s.tileReqs := rfl
@[simp] theorem Mach.countTile_nears (t i n : Nat) : (s.countTile t i n).nears = s.nears := rfl
@[simp] theorem Mach.countTile_seeds (t i n : Nat) : (s.countTile t i n).seeds = s.seeds := rfl
@[simp] theorem Mach.countTile_outbox (t i n : Nat) : (s.countTile t i n).outbox = s.outbox := rfl
@[simp] theorem Mach.countTile_hostUp (t i n : Nat) : (s.countTile t i n).hostUp = s.hostUp := rfl
@[simp] theorem Mach.countTile_fresh (t i n : Nat) : (s.countTile t i n).fresh = s.fresh := rfl
@[simp] theorem Mach.countTile_tick (t i n : Nat) : (s.countTile t i n).tick = s.tick := rfl

@[simp] theorem Mach.countServer_ctx (k i n : Nat) : (s.countServer k i n).ctx = s.ctx := rfl
@[simp] theorem Mach.countServer_cur (k i n : Nat) : (s.countServer k i n).cur = s.cur := rfl
@[simp] theorem Mach.countServer_procs (k i n : Nat) : (s.countServer k i n).procs = s.procs := rfl
@[simp] theorem Mach.countServer_nets (k i n : Nat) : (s.countServer k i n).nets = s.nets := rfl
@[simp] theorem Mach.countServer_images (k i n : Nat) : (s.countServer k i n).images = s.images := rfl
@[simp] theorem Mach.countServer_tenants (k i n : Nat) : (s.countServer k i n).tenants = s.tenants := rfl
@[simp] theorem Mach.countServer_entries (k i n : Nat) : (s.countServer k i n).entries = s.entries := rfl
@[simp] theorem Mach.countServer_subs (k i n : Nat) : (s.countServer k i n).subs = s.subs := rfl
@[simp] theorem Mach.countServer_deps (k i n : Nat) : (s.countServer k i n).deps = s.deps := rfl
@[simp] theorem Mach.countServer_mem (k i n : Nat) : (s.countServer k i n).mem = s.mem := rfl
@[simp] theorem Mach.countServer_bad (k i n : Nat) : (s.countServer k i n).bad = s.bad := rfl
@[simp] theorem Mach.countServer_tiles (k i n : Nat) : (s.countServer k i n).tiles = s.tiles := rfl
@[simp] theorem Mach.countServer_resids (k i n : Nat) : (s.countServer k i n).resids = s.resids := rfl
@[simp] theorem Mach.countServer_gens (k i n : Nat) : (s.countServer k i n).gens = s.gens := rfl
@[simp] theorem Mach.countServer_marks (k i n : Nat) : (s.countServer k i n).marks = s.marks := rfl
@[simp] theorem Mach.countServer_carries (k i n : Nat) : (s.countServer k i n).carries = s.carries := rfl
@[simp] theorem Mach.countServer_copies (k i n : Nat) : (s.countServer k i n).copies = s.copies := rfl
@[simp] theorem Mach.countServer_reqs (k i n : Nat) : (s.countServer k i n).reqs = s.reqs := rfl
@[simp] theorem Mach.countServer_tileReqs (k i n : Nat) : (s.countServer k i n).tileReqs = s.tileReqs := rfl
@[simp] theorem Mach.countServer_nears (k i n : Nat) : (s.countServer k i n).nears = s.nears := rfl
@[simp] theorem Mach.countServer_seeds (k i n : Nat) : (s.countServer k i n).seeds = s.seeds := rfl
@[simp] theorem Mach.countServer_outbox (k i n : Nat) : (s.countServer k i n).outbox = s.outbox := rfl
@[simp] theorem Mach.countServer_hostUp (k i n : Nat) : (s.countServer k i n).hostUp = s.hostUp := rfl
@[simp] theorem Mach.countServer_fresh (k i n : Nat) : (s.countServer k i n).fresh = s.fresh := rfl
@[simp] theorem Mach.countServer_tick (k i n : Nat) : (s.countServer k i n).tick = s.tick := rfl

@[simp] theorem Mach.countDiag_cur (i n : Nat) : (s.countDiag i n).cur = s.cur := rfl
@[simp] theorem Mach.countDiag_procs (i n : Nat) : (s.countDiag i n).procs = s.procs := rfl
@[simp] theorem Mach.countDiag_nets (i n : Nat) : (s.countDiag i n).nets = s.nets := rfl
@[simp] theorem Mach.countDiag_images (i n : Nat) : (s.countDiag i n).images = s.images := rfl
@[simp] theorem Mach.countDiag_tenants (i n : Nat) : (s.countDiag i n).tenants = s.tenants := rfl
@[simp] theorem Mach.countDiag_entries (i n : Nat) : (s.countDiag i n).entries = s.entries := rfl
@[simp] theorem Mach.countDiag_subs (i n : Nat) : (s.countDiag i n).subs = s.subs := rfl
@[simp] theorem Mach.countDiag_deps (i n : Nat) : (s.countDiag i n).deps = s.deps := rfl
@[simp] theorem Mach.countDiag_mem (i n : Nat) : (s.countDiag i n).mem = s.mem := rfl
@[simp] theorem Mach.countDiag_bad (i n : Nat) : (s.countDiag i n).bad = s.bad := rfl
@[simp] theorem Mach.countDiag_tiles (i n : Nat) : (s.countDiag i n).tiles = s.tiles := rfl
@[simp] theorem Mach.countDiag_servers (i n : Nat) : (s.countDiag i n).servers = s.servers := rfl
@[simp] theorem Mach.countDiag_resids (i n : Nat) : (s.countDiag i n).resids = s.resids := rfl
@[simp] theorem Mach.countDiag_gens (i n : Nat) : (s.countDiag i n).gens = s.gens := rfl
@[simp] theorem Mach.countDiag_marks (i n : Nat) : (s.countDiag i n).marks = s.marks := rfl
@[simp] theorem Mach.countDiag_carries (i n : Nat) : (s.countDiag i n).carries = s.carries := rfl
@[simp] theorem Mach.countDiag_copies (i n : Nat) : (s.countDiag i n).copies = s.copies := rfl
@[simp] theorem Mach.countDiag_reqs (i n : Nat) : (s.countDiag i n).reqs = s.reqs := rfl
@[simp] theorem Mach.countDiag_tileReqs (i n : Nat) : (s.countDiag i n).tileReqs = s.tileReqs := rfl
@[simp] theorem Mach.countDiag_nears (i n : Nat) : (s.countDiag i n).nears = s.nears := rfl
@[simp] theorem Mach.countDiag_seeds (i n : Nat) : (s.countDiag i n).seeds = s.seeds := rfl
@[simp] theorem Mach.countDiag_outbox (i n : Nat) : (s.countDiag i n).outbox = s.outbox := rfl
@[simp] theorem Mach.countDiag_hostUp (i n : Nat) : (s.countDiag i n).hostUp = s.hostUp := rfl
@[simp] theorem Mach.countDiag_fresh (i n : Nat) : (s.countDiag i n).fresh = s.fresh := rfl
@[simp] theorem Mach.countDiag_tick (i n : Nat) : (s.countDiag i n).tick = s.tick := rfl

@[simp] theorem Mach.tock_ctx : (s.tock).ctx = s.ctx := rfl
@[simp] theorem Mach.tock_cur : (s.tock).cur = s.cur := rfl
@[simp] theorem Mach.tock_procs : (s.tock).procs = s.procs := rfl
@[simp] theorem Mach.tock_nets : (s.tock).nets = s.nets := rfl
@[simp] theorem Mach.tock_images : (s.tock).images = s.images := rfl
@[simp] theorem Mach.tock_tenants : (s.tock).tenants = s.tenants := rfl
@[simp] theorem Mach.tock_entries : (s.tock).entries = s.entries := rfl
@[simp] theorem Mach.tock_subs : (s.tock).subs = s.subs := rfl
@[simp] theorem Mach.tock_deps : (s.tock).deps = s.deps := rfl
@[simp] theorem Mach.tock_mem : (s.tock).mem = s.mem := rfl
@[simp] theorem Mach.tock_bad : (s.tock).bad = s.bad := rfl
@[simp] theorem Mach.tock_tiles : (s.tock).tiles = s.tiles := rfl
@[simp] theorem Mach.tock_servers : (s.tock).servers = s.servers := rfl
@[simp] theorem Mach.tock_resids : (s.tock).resids = s.resids := rfl
@[simp] theorem Mach.tock_gens : (s.tock).gens = s.gens := rfl
@[simp] theorem Mach.tock_marks : (s.tock).marks = s.marks := rfl
@[simp] theorem Mach.tock_carries : (s.tock).carries = s.carries := rfl
@[simp] theorem Mach.tock_copies : (s.tock).copies = s.copies := rfl
@[simp] theorem Mach.tock_reqs : (s.tock).reqs = s.reqs := rfl
@[simp] theorem Mach.tock_tileReqs : (s.tock).tileReqs = s.tileReqs := rfl
@[simp] theorem Mach.tock_nears : (s.tock).nears = s.nears := rfl
@[simp] theorem Mach.tock_seeds : (s.tock).seeds = s.seeds := rfl
@[simp] theorem Mach.tock_outbox : (s.tock).outbox = s.outbox := rfl
@[simp] theorem Mach.tock_hostUp : (s.tock).hostUp = s.hostUp := rfl
@[simp] theorem Mach.tock_fresh : (s.tock).fresh = s.fresh := rfl
@[simp] theorem Mach.tock_tick : (s.tock).tick = s.tick + 1 := rfl

@[simp] theorem Mach.refetch_ctx : (s.refetch).ctx = { s.ctx with fbuf := s.fetchSpan s.here s.ctx.pc.toNat 0 16 } := rfl
@[simp] theorem Mach.refetch_cur : (s.refetch).cur = s.cur := rfl
@[simp] theorem Mach.refetch_procs : (s.refetch).procs = s.procs := rfl
@[simp] theorem Mach.refetch_nets : (s.refetch).nets = s.nets := rfl
@[simp] theorem Mach.refetch_images : (s.refetch).images = s.images := rfl
@[simp] theorem Mach.refetch_tenants : (s.refetch).tenants = s.tenants := rfl
@[simp] theorem Mach.refetch_entries : (s.refetch).entries = s.entries := rfl
@[simp] theorem Mach.refetch_subs : (s.refetch).subs = s.subs := rfl
@[simp] theorem Mach.refetch_deps : (s.refetch).deps = s.deps := rfl
@[simp] theorem Mach.refetch_mem : (s.refetch).mem = s.mem := rfl
@[simp] theorem Mach.refetch_bad : (s.refetch).bad = s.bad := rfl
@[simp] theorem Mach.refetch_tiles : (s.refetch).tiles = s.tiles := rfl
@[simp] theorem Mach.refetch_servers : (s.refetch).servers = s.servers := rfl
@[simp] theorem Mach.refetch_resids : (s.refetch).resids = s.resids := rfl
@[simp] theorem Mach.refetch_gens : (s.refetch).gens = s.gens := rfl
@[simp] theorem Mach.refetch_marks : (s.refetch).marks = s.marks := rfl
@[simp] theorem Mach.refetch_carries : (s.refetch).carries = s.carries := rfl
@[simp] theorem Mach.refetch_copies : (s.refetch).copies = s.copies := rfl
@[simp] theorem Mach.refetch_reqs : (s.refetch).reqs = s.reqs := rfl
@[simp] theorem Mach.refetch_tileReqs : (s.refetch).tileReqs = s.tileReqs := rfl
@[simp] theorem Mach.refetch_nears : (s.refetch).nears = s.nears := rfl
@[simp] theorem Mach.refetch_seeds : (s.refetch).seeds = s.seeds := rfl
@[simp] theorem Mach.refetch_outbox : (s.refetch).outbox = s.outbox := rfl
@[simp] theorem Mach.refetch_hostUp : (s.refetch).hostUp = s.hostUp := rfl
@[simp] theorem Mach.refetch_fresh : (s.refetch).fresh = s.fresh := rfl
@[simp] theorem Mach.refetch_tick : (s.refetch).tick = s.tick := rfl

@[simp] theorem Mach.slideFetch_ctx (n : Nat) : (s.slideFetch n).ctx = { s.ctx with fbuf := s.ctx.fbuf.drop n ++ s.fetchSpan s.here s.ctx.pc.toNat (s.ctx.fbuf.drop n).length 16 } := rfl
@[simp] theorem Mach.slideFetch_cur (n : Nat) : (s.slideFetch n).cur = s.cur := rfl
@[simp] theorem Mach.slideFetch_procs (n : Nat) : (s.slideFetch n).procs = s.procs := rfl
@[simp] theorem Mach.slideFetch_nets (n : Nat) : (s.slideFetch n).nets = s.nets := rfl
@[simp] theorem Mach.slideFetch_images (n : Nat) : (s.slideFetch n).images = s.images := rfl
@[simp] theorem Mach.slideFetch_tenants (n : Nat) : (s.slideFetch n).tenants = s.tenants := rfl
@[simp] theorem Mach.slideFetch_entries (n : Nat) : (s.slideFetch n).entries = s.entries := rfl
@[simp] theorem Mach.slideFetch_subs (n : Nat) : (s.slideFetch n).subs = s.subs := rfl
@[simp] theorem Mach.slideFetch_deps (n : Nat) : (s.slideFetch n).deps = s.deps := rfl
@[simp] theorem Mach.slideFetch_mem (n : Nat) : (s.slideFetch n).mem = s.mem := rfl
@[simp] theorem Mach.slideFetch_bad (n : Nat) : (s.slideFetch n).bad = s.bad := rfl
@[simp] theorem Mach.slideFetch_tiles (n : Nat) : (s.slideFetch n).tiles = s.tiles := rfl
@[simp] theorem Mach.slideFetch_servers (n : Nat) : (s.slideFetch n).servers = s.servers := rfl
@[simp] theorem Mach.slideFetch_resids (n : Nat) : (s.slideFetch n).resids = s.resids := rfl
@[simp] theorem Mach.slideFetch_gens (n : Nat) : (s.slideFetch n).gens = s.gens := rfl
@[simp] theorem Mach.slideFetch_marks (n : Nat) : (s.slideFetch n).marks = s.marks := rfl
@[simp] theorem Mach.slideFetch_carries (n : Nat) : (s.slideFetch n).carries = s.carries := rfl
@[simp] theorem Mach.slideFetch_copies (n : Nat) : (s.slideFetch n).copies = s.copies := rfl
@[simp] theorem Mach.slideFetch_reqs (n : Nat) : (s.slideFetch n).reqs = s.reqs := rfl
@[simp] theorem Mach.slideFetch_tileReqs (n : Nat) : (s.slideFetch n).tileReqs = s.tileReqs := rfl
@[simp] theorem Mach.slideFetch_nears (n : Nat) : (s.slideFetch n).nears = s.nears := rfl
@[simp] theorem Mach.slideFetch_seeds (n : Nat) : (s.slideFetch n).seeds = s.seeds := rfl
@[simp] theorem Mach.slideFetch_outbox (n : Nat) : (s.slideFetch n).outbox = s.outbox := rfl
@[simp] theorem Mach.slideFetch_hostUp (n : Nat) : (s.slideFetch n).hostUp = s.hostUp := rfl
@[simp] theorem Mach.slideFetch_fresh (n : Nat) : (s.slideFetch n).fresh = s.fresh := rfl
@[simp] theorem Mach.slideFetch_tick (n : Nat) : (s.slideFetch n).tick = s.tick := rfl

/-! Poison and writes to memory. -/

@[simp] theorem Mach.cleanse_ctx (k n : Nat) : (s.cleanse k n).ctx = s.ctx := by unfold Mach.cleanse; split <;> rfl
@[simp] theorem Mach.cleanse_cur (k n : Nat) : (s.cleanse k n).cur = s.cur := by unfold Mach.cleanse; split <;> rfl
@[simp] theorem Mach.cleanse_procs (k n : Nat) : (s.cleanse k n).procs = s.procs := by unfold Mach.cleanse; split <;> rfl
@[simp] theorem Mach.cleanse_nets (k n : Nat) : (s.cleanse k n).nets = s.nets := by unfold Mach.cleanse; split <;> rfl
@[simp] theorem Mach.cleanse_images (k n : Nat) : (s.cleanse k n).images = s.images := by unfold Mach.cleanse; split <;> rfl
@[simp] theorem Mach.cleanse_tenants (k n : Nat) : (s.cleanse k n).tenants = s.tenants := by unfold Mach.cleanse; split <;> rfl
@[simp] theorem Mach.cleanse_entries (k n : Nat) : (s.cleanse k n).entries = s.entries := by unfold Mach.cleanse; split <;> rfl
@[simp] theorem Mach.cleanse_subs (k n : Nat) : (s.cleanse k n).subs = s.subs := by unfold Mach.cleanse; split <;> rfl
@[simp] theorem Mach.cleanse_deps (k n : Nat) : (s.cleanse k n).deps = s.deps := by unfold Mach.cleanse; split <;> rfl
@[simp] theorem Mach.cleanse_mem (k n : Nat) : (s.cleanse k n).mem = s.mem := by unfold Mach.cleanse; split <;> rfl
@[simp] theorem Mach.cleanse_tiles (k n : Nat) : (s.cleanse k n).tiles = s.tiles := by unfold Mach.cleanse; split <;> rfl
@[simp] theorem Mach.cleanse_servers (k n : Nat) : (s.cleanse k n).servers = s.servers := by unfold Mach.cleanse; split <;> rfl
@[simp] theorem Mach.cleanse_resids (k n : Nat) : (s.cleanse k n).resids = s.resids := by unfold Mach.cleanse; split <;> rfl
@[simp] theorem Mach.cleanse_gens (k n : Nat) : (s.cleanse k n).gens = s.gens := by unfold Mach.cleanse; split <;> rfl
@[simp] theorem Mach.cleanse_marks (k n : Nat) : (s.cleanse k n).marks = s.marks := by unfold Mach.cleanse; split <;> rfl
@[simp] theorem Mach.cleanse_carries (k n : Nat) : (s.cleanse k n).carries = s.carries := by unfold Mach.cleanse; split <;> rfl
@[simp] theorem Mach.cleanse_copies (k n : Nat) : (s.cleanse k n).copies = s.copies := by unfold Mach.cleanse; split <;> rfl
@[simp] theorem Mach.cleanse_reqs (k n : Nat) : (s.cleanse k n).reqs = s.reqs := by unfold Mach.cleanse; split <;> rfl
@[simp] theorem Mach.cleanse_tileReqs (k n : Nat) : (s.cleanse k n).tileReqs = s.tileReqs := by unfold Mach.cleanse; split <;> rfl
@[simp] theorem Mach.cleanse_nears (k n : Nat) : (s.cleanse k n).nears = s.nears := by unfold Mach.cleanse; split <;> rfl
@[simp] theorem Mach.cleanse_seeds (k n : Nat) : (s.cleanse k n).seeds = s.seeds := by unfold Mach.cleanse; split <;> rfl
@[simp] theorem Mach.cleanse_outbox (k n : Nat) : (s.cleanse k n).outbox = s.outbox := by unfold Mach.cleanse; split <;> rfl
@[simp] theorem Mach.cleanse_hostUp (k n : Nat) : (s.cleanse k n).hostUp = s.hostUp := by unfold Mach.cleanse; split <;> rfl
@[simp] theorem Mach.cleanse_fresh (k n : Nat) : (s.cleanse k n).fresh = s.fresh := by unfold Mach.cleanse; split <;> rfl
@[simp] theorem Mach.cleanse_tick (k n : Nat) : (s.cleanse k n).tick = s.tick := by unfold Mach.cleanse; split <;> rfl

@[simp] theorem Mach.poison_ctx (k : Nat) : (s.poison k).ctx = s.ctx := by unfold Mach.poison; split <;> rfl
@[simp] theorem Mach.poison_cur (k : Nat) : (s.poison k).cur = s.cur := by unfold Mach.poison; split <;> rfl
@[simp] theorem Mach.poison_procs (k : Nat) : (s.poison k).procs = s.procs := by unfold Mach.poison; split <;> rfl
@[simp] theorem Mach.poison_nets (k : Nat) : (s.poison k).nets = s.nets := by unfold Mach.poison; split <;> rfl
@[simp] theorem Mach.poison_images (k : Nat) : (s.poison k).images = s.images := by unfold Mach.poison; split <;> rfl
@[simp] theorem Mach.poison_tenants (k : Nat) : (s.poison k).tenants = s.tenants := by unfold Mach.poison; split <;> rfl
@[simp] theorem Mach.poison_entries (k : Nat) : (s.poison k).entries = s.entries := by unfold Mach.poison; split <;> rfl
@[simp] theorem Mach.poison_subs (k : Nat) : (s.poison k).subs = s.subs := by unfold Mach.poison; split <;> rfl
@[simp] theorem Mach.poison_deps (k : Nat) : (s.poison k).deps = s.deps := by unfold Mach.poison; split <;> rfl
@[simp] theorem Mach.poison_mem (k : Nat) : (s.poison k).mem = s.mem := by unfold Mach.poison; split <;> rfl
@[simp] theorem Mach.poison_tiles (k : Nat) : (s.poison k).tiles = s.tiles := by unfold Mach.poison; split <;> rfl
@[simp] theorem Mach.poison_servers (k : Nat) : (s.poison k).servers = s.servers := by unfold Mach.poison; split <;> rfl
@[simp] theorem Mach.poison_resids (k : Nat) : (s.poison k).resids = s.resids := by unfold Mach.poison; split <;> rfl
@[simp] theorem Mach.poison_gens (k : Nat) : (s.poison k).gens = s.gens := by unfold Mach.poison; split <;> rfl
@[simp] theorem Mach.poison_marks (k : Nat) : (s.poison k).marks = s.marks := by unfold Mach.poison; split <;> rfl
@[simp] theorem Mach.poison_carries (k : Nat) : (s.poison k).carries = s.carries := by unfold Mach.poison; split <;> rfl
@[simp] theorem Mach.poison_copies (k : Nat) : (s.poison k).copies = s.copies := by unfold Mach.poison; split <;> rfl
@[simp] theorem Mach.poison_reqs (k : Nat) : (s.poison k).reqs = s.reqs := by unfold Mach.poison; split <;> rfl
@[simp] theorem Mach.poison_tileReqs (k : Nat) : (s.poison k).tileReqs = s.tileReqs := by unfold Mach.poison; split <;> rfl
@[simp] theorem Mach.poison_nears (k : Nat) : (s.poison k).nears = s.nears := by unfold Mach.poison; split <;> rfl
@[simp] theorem Mach.poison_seeds (k : Nat) : (s.poison k).seeds = s.seeds := by unfold Mach.poison; split <;> rfl
@[simp] theorem Mach.poison_outbox (k : Nat) : (s.poison k).outbox = s.outbox := by unfold Mach.poison; split <;> rfl
@[simp] theorem Mach.poison_hostUp (k : Nat) : (s.poison k).hostUp = s.hostUp := by unfold Mach.poison; split <;> rfl
@[simp] theorem Mach.poison_fresh (k : Nat) : (s.poison k).fresh = s.fresh := by unfold Mach.poison; split <;> rfl
@[simp] theorem Mach.poison_tick (k : Nat) : (s.poison k).tick = s.tick := by unfold Mach.poison; split <;> rfl

@[simp] theorem Mach.put_ctx (k : Nat) (bs : List Byte) : (s.put k bs).ctx = s.ctx := by simp [Mach.put]
@[simp] theorem Mach.put_cur (k : Nat) (bs : List Byte) : (s.put k bs).cur = s.cur := by simp [Mach.put]
@[simp] theorem Mach.put_procs (k : Nat) (bs : List Byte) : (s.put k bs).procs = s.procs := by simp [Mach.put]
@[simp] theorem Mach.put_nets (k : Nat) (bs : List Byte) : (s.put k bs).nets = s.nets := by simp [Mach.put]
@[simp] theorem Mach.put_images (k : Nat) (bs : List Byte) : (s.put k bs).images = s.images := by simp [Mach.put]
@[simp] theorem Mach.put_tenants (k : Nat) (bs : List Byte) : (s.put k bs).tenants = s.tenants := by simp [Mach.put]
@[simp] theorem Mach.put_entries (k : Nat) (bs : List Byte) : (s.put k bs).entries = s.entries := by simp [Mach.put]
@[simp] theorem Mach.put_subs (k : Nat) (bs : List Byte) : (s.put k bs).subs = s.subs := by simp [Mach.put]
@[simp] theorem Mach.put_deps (k : Nat) (bs : List Byte) : (s.put k bs).deps = s.deps := by simp [Mach.put]
@[simp] theorem Mach.put_mem (k : Nat) (bs : List Byte) : (s.put k bs).mem = Mem.write s.mem k bs := rfl
@[simp] theorem Mach.put_tiles (k : Nat) (bs : List Byte) : (s.put k bs).tiles = s.tiles := by simp [Mach.put]
@[simp] theorem Mach.put_servers (k : Nat) (bs : List Byte) : (s.put k bs).servers = s.servers := by simp [Mach.put]
@[simp] theorem Mach.put_resids (k : Nat) (bs : List Byte) : (s.put k bs).resids = s.resids := by simp [Mach.put]
@[simp] theorem Mach.put_gens (k : Nat) (bs : List Byte) : (s.put k bs).gens = s.gens := by simp [Mach.put]
@[simp] theorem Mach.put_marks (k : Nat) (bs : List Byte) : (s.put k bs).marks = s.marks := by simp [Mach.put]
@[simp] theorem Mach.put_carries (k : Nat) (bs : List Byte) : (s.put k bs).carries = s.carries := by simp [Mach.put]
@[simp] theorem Mach.put_copies (k : Nat) (bs : List Byte) : (s.put k bs).copies = s.copies := by simp [Mach.put]
@[simp] theorem Mach.put_reqs (k : Nat) (bs : List Byte) : (s.put k bs).reqs = s.reqs := by simp [Mach.put]
@[simp] theorem Mach.put_tileReqs (k : Nat) (bs : List Byte) : (s.put k bs).tileReqs = s.tileReqs := by simp [Mach.put]
@[simp] theorem Mach.put_nears (k : Nat) (bs : List Byte) : (s.put k bs).nears = s.nears := by simp [Mach.put]
@[simp] theorem Mach.put_seeds (k : Nat) (bs : List Byte) : (s.put k bs).seeds = s.seeds := by simp [Mach.put]
@[simp] theorem Mach.put_outbox (k : Nat) (bs : List Byte) : (s.put k bs).outbox = s.outbox := by simp [Mach.put]
@[simp] theorem Mach.put_hostUp (k : Nat) (bs : List Byte) : (s.put k bs).hostUp = s.hostUp := by simp [Mach.put]
@[simp] theorem Mach.put_fresh (k : Nat) (bs : List Byte) : (s.put k bs).fresh = s.fresh := by simp [Mach.put]
@[simp] theorem Mach.put_tick (k : Nat) (bs : List Byte) : (s.put k bs).tick = s.tick := by simp [Mach.put]

end Sys2Proof.Machine
end

