-- ==== Sys2Proof/Laws/Ops.lean ====
section
/-! SUPPORT. What the shared operations can do, said once: the end of a chain, a trap, a wait, and the readings of
registers after they are written. -/

namespace Sys2Proof.Machine

/-! Registers. -/

@[simp] theorem Ctx.gr_zero (c : Ctx) : c.gr 0 = 0 := rfl
@[simp] theorem Mach.g_zero (s : Mach) : s.g 0 = 0 := rfl

theorem Ctx.gr_setG (c : Ctx) (n : Nat) (w : Word) (k : Nat) (h : n < 32) :
    (c.setG n w).gr k = if k ≠ 0 ∧ k = n then w else c.gr k := by
  unfold Ctx.gr Ctx.setG
  by_cases hk : k = 0
  · simp [hk]
  · by_cases hn : n = 0
    · simp [hn, hk]
    · by_cases e : k = n
      · subst e; simp [hk, h]
      · simp only [if_neg hk, if_neg hn]
        rw [if_neg (by simp [e])]
        simp [Vector.getElem?_setIfInBounds_ne (Ne.symm e)]

theorem Mach.g_setG (s : Mach) (n : Nat) (w : Word) (k : Nat) (h : n < 32) :
    (s.setG n w).g k = if k ≠ 0 ∧ k = n then w else s.g k := Ctx.gr_setG s.ctx n w k h

@[simp] theorem Ctx.pr_zero (c : Ctx) : c.pr 0 = BitVec.allOnes 1024 := rfl

theorem Ctx.pr_setP (c : Ctx) (n : Nat) (w : PReg) (k : Nat) (h : n < 8) :
    (c.setP n w).pr k = if k ≠ 0 ∧ k = n then w else c.pr k := by
  unfold Ctx.pr Ctx.setP
  by_cases hk : k = 0
  · simp [hk]
  · by_cases hn : n = 0
    · simp [hn, hk]
    · by_cases e : k = n
      · subst e; simp [hk, h]
      · simp only [if_neg hk, if_neg hn]
        rw [if_neg (by simp [e])]
        simp [Vector.getElem?_setIfInBounds_ne (Ne.symm e)]

@[simp] theorem Ctx.count_gr (c : Ctx) (k n : Nat) : (c.count k).gr n = c.gr n := rfl
@[simp] theorem Ctx.count_pr (c : Ctx) (k n : Nat) : (c.count k).pr n = c.pr n := rfl

/-! What a retirement leaves: the counters of the context, the state of its process and the activity of its network. -/

@[simp] theorem Mach.running_ctx (s : Mach) : s.running.ctx = s.ctx := by unfold Mach.running; split <;> rfl
@[simp] theorem Mach.stirRetire_ctx (s : Mach) : s.stirRetire.ctx = s.ctx := by unfold Mach.stirRetire; split <;> rfl
@[simp] theorem Mach.counted_ctx (s : Mach) : s.counted.ctx = s.ctx.count (Config.chainCycles s.tick) := by simp [Mach.counted]

/-- All that `counted` changes: the context's counters, `procs`, `nets` and the tick. -/
theorem Mach.counted_frame (s : Mach) : s.counted =
    { s with ctx := s.ctx.count (Config.chainCycles s.tick), tick := s.tick + 1, procs := s.counted.procs, nets := s.counted.nets } := by
  unfold Mach.counted Mach.stirRetire Mach.running
  cases s.cur <;> (simp only []; split <;> rfl)

theorem Mach.retire_frame (s : Mach) (len : Nat) : s.retire len =
    { s with ctx := (s.retire len).ctx, tick := s.tick + 1, procs := (s.retire len).procs, nets := (s.retire len).nets } := by
  unfold Mach.retire; dsimp only; rw [Mach.counted_frame s]; rfl

theorem Mach.jump_frame (s : Mach) (t : Nat) : s.jump t =
    { s with ctx := (s.jump t).ctx, tick := s.tick + 1, procs := (s.jump t).procs, nets := (s.jump t).nets } := by
  unfold Mach.jump; dsimp only; rw [Mach.counted_frame s]; rfl

theorem Mach.retire_ctx (s : Mach) (len : Nat) : (s.retire len).ctx =
    { s.ctx.count (Config.chainCycles s.tick) with
      pc := s.ctx.pc + BitVec.ofNat 24 (2 * len), fbuf := (s.retire len).ctx.fbuf } := by
  unfold Mach.retire; simp [Mach.counted_ctx]

theorem Mach.jump_ctx (s : Mach) (t : Nat) : (s.jump t).ctx =
    { s.ctx.count (Config.chainCycles s.tick) with
      pc := (s.ctx.goto t).pc, far := (s.ctx.goto t).far, fbuf := (s.jump t).ctx.fbuf } := by
  unfold Mach.jump; simp [Mach.counted_ctx, Ctx.goto]

@[simp] theorem Mach.retire_mem (s : Mach) (len : Nat) : (s.retire len).mem = s.mem := by rw [Mach.retire_frame]
@[simp] theorem Mach.jump_mem (s : Mach) (t : Nat) : (s.jump t).mem = s.mem := by rw [Mach.jump_frame]
@[simp] theorem Mach.retire_bad (s : Mach) (len : Nat) : (s.retire len).bad = s.bad := by rw [Mach.retire_frame]
@[simp] theorem Mach.jump_bad (s : Mach) (t : Nat) : (s.jump t).bad = s.bad := by rw [Mach.jump_frame]
@[simp] theorem Mach.retire_cur (s : Mach) (len : Nat) : (s.retire len).cur = s.cur := by rw [Mach.retire_frame]
@[simp] theorem Mach.jump_cur (s : Mach) (t : Nat) : (s.jump t).cur = s.cur := by rw [Mach.jump_frame]

@[simp] theorem Mach.retire_retired (s : Mach) (len : Nat) : (s.retire len).ctx.retired = s.ctx.retired + 1 := by
  rw [Mach.retire_ctx]; rfl
@[simp] theorem Mach.jump_retired (s : Mach) (t : Nat) : (s.jump t).ctx.retired = s.ctx.retired + 1 := by
  rw [Mach.jump_ctx]; rfl
@[simp] theorem Mach.retire_pc (s : Mach) (len : Nat) : (s.retire len).ctx.pc = s.ctx.pc + BitVec.ofNat 24 (2 * len) := by
  rw [Mach.retire_ctx]
@[simp] theorem Mach.jump_pc (s : Mach) (t : Nat) : (s.jump t).ctx.pc = (s.ctx.goto t).pc := by rw [Mach.jump_ctx]
@[simp] theorem Ctx.goto_pc (c : Ctx) (t : Nat) : (c.goto t).pc = BitVec.ofNat 24 t := rfl
@[simp] theorem Ctx.goto_far (c : Ctx) (t : Nat) : (c.goto t).far = if t < 2 ^ 24 then none else some (BitVec.ofNat 64 t) := rfl
@[simp] theorem Ctx.goto_g (c : Ctx) (t : Nat) : (c.goto t).g = c.g := rfl
@[simp] theorem Mach.jump_far (s : Mach) (t : Nat) : (s.jump t).ctx.far = (s.ctx.goto t).far := by rw [Mach.jump_ctx]
@[simp] theorem Mach.retire_far (s : Mach) (len : Nat) : (s.retire len).ctx.far = s.ctx.far := by rw [Mach.retire_ctx]; rfl
@[simp] theorem Mach.retire_g (s : Mach) (len n : Nat) : (s.retire len).g n = s.g n := by
  unfold Mach.g; rw [Mach.retire_ctx]; rfl
@[simp] theorem Mach.jump_g (s : Mach) (t n : Nat) : (s.jump t).g n = s.g n := by
  unfold Mach.g; rw [Mach.jump_ctx]; rfl

@[simp] theorem Done.finish_mem (d : Done) (len : Nat) : (d.finish len).mem = d.m.mem := by
  unfold Done.finish; split
  · simp
  · split <;> simp

@[simp] theorem Done.finish_retired (d : Done) (len : Nat) : (d.finish len).ctx.retired = d.m.ctx.retired + 1 := by
  unfold Done.finish; split
  · simp
  · split <;> simp

@[simp] theorem Done.finish_g (d : Done) (len n : Nat) : (d.finish len).g n = d.m.g n := by
  unfold Done.finish; split
  · simp
  · split <;> simp

theorem Mach.retire_ctx_self (s : Mach) (len : Nat) : (s.retire len).ctx =
    { s.ctx.count (Config.chainCycles s.tick) with
      pc := (s.retire len).ctx.pc, far := (s.retire len).ctx.far, fbuf := (s.retire len).ctx.fbuf } := by
  rw [Mach.retire_pc, Mach.retire_far]; exact Mach.retire_ctx s len

theorem Mach.jump_ctx_self (s : Mach) (t : Nat) : (s.jump t).ctx =
    { s.ctx.count (Config.chainCycles s.tick) with
      pc := (s.jump t).ctx.pc, far := (s.jump t).ctx.far, fbuf := (s.jump t).ctx.fbuf } := by
  rw [Mach.jump_pc, Mach.jump_far]; exact Mach.jump_ctx s t

/-- All that the end of a chain changes besides the chain's own effect. -/
theorem Done.finish_frame (d : Done) (len : Nat) : d.finish len =
    { d.m with
      ctx := { d.m.ctx.count (Config.chainCycles d.m.tick) with
        pc := (d.finish len).ctx.pc, far := (d.finish len).ctx.far, fbuf := (d.finish len).ctx.fbuf }
      tick := d.m.tick + 1, procs := (d.finish len).procs, nets := (d.finish len).nets } := by
  unfold Done.finish
  split
  · conv => lhs; rw [Mach.jump_frame, Mach.jump_ctx_self]
  · split
    · conv => lhs; rw [Mach.jump_frame, Mach.jump_ctx_self]
    · conv => lhs; rw [Mach.retire_frame, Mach.retire_ctx_self]

/-! A chain: it retires, traps, waits or is refused. -/

theorem chain_ok {len : Nat} {s : State} {f : Mach → Try Done} {d : Done} (h : f s.toMach = .ok d) :
    chain len s f = .next { s with toMach := d.finish len } := by simp [chain, h]

theorem chain_trap {len : Nat} {s : State} {f : Mach → Try Done} {t : Trap} (h : f s.toMach = .error (.trap t)) :
    chain len s f = .next { s with toMach := s.toMach.takeTrap len t } := by simp [chain, h]

theorem chain_wait {len : Nat} {s : State} {f : Mach → Try Done} {w : Wait} {m : Mach} (h : f s.toMach = .error (.wait w m)) :
    chain len s f = .next { s with toMach := m.block w } := by simp [chain, h]

/-- A next state of a chain: what it can be, said once. -/
theorem chain_next {len : Nat} {s t : State} {f : Mach → Try Done} (h : chain len s f = .next t) :
    (∃ d, f s.toMach = .ok d ∧ t = { s with toMach := d.finish len }) ∨
    (∃ x, f s.toMach = .error (.trap x) ∧ t = { s with toMach := s.toMach.takeTrap len x }) ∨
    (∃ x m, f s.toMach = .error (.trapIn x m) ∧ t = { s with toMach := m.takeTrap len x }) ∨
    (∃ w m, f s.toMach = .error (.wait w m) ∧ t = { s with toMach := m.block w }) := by
  unfold chain at h
  revert h
  rcases f s.toMach with (x | ⟨x, m⟩ | ⟨w, m⟩) | d <;> rintro ⟨⟩ <;> simp [exists_and_left, and_assoc]

theorem chain_port {len : Nat} {s t : State} {f : Mach → Try Done} (h : chain len s f = .next t) :
    t.port = s.port ∧ t.turns = s.turns := by
  rcases chain_next h with ⟨_, _, rfl⟩ | ⟨_, _, rfl⟩ | ⟨_, _, _, rfl⟩ | ⟨_, _, _, rfl⟩ <;> exact ⟨rfl, rfl⟩

theorem plain_eq (len : Nat) (s : State) (f : Mach → Mach) :
    plain len s f = .next { s with toMach := (f s.toMach).retire len } := rfl

/-- A chain never stops the machine with a fault. -/
theorem chain_no_fault (len : Nat) (s : State) (f : Mach → Try Done) (r : Fault) : chain len s f ≠ .fault r := by
  unfold chain; split <;> simp

/-! Traps and waits. -/

/-- R29, R211: where a local trap saves what it saves. -/
theorem Mach.enterLocal_ctx (s : Mach) (len : Nat) (t : Trap) : (s.enterLocal len t).ctx =
    { s.ctx with
      tcause := BitVec.ofNat 8 t.cause, tval := t.value, tinfo := tinfoOf t len
      tpc := BitVec.ofNat 64 (s.trapPc len t), act := true
      pc := (s.ctx.goto (s.ctx.tvec.toNat / 2 * 2)).pc, far := (s.ctx.goto (s.ctx.tvec.toNat / 2 * 2)).far
      cycle := (s.enterLocal len t).ctx.cycle, issued := {}, fbuf := (s.enterLocal len t).ctx.fbuf } := by
  unfold Mach.enterLocal; simp [Ctx.spend, Ctx.goto]

@[simp] theorem Mach.running_mem (s : Mach) : s.running.mem = s.mem := by unfold Mach.running; split <;> rfl
@[simp] theorem Mach.deliver_mem (s : Mach) (n k idx : Nat) (rcd : List Word) : (s.deliver n k idx rcd).mem = s.mem := rfl
@[simp] theorem Mach.deliver_ctx (s : Mach) (n k idx : Nat) (rcd : List Word) : (s.deliver n k idx rcd).ctx = s.ctx := rfl

@[simp] theorem Mach.enterLocal_mem (s : Mach) (len : Nat) (t : Trap) : (s.enterLocal len t).mem = s.mem := by
  unfold Mach.enterLocal; simp

@[simp] theorem Mach.park_mem (s : Mach) (len : Nat) (t : Trap) : (s.park len t).mem = s.mem := by
  unfold Mach.park; split
  · rfl
  · dsimp only; split <;> simp

/-- A trap stores nothing. -/
@[simp] theorem Mach.takeTrap_mem (s : Mach) (len : Nat) (t : Trap) : (s.takeTrap len t).mem = s.mem := by
  unfold Mach.takeTrap; split <;> simp

@[simp] theorem Mach.block_mem (s : Mach) (w : Wait) : (s.block w).mem = s.mem := by unfold Mach.block; dsimp only; split <;> rfl
@[simp] theorem Mach.block_retired (s : Mach) (w : Wait) : (s.block w).ctx.retired = s.ctx.retired := by
  unfold Mach.block; dsimp only; split <;> rfl

/-- R318: a parked context keeps its registers. -/
theorem Mach.park_ctx (s : Mach) (len : Nat) (t : Trap) : (s.park len t).ctx =
    { s.ctx with cycle := (s.park len t).ctx.cycle, issued := (s.park len t).ctx.issued } := by
  unfold Mach.park; split
  · rfl
  · dsimp only; split <;> simp [Ctx.spend]

end Sys2Proof.Machine
end

