-- ==== Sys2Proof/Laws/PerInstr.lean ====
section
/-! SUPPORT. A law of the encoding for every instruction, one lemma per constructor: the words of a well-formed instruction
are one to five, and exactly the last of them is no prefix word (R44, R45). A step of another agent has no words. -/

namespace Sys2Proof.Laws

/-- R44, R45: how many words an instruction has, and which of them are prefix words. -/
def Encoding.Statement (i : Instr) : Prop :=
  ∀ ws, i.wf = true → encode i = some ws →
    ws.length ≤ 5 ∧ ∃ b, ws.getLast? = some b ∧ Half.isPre b = false ∧ ∀ w ∈ ws.dropLast, Half.isPre w = true

theorem isPre_of_toNat {w : Half} (h : 0xF800 ≤ w.toNat) : Half.isPre w = true := by
  have := w.isLt
  simp [Half.isPre, Half.op, Half.field]; omega

theorem poWord_isPre (page : Nat) (sub : BitVec 4) : Half.isPre (poWord page sub) = true := by
  have := sub.isLt
  apply isPre_of_toNat; simp [poWord]; omega

theorem pxWord_isPre (w : BitVec 10) : Half.isPre (pxWord w) = true := by
  have := w.isLt
  apply isPre_of_toNat; simp [pxWord]; omega

theorem prWord_isPre (r : PrF) : Half.isPre r.word = true := by
  have := r.e.isLt
  have := Bool.toNat_le r.dh
  have := Bool.toNat_le r.ah
  have := Bool.toNat_le r.w
  apply isPre_of_toNat; simp [PrF.word]; omega

theorem ppWord_isPre (r : PpF) : Half.isPre r.word = true := by
  have := r.pred.isLt
  have := Bool.toNat_le r.inv
  have := Bool.toNat_le r.zero
  apply isPre_of_toNat; simp [PpF.word]; omega

theorem baseWord_not_isPre {c : Chain} (h : c.op < 31) : Half.isPre c.baseWord = false := by
  have hop : c.baseWord.toNat / 2 ^ 11 = c.op := by
    unfold Chain.baseWord
    cases c.body with
    | f2 x => have := x.d.isLt; have := x.a.isLt; simp; omega
    | fi x => have := x.d.isLt; have := x.imm.isLt; simp; omega
    | fb x => have := x.a.isLt; have := x.off.isLt; simp; omega
    | fj x => have := x.off.isLt; simp; omega
  rw [Half.isPre, Half.op, Half.field, hop, beq_eq_false_iff_ne]
  omega

theorem Chain.words_law {c : Chain} (h : c.wf = true) :
    c.words.length ≤ 5 ∧ ∃ b, c.words.getLast? = some b ∧ Half.isPre b = false ∧ ∀ w ∈ c.words.dropLast, Half.isPre w = true := by
  simp only [Chain.wf, Bool.and_eq_true, decide_eq_true_eq] at h
  obtain ⟨⟨⟨-, hn⟩, -⟩, hop⟩ := h
  refine ⟨?_, c.baseWord, ?_, baseWord_not_isPre hop, ?_⟩
  · simp only [Pre.count] at hn
    have ho (α β : Type) (f : α → β) (x : Option α) : (x.map f).toList.length = x.toList.length := by cases x <;> rfl
    simp [Chain.words, ho]
    omega
  · simp [Chain.words]
  · rw [Chain.words, List.dropLast_concat]
    simp +contextual [or_imp, forall_and, poWord_isPre, prWord_isPre, ppWord_isPre, pxWord_isPre]

theorem Encoding.of_chain {i : Instr} {c : Chain} (hc : i.chain = some c) : Encoding.Statement i := by
  intro ws hw he
  simp only [Instr.wf, hc] at hw
  simp only [encode, hc, Option.map_some, Option.some.injEq] at he
  subst he
  exact Chain.words_law hw

theorem Encoding.of_event {i : Instr} (hc : i.chain = none) : Encoding.Statement i := by
  intro ws _ he
  simp [encode, hc] at he

theorem Encoding.nop (x : F2) : Encoding.Statement (.nop x) := Encoding.of_chain rfl
theorem Encoding.exit (x : F2) : Encoding.Statement (.exit x) := Encoding.of_chain rfl
theorem Encoding.svc (x : F2) : Encoding.Statement (.svc x) := Encoding.of_chain rfl
theorem Encoding.brk (x : F2) : Encoding.Statement (.brk x) := Encoding.of_chain rfl
theorem Encoding.ifsync (x : F2) : Encoding.Statement (.ifsync x) := Encoding.of_chain rfl
theorem Encoding.fence (x : F2) : Encoding.Statement (.fence x) := Encoding.of_chain rfl
theorem Encoding.mfs (x : F2) : Encoding.Statement (.mfs x) := Encoding.of_chain rfl
theorem Encoding.mts (x : F2) : Encoding.Statement (.mts x) := Encoding.of_chain rfl
theorem Encoding.add (x : F2) : Encoding.Statement (.add x) := Encoding.of_chain rfl
theorem Encoding.sub (x : F2) : Encoding.Statement (.sub x) := Encoding.of_chain rfl
theorem Encoding.and (x : F2) : Encoding.Statement (.and x) := Encoding.of_chain rfl
theorem Encoding.or (x : F2) : Encoding.Statement (.or x) := Encoding.of_chain rfl
theorem Encoding.xor (x : F2) : Encoding.Statement (.xor x) := Encoding.of_chain rfl
theorem Encoding.sll (x : F2) : Encoding.Statement (.sll x) := Encoding.of_chain rfl
theorem Encoding.srl (x : F2) : Encoding.Statement (.srl x) := Encoding.of_chain rfl
theorem Encoding.sra (x : F2) : Encoding.Statement (.sra x) := Encoding.of_chain rfl
theorem Encoding.mul (x : F2) : Encoding.Statement (.mul x) := Encoding.of_chain rfl
theorem Encoding.mulh (x : F2) : Encoding.Statement (.mulh x) := Encoding.of_chain rfl
theorem Encoding.mulhu (x : F2) : Encoding.Statement (.mulhu x) := Encoding.of_chain rfl
theorem Encoding.mulhsu (x : F2) : Encoding.Statement (.mulhsu x) := Encoding.of_chain rfl
theorem Encoding.div (x : F2) : Encoding.Statement (.div x) := Encoding.of_chain rfl
theorem Encoding.divu (x : F2) : Encoding.Statement (.divu x) := Encoding.of_chain rfl
theorem Encoding.rem (x : F2) : Encoding.Statement (.rem x) := Encoding.of_chain rfl
theorem Encoding.remu (x : F2) : Encoding.Statement (.remu x) := Encoding.of_chain rfl
theorem Encoding.addi (x : FI) : Encoding.Statement (.addi x) := Encoding.of_chain rfl
theorem Encoding.movi (x : FI) : Encoding.Statement (.movi x) := Encoding.of_chain rfl
theorem Encoding.slli (x : F2) : Encoding.Statement (.slli x) := Encoding.of_chain rfl
theorem Encoding.srli (x : F2) : Encoding.Statement (.srli x) := Encoding.of_chain rfl
theorem Encoding.srai (x : F2) : Encoding.Statement (.srai x) := Encoding.of_chain rfl
theorem Encoding.clz (x : F2) : Encoding.Statement (.clz x) := Encoding.of_chain rfl
theorem Encoding.ctz (x : F2) : Encoding.Statement (.ctz x) := Encoding.of_chain rfl
theorem Encoding.popc (x : F2) : Encoding.Statement (.popc x) := Encoding.of_chain rfl
theorem Encoding.sextw (x : F2) : Encoding.Statement (.sextw x) := Encoding.of_chain rfl
theorem Encoding.zextw (x : F2) : Encoding.Statement (.zextw x) := Encoding.of_chain rfl
theorem Encoding.seq (x : F2) : Encoding.Statement (.seq x) := Encoding.of_chain rfl
theorem Encoding.sne (x : F2) : Encoding.Statement (.sne x) := Encoding.of_chain rfl
theorem Encoding.slt (x : F2) : Encoding.Statement (.slt x) := Encoding.of_chain rfl
theorem Encoding.sltu (x : F2) : Encoding.Statement (.sltu x) := Encoding.of_chain rfl
theorem Encoding.sge (x : F2) : Encoding.Statement (.sge x) := Encoding.of_chain rfl
theorem Encoding.sgeu (x : F2) : Encoding.Statement (.sgeu x) := Encoding.of_chain rfl
theorem Encoding.min (x : F2) : Encoding.Statement (.min x) := Encoding.of_chain rfl
theorem Encoding.max (x : F2) : Encoding.Statement (.max x) := Encoding.of_chain rfl
theorem Encoding.andi (x : FI) : Encoding.Statement (.andi x) := Encoding.of_chain rfl
theorem Encoding.lb (x : F2) : Encoding.Statement (.lb x) := Encoding.of_chain rfl
theorem Encoding.lbu (x : F2) : Encoding.Statement (.lbu x) := Encoding.of_chain rfl
theorem Encoding.lh (x : F2) : Encoding.Statement (.lh x) := Encoding.of_chain rfl
theorem Encoding.lhu (x : F2) : Encoding.Statement (.lhu x) := Encoding.of_chain rfl
theorem Encoding.lw (x : F2) : Encoding.Statement (.lw x) := Encoding.of_chain rfl
theorem Encoding.lwu (x : F2) : Encoding.Statement (.lwu x) := Encoding.of_chain rfl
theorem Encoding.ld (x : F2) : Encoding.Statement (.ld x) := Encoding.of_chain rfl
theorem Encoding.lea (x : F2) : Encoding.Statement (.lea x) := Encoding.of_chain rfl
theorem Encoding.sb (x : F2) : Encoding.Statement (.sb x) := Encoding.of_chain rfl
theorem Encoding.sh (x : F2) : Encoding.Statement (.sh x) := Encoding.of_chain rfl
theorem Encoding.sw (x : F2) : Encoding.Statement (.sw x) := Encoding.of_chain rfl
theorem Encoding.sd (x : F2) : Encoding.Statement (.sd x) := Encoding.of_chain rfl
theorem Encoding.amoadd (x : F2) : Encoding.Statement (.amoadd x) := Encoding.of_chain rfl
theorem Encoding.amoswap (x : F2) : Encoding.Statement (.amoswap x) := Encoding.of_chain rfl
theorem Encoding.amomax (x : F2) : Encoding.Statement (.amomax x) := Encoding.of_chain rfl
theorem Encoding.amocas (x : F2) : Encoding.Statement (.amocas x) := Encoding.of_chain rfl
theorem Encoding.beqz (x : FB) : Encoding.Statement (.beqz x) := Encoding.of_chain rfl
theorem Encoding.bnez (x : FB) : Encoding.Statement (.bnez x) := Encoding.of_chain rfl
theorem Encoding.j (x : FJ) : Encoding.Statement (.j x) := Encoding.of_chain rfl
theorem Encoding.call (x : FJ) : Encoding.Statement (.call x) := Encoding.of_chain rfl
theorem Encoding.jr (x : F2) : Encoding.Statement (.jr x) := Encoding.of_chain rfl
theorem Encoding.callr (x : F2) : Encoding.Statement (.callr x) := Encoding.of_chain rfl
theorem Encoding.ret (x : F2) : Encoding.Statement (.ret x) := Encoding.of_chain rfl
theorem Encoding.bpt (x : F2) : Encoding.Statement (.bpt x) := Encoding.of_chain rfl
theorem Encoding.bpf (x : F2) : Encoding.Statement (.bpf x) := Encoding.of_chain rfl
theorem Encoding.qpop (x : F2) : Encoding.Statement (.qpop x) := Encoding.of_chain rfl
theorem Encoding.qpopb (x : F2) : Encoding.Statement (.qpopb x) := Encoding.of_chain rfl
theorem Encoding.qpush (x : F2) : Encoding.Statement (.qpush x) := Encoding.of_chain rfl
theorem Encoding.qclose (x : F2) : Encoding.Statement (.qclose x) := Encoding.of_chain rfl
theorem Encoding.qbind (x : F2) : Encoding.Statement (.qbind x) := Encoding.of_chain rfl
theorem Encoding.qunbind (x : F2) : Encoding.Statement (.qunbind x) := Encoding.of_chain rfl
theorem Encoding.setvl (x : F2) : Encoding.Statement (.setvl x) := Encoding.of_chain rfl
theorem Encoding.setvli (x : F2) : Encoding.Statement (.setvli x) := Encoding.of_chain rfl
theorem Encoding.strip (x : F2) : Encoding.Statement (.strip x) := Encoding.of_chain rfl
theorem Encoding.stripcfg (x : F2) : Encoding.Statement (.stripcfg x) := Encoding.of_chain rfl
theorem Encoding.pand (x : F2) : Encoding.Statement (.pand x) := Encoding.of_chain rfl
theorem Encoding.por (x : F2) : Encoding.Statement (.por x) := Encoding.of_chain rfl
theorem Encoding.pxor (x : F2) : Encoding.Statement (.pxor x) := Encoding.of_chain rfl
theorem Encoding.pnot (x : F2) : Encoding.Statement (.pnot x) := Encoding.of_chain rfl
theorem Encoding.pbrkb (x : F2) : Encoding.Statement (.pbrkb x) := Encoding.of_chain rfl
theorem Encoding.pbrki (x : F2) : Encoding.Statement (.pbrki x) := Encoding.of_chain rfl
theorem Encoding.pfirst (x : F2) : Encoding.Statement (.pfirst x) := Encoding.of_chain rfl
theorem Encoding.pcount (x : F2) : Encoding.Statement (.pcount x) := Encoding.of_chain rfl
theorem Encoding.waitge (x : F2) : Encoding.Statement (.waitge x) := Encoding.of_chain rfl
theorem Encoding.cadd (x : F2) : Encoding.Statement (.cadd x) := Encoding.of_chain rfl
theorem Encoding.vwait (x : F2) : Encoding.Statement (.vwait x) := Encoding.of_chain rfl
theorem Encoding.bar (x : F2) : Encoding.Statement (.bar x) := Encoding.of_chain rfl
theorem Encoding.bararr (x : F2) : Encoding.Statement (.bararr x) := Encoding.of_chain rfl
theorem Encoding.barwait (x : F2) : Encoding.Statement (.barwait x) := Encoding.of_chain rfl
theorem Encoding.sstep (x : F2) : Encoding.Statement (.sstep x) := Encoding.of_chain rfl
theorem Encoding.vadd (x : F2) : Encoding.Statement (.vadd x) := Encoding.of_chain rfl
theorem Encoding.vsub (x : F2) : Encoding.Statement (.vsub x) := Encoding.of_chain rfl
theorem Encoding.vmul (x : F2) : Encoding.Statement (.vmul x) := Encoding.of_chain rfl
theorem Encoding.vmin (x : F2) : Encoding.Statement (.vmin x) := Encoding.of_chain rfl
theorem Encoding.vmax (x : F2) : Encoding.Statement (.vmax x) := Encoding.of_chain rfl
theorem Encoding.vabd (x : F2) : Encoding.Statement (.vabd x) := Encoding.of_chain rfl
theorem Encoding.vmac (x : F2) : Encoding.Statement (.vmac x) := Encoding.of_chain rfl
theorem Encoding.vnmac (x : F2) : Encoding.Statement (.vnmac x) := Encoding.of_chain rfl
theorem Encoding.vand (x : F2) : Encoding.Statement (.vand x) := Encoding.of_chain rfl
theorem Encoding.vor (x : F2) : Encoding.Statement (.vor x) := Encoding.of_chain rfl
theorem Encoding.vxor (x : F2) : Encoding.Statement (.vxor x) := Encoding.of_chain rfl
theorem Encoding.vandn (x : F2) : Encoding.Statement (.vandn x) := Encoding.of_chain rfl
theorem Encoding.vsll (x : F2) : Encoding.Statement (.vsll x) := Encoding.of_chain rfl
theorem Encoding.vsrl (x : F2) : Encoding.Statement (.vsrl x) := Encoding.of_chain rfl
theorem Encoding.vsra (x : F2) : Encoding.Statement (.vsra x) := Encoding.of_chain rfl
theorem Encoding.vnot (x : F2) : Encoding.Statement (.vnot x) := Encoding.of_chain rfl
theorem Encoding.vceq (x : F2) : Encoding.Statement (.vceq x) := Encoding.of_chain rfl
theorem Encoding.vcne (x : F2) : Encoding.Statement (.vcne x) := Encoding.of_chain rfl
theorem Encoding.vclt (x : F2) : Encoding.Statement (.vclt x) := Encoding.of_chain rfl
theorem Encoding.vcle (x : F2) : Encoding.Statement (.vcle x) := Encoding.of_chain rfl
theorem Encoding.vcgt (x : F2) : Encoding.Statement (.vcgt x) := Encoding.of_chain rfl
theorem Encoding.vcge (x : F2) : Encoding.Statement (.vcge x) := Encoding.of_chain rfl
theorem Encoding.vcltu (x : F2) : Encoding.Statement (.vcltu x) := Encoding.of_chain rfl
theorem Encoding.vcun (x : F2) : Encoding.Statement (.vcun x) := Encoding.of_chain rfl
theorem Encoding.vmov (x : F2) : Encoding.Statement (.vmov x) := Encoding.of_chain rfl
theorem Encoding.vsplat (x : F2) : Encoding.Statement (.vsplat x) := Encoding.of_chain rfl
theorem Encoding.vext (x : F2) : Encoding.Statement (.vext x) := Encoding.of_chain rfl
theorem Encoding.vins (x : F2) : Encoding.Statement (.vins x) := Encoding.of_chain rfl
theorem Encoding.vmerge (x : F2) : Encoding.Statement (.vmerge x) := Encoding.of_chain rfl
theorem Encoding.vid (x : F2) : Encoding.Statement (.vid x) := Encoding.of_chain rfl
theorem Encoding.viota (x : F2) : Encoding.Statement (.viota x) := Encoding.of_chain rfl
theorem Encoding.vcompress (x : F2) : Encoding.Statement (.vcompress x) := Encoding.of_chain rfl
theorem Encoding.vld (x : F2) : Encoding.Statement (.vld x) := Encoding.of_chain rfl
theorem Encoding.vlds (x : F2) : Encoding.Statement (.vlds x) := Encoding.of_chain rfl
theorem Encoding.vldx (x : F2) : Encoding.Statement (.vldx x) := Encoding.of_chain rfl
theorem Encoding.vldff (x : F2) : Encoding.Statement (.vldff x) := Encoding.of_chain rfl
theorem Encoding.vldbc (x : F2) : Encoding.Statement (.vldbc x) := Encoding.of_chain rfl
theorem Encoding.vst (x : F2) : Encoding.Statement (.vst x) := Encoding.of_chain rfl
theorem Encoding.vsts (x : F2) : Encoding.Statement (.vsts x) := Encoding.of_chain rfl
theorem Encoding.vstx (x : F2) : Encoding.Statement (.vstx x) := Encoding.of_chain rfl
theorem Encoding.vredsum (x : F2) : Encoding.Statement (.vredsum x) := Encoding.of_chain rfl
theorem Encoding.vredosum (x : F2) : Encoding.Statement (.vredosum x) := Encoding.of_chain rfl
theorem Encoding.vredmax (x : F2) : Encoding.Statement (.vredmax x) := Encoding.of_chain rfl
theorem Encoding.vredmin (x : F2) : Encoding.Statement (.vredmin x) := Encoding.of_chain rfl
theorem Encoding.vredand (x : F2) : Encoding.Statement (.vredand x) := Encoding.of_chain rfl
theorem Encoding.vredor (x : F2) : Encoding.Statement (.vredor x) := Encoding.of_chain rfl
theorem Encoding.vredxor (x : F2) : Encoding.Statement (.vredxor x) := Encoding.of_chain rfl
theorem Encoding.vcvt (x : F2) : Encoding.Statement (.vcvt x) := Encoding.of_chain rfl
theorem Encoding.vwiden (x : F2) : Encoding.Statement (.vwiden x) := Encoding.of_chain rfl
theorem Encoding.vnarrow (x : F2) : Encoding.Statement (.vnarrow x) := Encoding.of_chain rfl
theorem Encoding.vrint (x : F2) : Encoding.Statement (.vrint x) := Encoding.of_chain rfl
theorem Encoding.vslup (x : F2) : Encoding.Statement (.vslup x) := Encoding.of_chain rfl
theorem Encoding.vsldn (x : F2) : Encoding.Statement (.vsldn x) := Encoding.of_chain rfl
theorem Encoding.vrgat (x : F2) : Encoding.Statement (.vrgat x) := Encoding.of_chain rfl
theorem Encoding.vzip (x : F2) : Encoding.Statement (.vzip x) := Encoding.of_chain rfl
theorem Encoding.vunzip (x : F2) : Encoding.Statement (.vunzip x) := Encoding.of_chain rfl
theorem Encoding.vrev (x : F2) : Encoding.Statement (.vrev x) := Encoding.of_chain rfl
theorem Encoding.vsl1up (x : F2) : Encoding.Statement (.vsl1up x) := Encoding.of_chain rfl
theorem Encoding.vsl1dn (x : F2) : Encoding.Statement (.vsl1dn x) := Encoding.of_chain rfl
theorem Encoding.vdiv (x : F2) : Encoding.Statement (.vdiv x) := Encoding.of_chain rfl
theorem Encoding.vsqrt (x : F2) : Encoding.Statement (.vsqrt x) := Encoding.of_chain rfl
theorem Encoding.vrcp (x : F2) : Encoding.Statement (.vrcp x) := Encoding.of_chain rfl
theorem Encoding.vrsqrt (x : F2) : Encoding.Statement (.vrsqrt x) := Encoding.of_chain rfl
theorem Encoding.vexp2 (x : F2) : Encoding.Statement (.vexp2 x) := Encoding.of_chain rfl
theorem Encoding.vlog2 (x : F2) : Encoding.Statement (.vlog2 x) := Encoding.of_chain rfl
theorem Encoding.vclass (x : F2) : Encoding.Statement (.vclass x) := Encoding.of_chain rfl
theorem Encoding.vabs (x : F2) : Encoding.Statement (.vabs x) := Encoding.of_chain rfl
theorem Encoding.vsadd (x : F2) : Encoding.Statement (.vsadd x) := Encoding.of_chain rfl
theorem Encoding.vssub (x : F2) : Encoding.Statement (.vssub x) := Encoding.of_chain rfl
theorem Encoding.vsaddu (x : F2) : Encoding.Statement (.vsaddu x) := Encoding.of_chain rfl
theorem Encoding.vssubu (x : F2) : Encoding.Statement (.vssubu x) := Encoding.of_chain rfl
theorem Encoding.vavg (x : F2) : Encoding.Statement (.vavg x) := Encoding.of_chain rfl
theorem Encoding.vmulh (x : F2) : Encoding.Statement (.vmulh x) := Encoding.of_chain rfl
theorem Encoding.vmulhu (x : F2) : Encoding.Statement (.vmulhu x) := Encoding.of_chain rfl
theorem Encoding.vsrr (x : F2) : Encoding.Statement (.vsrr x) := Encoding.of_chain rfl
theorem Encoding.vnclip (x : F2) : Encoding.Statement (.vnclip x) := Encoding.of_chain rfl
theorem Encoding.vnclipu (x : F2) : Encoding.Statement (.vnclipu x) := Encoding.of_chain rfl
theorem Encoding.vmacw (x : F2) : Encoding.Statement (.vmacw x) := Encoding.of_chain rfl
theorem Encoding.vdotw (x : F2) : Encoding.Statement (.vdotw x) := Encoding.of_chain rfl
theorem Encoding.vbmax (x : F2) : Encoding.Statement (.vbmax x) := Encoding.of_chain rfl
theorem Encoding.vbscale (x : F2) : Encoding.Statement (.vbscale x) := Encoding.of_chain rfl
theorem Encoding.vbdeq (x : F2) : Encoding.Statement (.vbdeq x) := Encoding.of_chain rfl
theorem Encoding.vsparse (x : F2) : Encoding.Statement (.vsparse x) := Encoding.of_chain rfl
theorem Encoding.mxon (x : F2) : Encoding.Statement (.mxon x) := Encoding.of_chain rfl
theorem Encoding.mxoff (x : F2) : Encoding.Statement (.mxoff x) := Encoding.of_chain rfl
theorem Encoding.mzero (x : F2) : Encoding.Statement (.mzero x) := Encoding.of_chain rfl
theorem Encoding.mop (x : F2) : Encoding.Statement (.mop x) := Encoding.of_chain rfl
theorem Encoding.mopn (x : F2) : Encoding.Statement (.mopn x) := Encoding.of_chain rfl
theorem Encoding.mfold (x : F2) : Encoding.Statement (.mfold x) := Encoding.of_chain rfl
theorem Encoding.mrowv (x : F2) : Encoding.Statement (.mrowv x) := Encoding.of_chain rfl
theorem Encoding.mcolv (x : F2) : Encoding.Statement (.mcolv x) := Encoding.of_chain rfl
theorem Encoding.mvrow (x : F2) : Encoding.Statement (.mvrow x) := Encoding.of_chain rfl
theorem Encoding.mvcol (x : F2) : Encoding.Statement (.mvcol x) := Encoding.of_chain rfl
theorem Encoding.macst (x : F2) : Encoding.Statement (.macst x) := Encoding.of_chain rfl
theorem Encoding.macld (x : F2) : Encoding.Statement (.macld x) := Encoding.of_chain rfl
theorem Encoding.rsalloc (x : F2) : Encoding.Statement (.rsalloc x) := Encoding.of_chain rfl
theorem Encoding.rsload (x : F2) : Encoding.Statement (.rsload x) := Encoding.of_chain rfl
theorem Encoding.rspin (x : F2) : Encoding.Statement (.rspin x) := Encoding.of_chain rfl
theorem Encoding.rsunpin (x : F2) : Encoding.Statement (.rsunpin x) := Encoding.of_chain rfl
theorem Encoding.rsrev (x : F2) : Encoding.Statement (.rsrev x) := Encoding.of_chain rfl
theorem Encoding.rsq (x : F2) : Encoding.Statement (.rsq x) := Encoding.of_chain rfl
theorem Encoding.mres (x : F2) : Encoding.Statement (.mres x) := Encoding.of_chain rfl
theorem Encoding.mresv (x : F2) : Encoding.Statement (.mresv x) := Encoding.of_chain rfl
theorem Encoding.sset (x : F2) : Encoding.Statement (.sset x) := Encoding.of_chain rfl
theorem Encoding.sstop (x : F2) : Encoding.Statement (.sstop x) := Encoding.of_chain rfl
theorem Encoding.sstopClose (x : F2) : Encoding.Statement (.sstopClose x) := Encoding.of_chain rfl
theorem Encoding.vslr (x : F2) : Encoding.Statement (.vslr x) := Encoding.of_chain rfl
theorem Encoding.vslrcfg (x : F2) : Encoding.Statement (.vslrcfg x) := Encoding.of_chain rfl
theorem Encoding.cpy (x : F2) : Encoding.Statement (.cpy x) := Encoding.of_chain rfl
theorem Encoding.cpyx (x : F2) : Encoding.Statement (.cpyx x) := Encoding.of_chain rfl
theorem Encoding.cpydist (x : F2) : Encoding.Statement (.cpydist x) := Encoding.of_chain rfl
theorem Encoding.cpyz (x : F2) : Encoding.Statement (.cpyz x) := Encoding.of_chain rfl
theorem Encoding.mrd (x : F2) : Encoding.Statement (.mrd x) := Encoding.of_chain rfl
theorem Encoding.mwr (x : F2) : Encoding.Statement (.mwr x) := Encoding.of_chain rfl
theorem Encoding.mwrm (x : F2) : Encoding.Statement (.mwrm x) := Encoding.of_chain rfl
theorem Encoding.matom (x : F2) : Encoding.Statement (.matom x) := Encoding.of_chain rfl
theorem Encoding.mrsp (x : F2) : Encoding.Statement (.mrsp x) := Encoding.of_chain rfl
theorem Encoding.vldg (x : F2) : Encoding.Statement (.vldg x) := Encoding.of_chain rfl
theorem Encoding.vstg (x : F2) : Encoding.Statement (.vstg x) := Encoding.of_chain rfl
theorem Encoding.vldgff (x : F2) : Encoding.Statement (.vldgff x) := Encoding.of_chain rfl
theorem Encoding.poolput (x : F2) : Encoding.Statement (.poolput x) := Encoding.of_chain rfl
theorem Encoding.poolget (x : F2) : Encoding.Statement (.poolget x) := Encoding.of_chain rfl
theorem Encoding.launch (x : F2) : Encoding.Statement (.launch x) := Encoding.of_chain rfl
theorem Encoding.cancel (x : F2) : Encoding.Statement (.cancel x) := Encoding.of_chain rfl
theorem Encoding.ccget (x : F2) : Encoding.Statement (.ccget x) := Encoding.of_chain rfl
theorem Encoding.cut (x : F2) : Encoding.Statement (.cut x) := Encoding.of_chain rfl
theorem Encoding.tret (x : F2) : Encoding.Statement (.tret x) := Encoding.of_chain rfl
theorem Encoding.ctxsave (x : F2) : Encoding.Statement (.ctxsave x) := Encoding.of_chain rfl
theorem Encoding.ctxrest (x : F2) : Encoding.Statement (.ctxrest x) := Encoding.of_chain rfl
theorem Encoding.rtset (x : F2) : Encoding.Statement (.rtset x) := Encoding.of_chain rfl
theorem Encoding.rtcommit (x : F2) : Encoding.Statement (.rtcommit x) := Encoding.of_chain rfl
theorem Encoding.rtinv (x : F2) : Encoding.Statement (.rtinv x) := Encoding.of_chain rfl
theorem Encoding.fgload (x : F2) : Encoding.Statement (.fgload x) := Encoding.of_chain rfl
theorem Encoding.fgbind (x : F2) : Encoding.Statement (.fgbind x) := Encoding.of_chain rfl
theorem Encoding.fgclr (x : F2) : Encoding.Statement (.fgclr x) := Encoding.of_chain rfl
theorem Encoding.fgsel (x : F2) : Encoding.Statement (.fgsel x) := Encoding.of_chain rfl
theorem Encoding.chgown (x : F2) : Encoding.Statement (.chgown x) := Encoding.of_chain rfl
theorem Encoding.resume (x : F2) : Encoding.Statement (.resume x) := Encoding.of_chain rfl
theorem Encoding.resumeSnap (x : F2) : Encoding.Statement (.resumeSnap x) := Encoding.of_chain rfl
theorem Encoding.rseed (x : F2) : Encoding.Statement (.rseed x) := Encoding.of_chain rfl
theorem Encoding.rstream (x : F2) : Encoding.Statement (.rstream x) := Encoding.of_chain rfl
theorem Encoding.vrand (x : F2) : Encoding.Statement (.vrand x) := Encoding.of_chain rfl
theorem Encoding.vrandf (x : F2) : Encoding.Statement (.vrandf x) := Encoding.of_chain rfl
theorem Encoding.dgon (x : F2) : Encoding.Statement (.dgon x) := Encoding.of_chain rfl
theorem Encoding.dgoff (x : F2) : Encoding.Statement (.dgoff x) := Encoding.of_chain rfl
theorem Encoding.dgget (x : F2) : Encoding.Statement (.dgget x) := Encoding.of_chain rfl
theorem Encoding.rdctr (x : F2) : Encoding.Statement (.rdctr x) := Encoding.of_chain rfl
theorem Encoding.fig (x : F2) (op : BitVec 5) (f : BitVec 3) : Encoding.Statement (.fig x op f) := Encoding.of_chain rfl
theorem Encoding.faultRecordDelivery (net : Nat) : Encoding.Statement (.faultRecordDelivery net) := Encoding.of_event rfl
theorem Encoding.tokenArrival (net ch : Nat) : Encoding.Statement (.tokenArrival net ch) := Encoding.of_event rfl
theorem Encoding.slotReturn (net ch : Nat) : Encoding.Statement (.slotReturn net ch) := Encoding.of_event rfl
theorem Encoding.channelRebind (net ch : Nat) : Encoding.Statement (.channelRebind net ch) := Encoding.of_event rfl
theorem Encoding.copyElement (k : Nat) : Encoding.Statement (.copyElement k) := Encoding.of_event rfl
theorem Encoding.residencyFillComplete (r : Nat) : Encoding.Statement (.residencyFillComplete r) := Encoding.of_event rfl
theorem Encoding.residencyFillFault (r : Nat) : Encoding.Statement (.residencyFillFault r) := Encoding.of_event rfl
theorem Encoding.residencyReloadComplete (r : Nat) : Encoding.Statement (.residencyReloadComplete r) := Encoding.of_event rfl
theorem Encoding.residencyStaleMark (r k : Nat) : Encoding.Statement (.residencyStaleMark r k) := Encoding.of_event rfl
theorem Encoding.gatewayForward (k : Nat) : Encoding.Statement (.gatewayForward k) := Encoding.of_event rfl
theorem Encoding.serverAccept (k : Nat) : Encoding.Statement (.serverAccept k) := Encoding.of_event rfl
theorem Encoding.serverPerform (k : Nat) (ecc : Ecc) : Encoding.Statement (.serverPerform k ecc) := Encoding.of_event rfl
theorem Encoding.rmwMergeComplete (k : Nat) : Encoding.Statement (.rmwMergeComplete k) := Encoding.of_event rfl
theorem Encoding.packetReplyArrival (k : Nat) : Encoding.Statement (.packetReplyArrival k) := Encoding.of_event rfl
theorem Encoding.remoteTileAccess (k : Nat) : Encoding.Statement (.remoteTileAccess k) := Encoding.of_event rfl
theorem Encoding.nearBankRequest (k : Nat) : Encoding.Statement (.nearBankRequest k) := Encoding.of_event rfl
theorem Encoding.nearBankReply (k : Nat) : Encoding.Statement (.nearBankReply k) := Encoding.of_event rfl
theorem Encoding.patternTokenFetch (proc j : Nat) : Encoding.Statement (.patternTokenFetch proc j) := Encoding.of_event rfl
theorem Encoding.barrierArrival (net n : Nat) : Encoding.Statement (.barrierArrival net n) := Encoding.of_event rfl
theorem Encoding.sstepGenerationComplete (net n : Nat) : Encoding.Statement (.sstepGenerationComplete net n) := Encoding.of_event rfl
theorem Encoding.lapClose (net pool : Nat) : Encoding.Statement (.lapClose net pool) := Encoding.of_event rfl
theorem Encoding.sweepFirstPass (net : Nat) : Encoding.Statement (.sweepFirstPass net) := Encoding.of_event rfl
theorem Encoding.sweepSecondPass (net : Nat) : Encoding.Statement (.sweepSecondPass net) := Encoding.of_event rfl
theorem Encoding.preemptionRequest (proc : Nat) : Encoding.Statement (.preemptionRequest proc) := Encoding.of_event rfl
theorem Encoding.preemptionDeadline (proc : Nat) : Encoding.Statement (.preemptionDeadline proc) := Encoding.of_event rfl
theorem Encoding.saveSequence (proc : Nat) : Encoding.Statement (.saveSequence proc) := Encoding.of_event rfl
theorem Encoding.placeProcess (proc : Nat) : Encoding.Statement (.placeProcess proc) := Encoding.of_event rfl
theorem Encoding.hubRestore (proc : Nat) : Encoding.Statement (.hubRestore proc) := Encoding.of_event rfl
theorem Encoding.unplacedWake (proc : Nat) : Encoding.Statement (.unplacedWake proc) := Encoding.of_event rfl
theorem Encoding.networkDispatch (tenant : Nat) : Encoding.Statement (.networkDispatch tenant) := Encoding.of_event rfl
theorem Encoding.launchStart (net : Nat) : Encoding.Statement (.launchStart net) := Encoding.of_event rfl
theorem Encoding.entryFinal (tenant level index : Nat) : Encoding.Statement (.entryFinal tenant level index) := Encoding.of_event rfl
theorem Encoding.cancelPropagate (tenant level index : Nat) : Encoding.Statement (.cancelPropagate tenant level index) := Encoding.of_event rfl
theorem Encoding.cancelledTrap (proc : Nat) : Encoding.Statement (.cancelledTrap proc) := Encoding.of_event rfl
theorem Encoding.takeGate (proc : Nat) : Encoding.Statement (.takeGate proc) := Encoding.of_event rfl
theorem Encoding.cutComplete (net : Nat) : Encoding.Statement (.cutComplete net) := Encoding.of_event rfl
theorem Encoding.snapshotRebuild (k : Nat) : Encoding.Statement (.snapshotRebuild k) := Encoding.of_event rfl
theorem Encoding.vwaitTimeout (proc : Nat) : Encoding.Statement (.vwaitTimeout proc) := Encoding.of_event rfl
theorem Encoding.rangeTableSwitch (tenant : Nat) : Encoding.Statement (.rangeTableSwitch tenant) := Encoding.of_event rfl
theorem Encoding.queueSramPoison (spot : SramSpot) : Encoding.Statement (.queueSramPoison spot) := Encoding.of_event rfl
theorem Encoding.laneGroupBind (tile : Nat) : Encoding.Statement (.laneGroupBind tile) := Encoding.of_event rfl
theorem Encoding.arrayGrant (tile : Nat) : Encoding.Statement (.arrayGrant tile) := Encoding.of_event rfl
theorem Encoding.submitNetwork (h : Sqp) (m : SubmitNet) : Encoding.Statement (.submitNetwork h m) := Encoding.of_event rfl
theorem Encoding.submitGraph (h : Sqp) (graph phase : Nat) (nets : List SubmitNet) (edges : List Edge) : Encoding.Statement (.submitGraph h graph phase nets edges) := Encoding.of_event rfl
theorem Encoding.openPhase (h : Sqp) (phase : Nat) : Encoding.Statement (.openPhase h phase) := Encoding.of_event rfl
theorem Encoding.closePhase (h : Sqp) (phase : Nat) : Encoding.Statement (.closePhase h phase) := Encoding.of_event rfl
theorem Encoding.sqpCancel (h : Sqp) (level index : Nat) : Encoding.Statement (.sqpCancel h level index) := Encoding.of_event rfl
theorem Encoding.teardownQueue (h : Sqp) : Encoding.Statement (.teardownQueue h) := Encoding.of_event rfl
theorem Encoding.resetQueue (h : Sqp) : Encoding.Statement (.resetQueue h) := Encoding.of_event rfl
theorem Encoding.registerImage (h : Sqp) (addr : Word) (len : Nat) : Encoding.Statement (.registerImage h addr len) := Encoding.of_event rfl
theorem Encoding.prePlaceImage (h : Sqp) (handle : Nat) : Encoding.Statement (.prePlaceImage h handle) := Encoding.of_event rfl
theorem Encoding.releaseImage (h : Sqp) (handle : Nat) : Encoding.Statement (.releaseImage h handle) := Encoding.of_event rfl
theorem Encoding.sqpCut (h : Sqp) (index : Nat) (addr : Word) : Encoding.Statement (.sqpCut h index addr) := Encoding.of_event rfl
theorem Encoding.resumeSnapshot (h : Sqp) (snap : Word) (index : Nat) (place : List Hint) : Encoding.Statement (.resumeSnapshot h snap index place) := Encoding.of_event rfl
theorem Encoding.openQueue (h : Sqp) (mgmt : Bool) (queue : Nat) (pub : Nat) : Encoding.Statement (.openQueue h mgmt queue pub) := Encoding.of_event rfl
theorem Encoding.closeQueue (h : Sqp) (mgmt : Bool) (queue : Nat) : Encoding.Statement (.closeQueue h mgmt queue) := Encoding.of_event rfl
theorem Encoding.jobStart (h : Sqp) (j : JobDecl) : Encoding.Statement (.jobStart h j) := Encoding.of_event rfl
theorem Encoding.jobEnd (h : Sqp) (tenant : Nat) : Encoding.Statement (.jobEnd h tenant) := Encoding.of_event rfl
theorem Encoding.rangeRegion (h : Sqp) (tenant : Nat) (base : Word) (len : Nat) (rd w : Bool) : Encoding.Statement (.rangeRegion h tenant base len rd w) := Encoding.of_event rfl
theorem Encoding.hostWindow (h : Sqp) (tenant : Nat) (base len : Nat) : Encoding.Statement (.hostWindow h tenant base len) := Encoding.of_event rfl
theorem Encoding.setAgeCap (h : Sqp) (server cap : Nat) : Encoding.Statement (.setAgeCap h server cap) := Encoding.of_event rfl
theorem Encoding.setHostPathTimeout (h : Sqp) (ns : Nat) : Encoding.Statement (.setHostPathTimeout h ns) := Encoding.of_event rfl
theorem Encoding.readErrorLog (h : Sqp) : Encoding.Statement (.readErrorLog h) := Encoding.of_event rfl
theorem Encoding.clearErrorLog (h : Sqp) : Encoding.Statement (.clearErrorLog h) := Encoding.of_event rfl
theorem Encoding.readCounters (h : Sqp) (domain spot num : Nat) : Encoding.Statement (.readCounters h domain spot num) := Encoding.of_event rfl
theorem Encoding.releaseSeedLog (h : Sqp) (nid : Nat) : Encoding.Statement (.releaseSeedLog h nid) := Encoding.of_event rfl
theorem Encoding.readCertificateChain (h : Sqp) : Encoding.Statement (.readCertificateChain h) := Encoding.of_event rfl
theorem Encoding.attest (h : Sqp) (nonce : BitVec 512) : Encoding.Statement (.attest h nonce) := Encoding.of_event rfl
theorem Encoding.firmwareChunk (h : Sqp) (bytes : List Byte) : Encoding.Statement (.firmwareChunk h bytes) := Encoding.of_event rfl
theorem Encoding.sqpAcknowledgement (mgmt : Bool) (queue seq : Nat) : Encoding.Statement (.sqpAcknowledgement mgmt queue seq) := Encoding.of_event rfl
theorem Encoding.sqpRetransmit (mgmt : Bool) (queue : Nat) : Encoding.Statement (.sqpRetransmit mgmt queue) := Encoding.of_event rfl
theorem Encoding.rdmaWrite (qp rkey : Nat) (addr : Word) (bytes : List Byte) : Encoding.Statement (.rdmaWrite qp rkey addr bytes) := Encoding.of_event rfl
theorem Encoding.rdmaRead (qp rkey : Nat) (addr : Word) (len : Nat) : Encoding.Statement (.rdmaRead qp rkey addr len) := Encoding.of_event rfl
theorem Encoding.rdmaRefusedVerb (qp : Nat) : Encoding.Statement (.rdmaRefusedVerb qp) := Encoding.of_event rfl
theorem Encoding.hostBridgeCompletion (k : Nat) : Encoding.Statement (.hostBridgeCompletion k) := Encoding.of_event rfl
theorem Encoding.hostPathTimeout (k : Nat) : Encoding.Statement (.hostPathTimeout k) := Encoding.of_event rfl
theorem Encoding.spanFlitReceive (link : Nat) (f : Flit) (lane : Option Nat) : Encoding.Statement (.spanFlitReceive link f lane) := Encoding.of_event rfl
theorem Encoding.spanNegativeAcknowledgement (link seq : Nat) : Encoding.Statement (.spanNegativeAcknowledgement link seq) := Encoding.of_event rfl
theorem Encoding.spanAcknowledgement (link seq : Nat) : Encoding.Statement (.spanAcknowledgement link seq) := Encoding.of_event rfl
theorem Encoding.repairRequest (link lane : Nat) : Encoding.Statement (.repairRequest link lane) := Encoding.of_event rfl
theorem Encoding.repairGrant (link bound : Nat) : Encoding.Statement (.repairGrant link bound) := Encoding.of_event rfl
theorem Encoding.laneMapSwitch (link : Nat) : Encoding.Statement (.laneMapSwitch link) := Encoding.of_event rfl
theorem Encoding.linkRetrain (link : Nat) (ok : Bool) : Encoding.Statement (.linkRetrain link ok) := Encoding.of_event rfl
theorem Encoding.linkDown (link : Nat) : Encoding.Statement (.linkDown link) := Encoding.of_event rfl
theorem Encoding.coldStart (f : StartFinds) : Encoding.Statement (.coldStart f) := Encoding.of_event rfl
theorem Encoding.warmStart (f : StartFinds) : Encoding.Statement (.warmStart f) := Encoding.of_event rfl
theorem Encoding.hostLinkRetry (ok : Bool) : Encoding.Statement (.hostLinkRetry ok) := Encoding.of_event rfl
theorem Encoding.ageingReplan (die : Nat) (met : Bool) : Encoding.Statement (.ageingReplan die met) := Encoding.of_event rfl
theorem Encoding.clockRelock (die : Nat) : Encoding.Statement (.clockRelock die) := Encoding.of_event rfl
theorem Encoding.powerSample (watts : Nat) : Encoding.Statement (.powerSample watts) := Encoding.of_event rfl
theorem Encoding.tileZeroingComplete (tile : Nat) : Encoding.Statement (.tileZeroingComplete tile) := Encoding.of_event rfl
theorem Encoding.rowClearComplete (what : Cleared) : Encoding.Statement (.rowClearComplete what) := Encoding.of_event rfl
theorem Encoding.laneLossOfLock (link lane : Nat) : Encoding.Statement (.laneLossOfLock link lane) := Encoding.of_event rfl
theorem Encoding.icmpv6NeighbourDiscoveryAndEcho (echo : Bool) (frame : List Byte) : Encoding.Statement (.icmpv6NeighbourDiscoveryAndEcho echo frame) := Encoding.of_event rfl
theorem Encoding.droppedFrame (frame : List Byte) : Encoding.Statement (.droppedFrame frame) := Encoding.of_event rfl
theorem Encoding.setSqpUdpPort (h : Sqp) (port : Nat) : Encoding.Statement (.setSqpUdpPort h port) := Encoding.of_event rfl

end Sys2Proof.Laws
end

