-- ==== Sys2Proof/Laws/Ran.lean ====
section
/-! SUPPORT. From the outcome of a chain's effect to the words of the claims: a chain that retires, jumps, traps or waits. -/

namespace Sys2Proof.Machine

theorem listSet_map {α β : Type} (l : List α) (k : Nat) (f : α → α) (g : α → β) (h : ∀ a, g (f a) = g a) :
    (listSet l k f).map g = l.map g := by
  unfold listSet
  refine List.ext_getElem (by simp) fun i h1 h2 => ?_
  simp only [List.getElem_map, List.getElem_modify]
  split
  · exact h _
  · rfl

theorem CalmAs.refl (m : Mach) : CalmAs m m := ⟨rfl, rfl⟩

theorem Mach.running_calm (m : Mach) : CalmAs m.running m := by
  unfold Mach.running
  split
  · exact ⟨listSet_map _ _ _ _ (fun (_ : Proc) => rfl), rfl⟩
  · exact CalmAs.refl m

theorem Mach.stirRetire_calm (m : Mach) : CalmAs m.stirRetire m := by
  unfold Mach.stirRetire
  split
  · exact ⟨rfl, listSet_map _ _ _ _ (fun (_ : Net) => rfl)⟩
  · exact CalmAs.refl m

theorem Mach.counted_calm (m : Mach) : CalmAs m.counted m := by
  have h1 := Mach.stirRetire_calm
    ({ m with ctx := m.ctx.count (Config.chainCycles m.tick), tick := m.tick + 1 } : Mach).running
  have h2 := Mach.running_calm ({ m with ctx := m.ctx.count (Config.chainCycles m.tick), tick := m.tick + 1 } : Mach)
  exact ⟨h1.procs.trans h2.procs, h1.nets.trans h2.nets⟩

theorem Mach.retire_calm (m : Mach) (len : Nat) : CalmAs (m.retire len) m := by
  have h := Mach.counted_calm m
  exact ⟨h.procs, h.nets⟩

theorem Mach.jump_calm (m : Mach) (t : Nat) : CalmAs (m.jump t) m := by
  have h := Mach.counted_calm m
  exact ⟨h.procs, h.nets⟩

theorem ran_retire (s : State) (m : Mach) (len : Nat) :
    Ran s { s with toMach := m.retire len } m (m.ctx.pc + BitVec.ofNat 24 (2 * len)) m.ctx.far where
  outside := ⟨rfl, rfl⟩
  ctx := by
    show (m.retire len).ctx = _
    rw [Mach.retire_ctx]; rfl
  rest := by
    show m.retire len = _
    have h : (m.retire len).tick = m.tick + 1 := by rw [Mach.retire_frame]
    conv => lhs; rw [Mach.retire_frame]
    dsimp only
    rw [h]
  calm := Mach.retire_calm m len

theorem ran_jump (s : State) (m : Mach) (t : Nat) : Ran s { s with toMach := m.jump t } m (m.ctx.goto t).pc (m.ctx.goto t).far where
  outside := ⟨rfl, rfl⟩
  ctx := by
    show (m.jump t).ctx = _
    rw [Mach.jump_ctx]; rfl
  rest := by
    show m.jump t = _
    have h : (m.jump t).tick = m.tick + 1 := by rw [Mach.jump_frame]
    conv => lhs; rw [Mach.jump_frame]
    dsimp only
    rw [h]
  calm := Mach.jump_calm m t

/-- A chain that retires in sequence. -/
theorem retires_of_ok {i : Instr} {len : Nat} {s : State} {f : Mach → Try Done} {m : Mach} (he : exec i s = chain len s f)
    (hf : f s.toMach = .ok { m := m }) (hp : m.ctx.pc = s.ctx.pc) (hx : m.ctx.far = s.ctx.far) : Retires i len s m :=
  ⟨_, he.trans (chain_ok hf), by rw [← hp, ← hx]; exact ran_retire s m len⟩

theorem retires_of_plain {i : Instr} {len : Nat} {s : State} {f : Mach → Mach} (he : exec i s = plain len s f)
    (hp : (f s.toMach).ctx.pc = s.ctx.pc) (hx : (f s.toMach).ctx.far = s.ctx.far) : Retires i len s (f s.toMach) :=
  ⟨_, he, by rw [← hp, ← hx]; exact ran_retire s (f s.toMach) len⟩

/-- A chain that branches. -/
theorem jumps_of_ok {i : Instr} {len : Nat} {s : State} {f : Mach → Try Done} {m : Mach} {t : Nat} {fl : Bool}
    (he : exec i s = chain len s f) (hf : f s.toMach = .ok { m := m, target := some t, flush := fl }) :
    JumpsTo i s m t :=
  ⟨_, he.trans (chain_ok hf), ran_jump s m t⟩

theorem traps_of_error {i : Instr} {len : Nat} {s : State} {f : Mach → Try Done} {x : Trap} (he : exec i s = chain len s f)
    (hf : f s.toMach = .error (.trap x)) : Traps i len s x := he.trans (chain_trap hf)

theorem waits_of_error {i : Instr} {len : Nat} {s : State} {f : Mach → Try Done} {w : Wait} (he : exec i s = chain len s f)
    (hf : f s.toMach = .error (.wait w s.toMach)) : Waits i s w := he.trans (chain_wait hf)

end Sys2Proof.Machine
end

