-- ==== Sys2Proof/Laws/Stores.lean ====
section
/-! SUPPORT. Stores on their way to tiles (R270, R147): what performing them can change, and which of them a drain performs. -/

namespace Sys2Proof.Machine

theorem Mach.cleanse_frame (s : Mach) (k n : Nat) : s.cleanse k n = { s with bad := (s.cleanse k n).bad } := by
  unfold Mach.cleanse; split <;> rfl

theorem Mach.put_frame (s : Mach) (k : Nat) (bs : List Byte) : s.put k bs = { s with mem := (s.put k bs).mem, bad := (s.put k bs).bad } := by
  rw [Mach.put, cleanse_frame]

/-- A store at a tile changes memory and the poison marks alone. -/
theorem Mach.storeAt_frame (s : Mach) (k : Nat) (bs : List Byte) (half : Option Bool) :
    s.storeAt k bs half = { s with mem := (s.storeAt k bs half).mem, bad := (s.storeAt k bs half).bad } := by
  cases half <;> exact s.put_frame k _

/-- Stores performed change memory, the poison marks and the list of those on their way alone. -/
theorem Mach.performTiles_frame (l : List TileReq) (s : Mach) :
    s.performTiles l = { s with
      mem := (s.performTiles l).mem, bad := (s.performTiles l).bad, tileReqs := (s.performTiles l).tileReqs } := by
  induction l generalizing s with
  | nil => rfl
  | cons r l ih => rw [performTiles, ih, performTile, storeAt_frame]

theorem Mach.ownStores_frame (s : Mach) :
    s.ownStores = { s with mem := s.ownStores.mem, bad := s.ownStores.bad, tileReqs := s.ownStores.tileReqs } :=
  s.performTiles_frame _

@[simp] theorem Mach.ownStores_ctx (s : Mach) : s.ownStores.ctx = s.ctx := by rw [ownStores_frame]

/-- Nothing on its way, nothing to perform. -/
theorem Mach.ownStores_of_none {s : Mach} (h : s.tileReqs = []) : s.ownStores = s := by
  simp [ownStores, drainTiles, land, landing, h, performTiles]

/-- A drain that asks for every store on its way performs all of them, in the order in which they were sent. -/
theorem Mach.land_all {s : Mach} {f : TileReq → Bool} (h : ∀ r ∈ s.tileReqs, f r = true) : s.land f = s.performTiles s.tileReqs := by
  have all (l : List TileReq) (h : ∀ r ∈ l, f r = true) :
      l.foldr (fun r acc => if f r || acc.any (s.landsFirst r) then r :: acc else acc) [] = l := by
    induction l with
    | nil => rfl
    | cons r l ih => rw [List.foldr_cons, ih fun x hx => h x (.tail r hx), h r (.head l)]; rfl
  rw [land, landing, all _ h]

/-- The process's own fetch meets memory as it is where nothing is on its way. -/
theorem Mach.seen_of_none {s : Mach} (h : s.tileReqs = []) : s.seen = s := by rw [seen, h]; rfl

end Sys2Proof.Machine
end

