-- ==== Sys2Proof/Tests/Slice0.lean ====
section
/-! SUPPORT. Small tests: ill-formed terms that `WellFormed` refuses; words written out from the encoding tables; single steps
with the values that the manual's tables and examples give; and, for every statement with hypotheses, a concrete state and
operands that meet them together, named `witness_<statement>`. -/

namespace Sys2Proof.Tests

open Sys2Proof.Machine Sys2Proof.Claim

set_option Elab.async false

/-! Well-formedness: one ill-formed term for each check of R50 and for each bound of an agent's operands. -/

def pr (e : BitVec 5) (dh ah w : Bool) : Pre := { Pre.none with pr := some { e := e, dh := dh, ah := ah, w := w } }
def px (l : List (BitVec 10)) : Pre := { Pre.none with px := l }
def po (n : BitVec 4) : Pre := { Pre.none with po := some n }
/-- An operation that answers at all answers some value. -/
theorem answered {ε α : Type} : ∀ x : Except ε α, x.toOption.isSome = true → ∃ y, x = .ok y
  | .ok y, _ => ⟨y, rfl⟩
/-- A host message's header on work queue 5 of tenant 0. -/
def onWork : Sqp := { mgmt := false, queue := 5, tenant := 0, seq := 0 }

theorem wf_accepts : WellFormed (.add ⟨Pre.none, 3, 5⟩) ∧ WellFormed (.vadd ⟨pr 3 true true true, 1, 2⟩) ∧
    WellFormed (.fence ⟨po 3, 0, 0⟩) ∧ WellFormed (.setAgeCap onWork 3071 64) := by decide
theorem wf_refuses_long_chain : ¬ WellFormed (.movi ⟨px [1, 2, 3, 4, 5], 1, 0⟩) := by decide
theorem wf_refuses_prefix_not_accepted : ¬ WellFormed (.add ⟨px [1], 3, 5⟩) := by decide
theorem wf_refuses_unused_field : ¬ WellFormed (.nop ⟨Pre.none, 1, 0⟩) := by decide
theorem wf_refuses_third_operand_without_w : ¬ WellFormed (.add ⟨pr 3 false false false, 3, 5⟩) := by decide
theorem wf_refuses_option : ¬ WellFormed (.fence ⟨po 4, 0, 0⟩) := by decide
theorem wf_refuses_predicate_number : ¬ WellFormed (.pnot ⟨Pre.none, 8, 0⟩) := by decide
theorem wf_refuses_stream_register : ¬ WellFormed (.sstop ⟨po 0, 7, 0⟩) := by decide
theorem wf_refuses_figure_without_page : ¬ WellFormed (.fig ⟨Pre.none, 1, 2⟩ 3 0) := by decide
theorem wf_refuses_figure_op31 : ¬ WellFormed (.fig ⟨po 0, 1, 2⟩ 31 0) := by decide
theorem wf_refuses_agent_numbers : ¬ WellFormed (.tokenArrival 0 262144) ∧ ¬ WellFormed (.slotReturn 0 262144) ∧
    ¬ WellFormed (.channelRebind 0 262144) ∧ ¬ WellFormed (.barrierArrival 0 64) ∧
    ¬ WellFormed (.sstepGenerationComplete 0 64) ∧ ¬ WellFormed (.lapClose 0 256) ∧
    ¬ WellFormed (.patternTokenFetch 0 8) ∧ ¬ WellFormed (.laneGroupBind 2048) ∧ ¬ WellFormed (.arrayGrant 2048) ∧
    ¬ WellFormed (.tileZeroingComplete 2048) ∧ ¬ WellFormed (.entryFinal 0 4 0) ∧ ¬ WellFormed (.cancelPropagate 0 0 65536) := by decide
theorem wf_refuses_port_numbers : ¬ WellFormed (.setAgeCap onWork 3072 64) ∧ ¬ WellFormed (.setAgeCap onWork 0 63) ∧
    ¬ WellFormed (.setHostPathTimeout onWork 9999) ∧ ¬ WellFormed (.setSqpUdpPort onWork 65536) ∧
    ¬ WellFormed (.repairRequest 12 0) ∧ ¬ WellFormed (.repairRequest 0 9) ∧ ¬ WellFormed (.repairGrant 12 0) ∧
    ¬ WellFormed (.laneMapSwitch 12) ∧ ¬ WellFormed (.linkRetrain 12 true) ∧ ¬ WellFormed (.linkDown 12) ∧
    ¬ WellFormed (.laneLossOfLock 0 9) ∧ ¬ WellFormed (.spanAcknowledgement 12 0) ∧
    ¬ WellFormed (.spanNegativeAcknowledgement 12 0) ∧ ¬ WellFormed (.ageingReplan 8 true) ∧ ¬ WellFormed (.clockRelock 8) := by decide

/-! Decoding: words from the tables of R41 to R57, field by field: op x 2^11 + d x 2^7 + a x 2^3 + f. The first six are the worked
example of the manual's chapter on encoding. -/

theorem decode_example :
    decodeWords [0xF824, 0x22B4] = .ok (.movi ⟨px [0x24], 5, 0x34⟩) 2 ∧
    decodeWords [0xF840, 0x432F] = .ok (.lea ⟨px [0x40], 6, 5⟩) 2 ∧
    decodeWords [0xFC04, 0xF808, 0x4236] = .ok (.ld ⟨{ pr 0 true false false with px := [8] }, 4, 6⟩) 3 ∧
    decodeWords [0xFC31, 0xFE28, 0x9A28] =
      .ok (.vadd ⟨{ pr 6 false false true with pp := some { pred := 1, inv := false, zero := true } }, 4, 5⟩) 3 ∧
    decodeWords [0xFD10, 0x0448] = .ok (.vsadd ⟨po 0, 8, 9⟩) 2 ∧
    decodeWords [0x5AF4] = .ok (.bnez ⟨Pre.none, 5, 0x74⟩) 1 := by decide

theorem decode_system : decodeWords [0x0001] = .ok (.exit ⟨Pre.none, 0, 0⟩) 1 ∧
    decodeWords [0xF801, 0x00B6] = .ok (.mfs ⟨px [1], 1, 6⟩) 2 := by decide
theorem decode_products : decodeWords [0xFC41, 0x1197] = .ok (.remu ⟨pr 8 false false true, 3, 2⟩) 2 := by decide
theorem decode_shift : decodeWords [0xF801, 0x28FA] = .ok (.srai ⟨px [1], 1, 15⟩) 2 := by decide
theorem decode_compare : decodeWords [0x3193] = .ok (.sltu ⟨Pre.none, 3, 2⟩) 1 := by decide
theorem decode_andi : decodeWords [0x38FF] = .ok (.andi ⟨Pre.none, 1, 0x7F⟩) 1 := by decide
theorem decode_store : decodeWords [0xFBFF, 0x491B] = .ok (.sd ⟨px [0x3FF], 2, 3⟩) 2 := by decide
theorem decode_branches : decodeWords [0x5105] = .ok (.beqz ⟨Pre.none, 2, 5⟩) 1 ∧
    decodeWords [0x6FFF] = .ok (.call ⟨Pre.none, 0x7FF⟩) 1 ∧ decodeWords [0x7002] = .ok (.ret ⟨Pre.none, 0, 0⟩) 1 ∧
    decodeWords [0xF803, 0x7014] = .ok (.bpf ⟨px [3], 0, 2⟩) 2 := by decide
theorem decode_queue : decodeWords [0x791A] = .ok (.qpush ⟨Pre.none, 2, 3⟩) 1 := by decide
theorem decode_lengths : decodeWords [0xF831, 0x8110] = .ok (.setvl ⟨px [0x31], 2, 2⟩) 2 ∧
    decodeWords [0x9181] = .ok (.cadd ⟨Pre.none, 3, 0⟩) 1 ∧ decodeWords [0x8913] = .ok (.pnot ⟨Pre.none, 2, 2⟩) 1 := by decide
theorem decode_vector : decodeWords [0xA097] = .ok (.vnot ⟨Pre.none, 1, 2⟩) 1 ∧
    decodeWords [0xA892] = .ok (.vclt ⟨Pre.none, 1, 2⟩) 1 ∧ decodeWords [0xB091] = .ok (.vsplat ⟨Pre.none, 1, 2⟩) 1 ∧
    decodeWords [0xC892] = .ok (.vredmax ⟨Pre.none, 1, 2⟩) 1 ∧ decodeWords [0xFD01, 0xD090] = .ok (.vcvt ⟨po 1, 1, 2⟩) 2 ∧
    decodeWords [0xD895] = .ok (.vrev ⟨Pre.none, 1, 2⟩) 1 ∧ decodeWords [0xE097] = .ok (.vabs ⟨Pre.none, 1, 2⟩) 1 := by decide
theorem decode_vector_memory : decodeWords [0xFC21, 0xB891] = .ok (.vlds ⟨pr 4 false false true, 1, 2⟩) 2 ∧
    decodeWords [0xF802, 0xC090] = .ok (.vst ⟨px [2], 1, 2⟩) 2 := by decide
theorem decode_page1 : decodeWords [0xFD10, 0x0897] = .ok (.vsparse ⟨po 0, 1, 2⟩) 2 := by decide
theorem decode_matrix : decodeWords [0xFD20, 0x0020] = .ok (.mxon ⟨po 0, 0, 4⟩) 2 ∧
    decodeWords [0xFD21, 0xF805, 0x0888] = .ok (.mrowv ⟨{ po 1 with px := [5] }, 1, 1⟩) 3 ∧
    decodeWords [0xFD20, 0x1095] = .ok (.rsq ⟨po 0, 1, 2⟩) 2 := by decide
theorem decode_streams : decodeWords [0xFD30, 0xFC04, 0x0410] =
      .ok (.sset ⟨{ pr 0 true false false with po := some 0 }, 8, 2⟩) 3 ∧
    decodeWords [0xFD30, 0x0891] = .ok (.cpyx ⟨po 0, 1, 2⟩) 2 ∧ decodeWords [0xFD38, 0x1094] = .ok (.mrsp ⟨po 8, 1, 2⟩) 2 := by decide
theorem decode_pools_networks : decodeWords [0xFD40, 0x0090] = .ok (.poolput ⟨po 0, 1, 2⟩) 2 ∧
    decodeWords [0xFD40, 0x0092] = .ok (.launch ⟨po 0, 1, 2⟩) 2 := by decide
theorem decode_traps_tables : decodeWords [0xFD50, 0x0000] = .ok (.tret ⟨po 0, 0, 0⟩) 2 ∧
    decodeWords [0xFD50, 0x0801] = .ok (.fgsel ⟨po 0, 0, 0⟩) 2 := by decide
theorem decode_random : decodeWords [0xFD60, 0x0087] = .ok (.rdctr ⟨po 0, 1, 0⟩) 2 := by decide
theorem decode_figure : decodeWords [0xFDF1, 0x1893] = .ok (.fig ⟨po 1, 1, 2⟩ 3 3) 2 := by decide
theorem decode_refuses_by_name :
    decodeWords [0xFF00, 0x0000] = .bad ⟨0x01, 0xFF00, 0⟩ 2 ∧ decodeWords [0xE800] = .bad ⟨0x06, 0xE800, 0⟩ 1 := by decide

/-! A small machine: one running process of tenant level on tile (0, 0), whose window 0 covers the local memory and grants everything. -/

/-- R31: base 0, limit 0x180000, r, w and x. -/
def winAll : Word := 0x7 * 2 ^ 48 + 0x180000 * 2 ^ 24

def decl0 : ProcDecl :=
  { entry := 0x1000, tenant := true, sup := false, pinned := false, allow := 4, share := 8, win := [winAll, 0, 0, 0], args := [7]
    hkind := 0, hint := 0, lx := 0, ly := 0, lc := 0, seg := 0, segLen := [0, 0, 0, 0] }

/-- Tenant level; vtype int32 in groups of one register (R23), five elements of 128. -/
def ctx0 : Ctx :=
  { pc := 0x1000, win := #v[winAll, 0, 0, 0], lvl := 1, place := some ⟨0, 0, 0⟩, mAllow := 4, vtype := 3, vlmax := 128, vl := 5 }

def proc0 : Proc := { net := 0, index := 0, decl := decl0, st := .running, started := true, ctx := ctx0 }

def scalarChan (w r : Nat) : ChanDecl :=
  { wproc := w, rproc := r, wend := 0, rend := 1, slots := 4, vector := false, discard := false }

/-- Channels 0 (scalar) and 1 (vector) from the process to itself, a pool that it reads and writes, and barriers. -/
def net0 : Net :=
  { nid := 7, index := 0, tenant := 1, image := 1, queue := 5, graph := 0, started := true, procs := [0]
    chans := [{ decl := scalarChan 0 0, slots := 4, free := 4 },
      { decl := { scalarChan 0 0 with vector := true }, slots := 4, free := 4 }]
    pools := [{ decl := { vector := false, slots := 4, members := [(0, 3, 1), (0, 4, 2)] }, slots := 4 }]
    bars := [{ id := 0, count := 1 }, { id := 63, count := 2 }], lap := 0, grow := 64 }

def ten1 : Tenant := { id := 1, tiles := [0], stackNos := [0], queues := [5], arr := 4, bank := [(0, 8)] }

def base : State :=
  { ctx := ctx0, cur := some 0, procs := [proc0], nets := [net0], tenants := [ten1] }

/-- The machine with a context changed, and with some general registers set. -/
def withCtx (f : Ctx → Ctx) : State := { base with ctx := f ctx0 }
def regs (l : List (Nat × Word)) : State := withCtx fun c => { c with g := l.foldl (fun v p => v.set! p.1 p.2) c.g }
def withNet (f : Net → Net) : State := { base with nets := [f net0] }
def x23 : F2 := ⟨Pre.none, 2, 3⟩
/-- The three-operand form on 2, 3 and 4. -/
def x234 : F2 := ⟨pr 4 false false true, 2, 3⟩

/-- Bytes of a number as canonical cells from a location on. -/
def cells (k n v : Nat) : Memory := ((List.range n).map fun i => (k + i, BitVec.ofNat 8 (v / 256 ^ i))).filter fun c => c.2 != 0

/-- A reading of the state behind an instruction. -/
def after {α : Type} (i : Instr) (s : State) (f : State → α) : Option α := match exec i s with
  | .next t => some (f t)
  | _ => none

theorem settledOf (m : Mach) (h : m.reqs = [] ∧ m.tileReqs = [] ∧ m.ctx.mq1Err = none ∧ m.ctx.mq0 = {} ∧ m.ctx.mq1 = {}) : Settled m :=
  have empty : ∀ k, k < 8 → (({} : Mq).tag k).kind ≠ .held := by decide
  ⟨h.1, h.2.1, h.2.2.1, h.2.2.2.1 ▸ empty, h.2.2.2.2 ▸ empty⟩

theorem plainOf (m : Mach) (h : m.ctx.streams = Vector.replicate 8 {} ∧ m.ctx.vBad = Vector.replicate 32 0 ∧
    m.ctx.pBad = Vector.replicate 8 0 ∧ m.ctx.fptrap = 0 ∧ m.ctx.rm ≠ 5) : Plain m :=
  ⟨fun _ => by rw [Ctx.stream, h.1, Vector.getElem?_replicate]; split <;> rfl,
    fun _ => by rw [h.2.1, Vector.getElem?_replicate]; split <;> rfl,
    fun _ => by rw [h.2.2.1, Vector.getElem?_replicate]; split <;> rfl, h.2.2.2.1, h.2.2.2.2⟩

theorem window (s : State) (off n : Nat) (rd wr : Bool) (h : s.ctx.win = #v[winAll, 0, 0, 0]) (k : off + n ≤ 0x180000) :
    OwnWindow s off n rd wr := by
  refine ⟨winAll, ?_, ?_, ?_, ?_, ?_⟩
  · rw [h]; decide
  · rw [show bitsAt winAll.toNat 0 24 = 0 by decide]; exact Nat.zero_le _
  · rw [show bitsAt winAll.toNat 24 24 = 0x180000 by decide]; exact k
  · intro _; decide
  · intro _; decide

theorem reaches (s : State) (a : Word) (n : Nat) (rd wr : Bool) (h : s.ctx.win = #v[winAll, 0, 0, 0] ∧ s.bad = [])
    (k : a.toNat + n ≤ 0x180000 ∧ a.toNat % n = 0) : Reaches s a n rd wr := by
  refine ⟨Nat.lt_of_le_of_lt (Nat.le_trans (Nat.le_add_right _ n) k.1) (by decide), k.2, k.1, window s _ n rd wr h.1 k.1, fun j _ => ?_⟩
  rw [h.2]; exact List.not_mem_nil

theorem ownBlock (s : State) (a : Word) (align n : Nat) (rd wr : Bool) (h : s.ctx.win = #v[winAll, 0, 0, 0] ∧ s.bad = [])
    (k : a.toNat + n ≤ 0x180000 ∧ a.toNat % align = 0) : OwnBlock s a align n rd wr := by
  refine ⟨Nat.lt_of_le_of_lt (Nat.le_trans (Nat.le_add_right _ n) k.1) (by decide), k.2, k.1, window s _ n rd wr h.1 k.1, fun j _ => ?_⟩
  rw [h.2]; exact List.not_mem_nil

/-! The step, scalar instructions and branches. -/

theorem witness_DecodeEncode : WellFormed (.vadd ⟨pr 31 true true true, 15, 15⟩) ∧
    encode (.vadd ⟨pr 31 true true true, 15, 15⟩) = some [0xFCFF, 0x9FF8] := by decide
theorem witness_EncodeDecode : decodeWords [0xF9FF, 0x4FFF, 0x1234] = .ok (.amocas ⟨px [0x1FF], 15, 15⟩) 2 := by decide

/-- `addi g2, 1` (0x1901) stands in the fetch buffer of process 0, whose turn is next. -/
def fetching : State := { withCtx (fun c => { c with fbuf := List.replicate 5 (0x1901, false) }) with turns := [.proc 0, .proc 0] }

theorem witness_StepRunsDecoded : fetching.turns = .proc 0 :: [.proc 0] ∧ fetching.mayRun 0 = true ∧
    decodeWords [0x1901] = .ok (.addi ⟨Pre.none, 2, 1⟩) [(0x1901 : Half)].length ∧
    (fetching.toMach.select 0).ctx.fbuf = [(0x1901 : Half)].map (fun w => (w, false)) ++ List.replicate 4 (0x1901, false) ∧
    (fetching.toMach.select 0).ctx.far = none ∧ (fetching.toMach.select 0).stalls (.addi ⟨Pre.none, 2, 1⟩) = false ∧
    ∀ j, j < [(0x1901 : Half)].length → ((fetching.toMach.select 0).ctx.pc.toNat + 2 * j) % 2 ^ 24 + 2 ≤ 0x180000 ∧
      ∃ w ∈ (fetching.toMach.select 0).ctx.win.toList,
        bitsAt w.toNat 0 24 ≤ ((fetching.toMach.select 0).ctx.pc.toNat + 2 * j) % 2 ^ 24 ∧
        ((fetching.toMach.select 0).ctx.pc.toNat + 2 * j) % 2 ^ 24 + 2 ≤ bitsAt w.toNat 24 24 ∧ w.getLsbD 50 = true := by
  refine ⟨by decide +kernel, by decide +kernel, by decide, by decide +kernel, rfl, by decide +kernel, ?_⟩
  intro j h
  obtain rfl : j = 0 := Nat.lt_one_iff.mp h
  exact ⟨by decide +kernel, winAll, by decide +kernel, by decide +kernel, by decide +kernel, by decide⟩
/-- 32 vector instructions of context 0 wait, and a `vadd` (0x9910) is next. -/
def clogged : State := { withCtx (fun c => { c with fbuf := List.replicate 5 (0x9910, false) }) with
  turns := [.proc 0]
  tiles := [{ id := 0, arb := { queues := (Vector.replicate 8 []).set! 0 (List.replicate 32 { matrix := false, cost := 1 }) } }] }
theorem witness_StepRunsDecoded_stall : clogged.turns = .proc 0 :: [] ∧ clogged.mayRun 0 = true ∧
    decodeWords [0x9910] = .ok (.vadd ⟨Pre.none, 2, 2⟩) [(0x9910 : Half)].length ∧
    (clogged.toMach.select 0).ctx.fbuf = [(0x9910 : Half)].map (fun w => (w, false)) ++ List.replicate 4 (0x9910, false) ∧
    (clogged.toMach.select 0).ctx.far = none ∧ (clogged.toMach.select 0).stalls (.vadd ⟨Pre.none, 2, 2⟩) = true := by
  refine ⟨rfl, by decide +kernel, by decide, by decide +kernel, rfl, by decide +kernel⟩

theorem test_step_runs_addi : (match Machine.step fetching with
    | .next t => decide (t.toMach.g 2 = 1 ∧ t.ctx.retired = 1 ∧ t.ctx.pc = 0x1002 ∧ t.turns = [.proc 0])
    | _ => false) = true := by decide +kernel

theorem witness_GeneralRegisters : 31 < 32 ∧ 0 < 32 := by decide
theorem test_g0 : after (.movi ⟨Pre.none, 0, 9⟩) base (fun t => t.toMach.g 0) = some 0 := by decide +kernel
theorem test_add_wraps : after (.add x23) (regs [(2, 0xFFFFFFFFFFFFFFFF), (3, 2)]) (fun t => t.toMach.g 2) = some 1 := by decide +kernel
theorem test_sub_three : after (.sub x234) (regs [(3, 5), (4, 7)]) (fun t => (t.toMach.g 2).toInt) = some (-2) := by decide +kernel
theorem test_mulhsu : after (.mulhsu x23) (regs [(2, 0xFFFFFFFFFFFFFFFF), (3, 0xFFFFFFFFFFFFFFFF)])
    (fun t => (t.toMach.g 2).toInt) = some (-1) := by decide +kernel
theorem test_sra : after (.sra x23) (regs [(2, 0x8000000000000000), (3, 0x7F)]) (fun t => (t.toMach.g 2).toInt) = some (-1) := by
  decide +kernel
/-- R94's table: division by zero and the overflow. -/
theorem test_div_by_zero : after (.div x23) (regs [(2, 5)]) (fun t => t.toMach.g 2) = some 0xFFFFFFFFFFFFFFFF ∧
    after (.rem x23) (regs [(2, 5)]) (fun t => t.toMach.g 2) = some 5 := by decide +kernel
theorem test_div_overflow : after (.div x23) (regs [(2, 0x8000000000000000), (3, 0xFFFFFFFFFFFFFFFF)])
    (fun t => t.toMach.g 2) = some 0x8000000000000000 := by decide +kernel
theorem test_slt_signed : after (.slt x23) (regs [(2, 0xFFFFFFFFFFFFFFFF), (3, 0)]) (fun t => t.toMach.g 2) = some 1 ∧
    after (.sltu x23) (regs [(2, 0xFFFFFFFFFFFFFFFF), (3, 0)]) (fun t => t.toMach.g 2) = some 0 := by decide +kernel
theorem test_clz : after (.clz x23) (regs [(3, 1)]) (fun t => t.toMach.g 2) = some 63 ∧
    after (.ctz x23) (regs [(3, 0)]) (fun t => t.toMach.g 2) = some 64 := by decide +kernel
theorem test_sextw : after (.sextw x23) (regs [(3, 0x80000000)]) (fun t => t.toMach.g 2) = some 0xFFFFFFFF80000000 := by decide +kernel
theorem test_addi_negative : after (.addi ⟨Pre.none, 2, 0x7F⟩) base (fun t => (t.toMach.g 2).toInt) = some (-1) := by decide +kernel

/-- Counts 63 and 64 are the edge of R95. -/
theorem witness_ScalarImmediate : (⟨{ pr 0 false true false with px := [1] }, 2, 15⟩ : F2).aImm = 63 ∧ 63 < (⟨px [2], 2, 0⟩ : F2).aImm := by decide

/-- g3 at the last doubleword of the local memory. -/
def atTop : State := regs [(3, 0x17FFF8), (2, 0x1122334455667788)]
theorem witness_LoadsOwnTile : Reaches atTop (addrOf atTop x23) 8 true false :=
  reaches _ _ _ _ _ ⟨rfl, rfl⟩ (by decide +kernel)
theorem witness_StoresOwnTile : Reaches atTop (addrOf atTop x23) 8 false true ∧ Memory.wf atTop.mem = true :=
  ⟨reaches _ _ _ _ _ ⟨rfl, rfl⟩ (by decide +kernel), rfl⟩
theorem witness_AtomicsOwnTile : Reaches atTop (addrOf atTop x234) 8 true true ∧
    ∃ d, atTop.toMach.release = .ok d ∧ Memory.wf d.mem = true ∧ unitOf (ownKey atTop (addrOf atTop x234)) ∉ d.bad :=
  ⟨reaches _ _ _ _ _ ⟨rfl, rfl⟩ (by decide +kernel), _, rfl, rfl, List.not_mem_nil⟩
/-- Process 1 of the same network on tile 1 with a window that it exports; g3 holds an address. -/
def winX : Word := winAll + 0x8000000000000
def neighbour (a : Word) : State := { regs [(3, a), (4, 7), (2, 0x1234)] with
  procs := [proc0, { proc0 with index := 1, ctx := { ctx0 with place := some ⟨1, 0, 0⟩, win := #v[winX, 0, 0, 0] } }]
  nets := [{ net0 with procs := [0, 1] }] }
/-- Offset 0x40 of tile 1: tile-absolute, and one tile to the east; and of the own tile, which is 0 to the east. -/
def east (n : Nat) : Word := BitVec.ofNat 64 (2 ^ 63 + 2 ^ 30 * n + 0x40)
def atOne : Word := 0x4000000040000040
theorem exportedOne (a : Word) (n : Nat) (rd wr : Bool) (h : 0x40 + n ≤ 0x180000) : ExportedWindow (neighbour a) 1 0x40 n rd wr := by
  refine ⟨1, _, 0, ⟨(by decide : 1 < 2), rfl, rfl⟩, rfl, rfl, rfl, ⟨winX, (by decide : winX ∈ (#v[winX, 0, 0, 0] : Vector Word 4).toList), by decide, ?_, ?_, fun _ => by decide, fun _ => by decide⟩, fun j hj hn => ?_⟩
  · rw [show bitsAt winX.toNat 0 24 = 0 by decide]; exact Nat.zero_le _
  · rw [show bitsAt winX.toNat 24 24 = 0x180000 by decide]; exact h
  · rcases j with _ | _ | j
    · exact absurd hj.2.2 (by rw [show ((neighbour a).toMach.ctxOf 0).tile = 0 from rfl]; decide)
    · exact absurd rfl hn
    · exact absurd hj.1 (by show ¬ j + 2 < 2; omega)
theorem absolute (s : State) (a : Word) (off x y : Nat) (h : a.toNat / 2 ^ 62 = 1 ∧ off = a.toNat % 2 ^ 24 ∧ a.toNat / 2 ^ 37 % 2 ^ 25 = 0 ∧
    x < 64 ∧ y < 32 ∧ x = a.toNat / 2 ^ 30 % 2 ^ 7 ∧ y = a.toNat / 2 ^ 24 % 2 ^ 6) : TileNamed s a (64 * y + x) off := by
  obtain ⟨h, ho, hz, hx, hy, ex, ey⟩ := h
  refine ⟨ho, hz, x, y, hx, hy, rfl, ?_⟩
  rw [h]; exact ⟨ex, ey⟩
theorem relative (s : State) (a : Word) (off x y : Nat) (h : a.toNat / 2 ^ 62 = 2 ∧ off = a.toNat % 2 ^ 24 ∧ a.toNat / 2 ^ 37 % 2 ^ 25 = 0 ∧ x < 64 ∧
    y < 32 ∧ (x : Int) = (s.here % 64 : Nat) + ((a.toNat / 2 ^ 30 % 2 ^ 7 : Nat) : Int).bmod (2 ^ 7) ∧
    (y : Int) = (s.here / 64 : Nat) + ((a.toNat / 2 ^ 24 % 2 ^ 6 : Nat) : Int).bmod (2 ^ 6)) : TileNamed s a (64 * y + x) off := by
  obtain ⟨h, ho, hz, hx, hy, ex, ey⟩ := h
  refine ⟨ho, hz, x, y, hx, hy, rfl, ?_⟩
  rw [h]; exact ⟨ex, ey⟩
theorem reachesOne (a : Word) (n : Nat) (rd wr : Bool) (ha : a ∈ [atOne, east 1]) (h : 0x40 + n ≤ 0x180000) (k : 0x40 % n = 0) :
    ReachesTile (neighbour a) a 1 0x40 n rd wr := by
  refine ⟨?_, k, h, .inr (exportedOne a n rd wr h), fun _ _ => List.not_mem_nil⟩
  simp only [List.mem_cons, List.not_mem_nil, or_false] at ha
  rcases ha with rfl | rfl
  · exact absolute _ _ _ 1 0 (by decide +kernel)
  · exact relative _ _ _ 1 0 (by decide +kernel)
theorem addrX23 (a : Word) : addrOf (neighbour a) x23 = a :=
  (congrArg (BitVec.ofInt 64) (Int.add_zero _)).trans ((BitVec.ofInt_natCast 64 a.toNat).trans (by simp))
theorem witness_LoadsElsewhere : ∀ a ∈ [atOne, east 1], addrOf (neighbour a) x23 = a ∧ ReachesTile (neighbour a) a 1 0x40 8 true false ∧
    1 ≠ (neighbour a).here ∧ ∀ j, j < 8 → unitOf (Key.tile 1 0x40 + j) ∉ ((neighbour a).toMach.drainTiles (neighbour a).toMach.self (some 1)).bad :=
  fun a h => ⟨addrX23 a, reachesOne a 8 _ _ h (by decide) (by decide), (by decide : (1 : Nat) ≠ 0), fun _ _ => List.not_mem_nil⟩
theorem witness_StoresElsewhere : (∀ a ∈ [atOne, east 1], ReachesTile (neighbour a) a 1 0x40 8 false true) ∧
    addrOf (neighbour (east 0)) x23 = east 0 ∧ ReachesTile (neighbour (east 0)) (east 0) 0 0x40 8 false true ∧ Memory.wf (neighbour (east 0)).mem = true :=
  ⟨fun a h => reachesOne a 8 _ _ h (by decide) (by decide), by decide +kernel,
    ⟨relative _ _ _ 0 0 (by decide +kernel), by decide, by decide,
      .inl ⟨rfl, window _ _ _ _ _ rfl (by decide)⟩, fun _ _ => List.not_mem_nil⟩, rfl⟩
theorem witness_AtomicsElsewhere : ∀ a ∈ [atOne, east 1], ReachesTile (neighbour a) a 1 0x40 8 true true ∧
    ∃ e, (neighbour a).toMach.release = .ok e ∧ Memory.wf (e.drainTiles e.self (some 1)).mem = true ∧ (e.drainTiles e.self (some 1)).bad = [] :=
  fun a h => ⟨reachesOne a 8 _ _ h (by decide) (by decide), _, rfl, rfl, rfl⟩
/-- A misaligned address, one with bit 37 set, tile x = 64, an offset beyond the local memory, and a tile without an exported window. -/
theorem witness_ElsewhereTraps : (2 ^ 62 ≤ atOne.toNat ∧ (east 1).toNat < 3 * 2 ^ 62) ∧ (atOne + 1).toNat % 8 ≠ 0 ∧
    (atOne + 0x2000000000).toNat / 2 ^ 37 % 2 ^ 25 ≠ 0 ∧
    (let a : Word := 0x4000001000000000; a.toNat / 2 ^ 37 % 2 ^ 25 = 0 ∧ ¬ ∃ t off, TileNamed base a t off) ∧
    (TileNamed base (atOne + 0x17FFC0) 1 0x180000 ∧ 0x180000 < 0x180000 + 8 ∧ 0x180000 < 0x800000) ∧
    TileNamed base atOne 1 0x40 ∧ base.toMach.tileAllows 1 0x40 8 true false = false := by
  refine ⟨by decide +kernel, by decide +kernel, by decide +kernel, ⟨by decide +kernel, ?_⟩, ⟨absolute _ _ _ 1 0 (by decide +kernel), by decide, by decide⟩,
    absolute _ _ _ 1 0 (by decide +kernel), by decide +kernel⟩
  rintro ⟨t, off, -, -, x, y, hx, -, -, h⟩
  have h : x = 64 ∧ y = 0 := h
  omega
theorem test_load_elsewhere : after (.lw x23) { neighbour (east 1) with mem := cells (Key.tile 1 0x40) 4 0x80000001 } (fun t => t.toMach.g 2) =
    some 0xFFFFFFFF80000001 := by decide +kernel
theorem test_store_elsewhere : after (.sh x23) (neighbour atOne) (fun t => (t.mem, t.tileReqs.map fun q => (q.loc, q.bytes))) =
    some ([], [(Key.tile 1 0x40, [0x34, 0x12])]) := by decide +kernel
/-- The control page's first byte and its last doubleword, at both levels. -/
def atPage (a : Word) (l : BitVec 2) : State := { regs [(3, a)] with ctx := { (regs [(3, a)]).ctx with lvl := l } }
theorem witness_ControlAccesses : (∀ l, 0x800000 ≤ (addrOf (atPage 0x800000 l) x23).toNat ∧ (addrOf (atPage 0x800000 l) x23).toNat < 0x810000 ∧
      (addrOf (atPage 0x800000 l) x23).toNat % 8 = 0) ∧
    (addrOf (atPage 0x80FFF8 1) x23).toNat < 0x810000 ∧ (addrOf (atPage 0x80FFF8 1) x23).toNat % 8 = 0 ∧
    (atPage 0x800000 0).ctx.lvl = 0 ∧ (atPage 0x80FFF8 1).ctx.lvl ≠ 0 ∧
    ∀ j, j < 8 → unitOf (ownKey (atPage 0x80FFF8 1) (addrOf (atPage 0x80FFF8 1) x23) + j) ∉ (atPage 0x80FFF8 1).bad :=
  ⟨by decide +kernel, by decide +kernel, by decide +kernel, rfl, by decide, fun _ _ => List.not_mem_nil⟩

theorem test_store_byte_order : after (.sh x23) atTop (fun t => (Mem.get t.mem (Key.tile 0 0x17FFF8), Mem.get t.mem (Key.tile 0 0x17FFF9),
    Mem.get t.mem (Key.tile 0 0x17FFFA))) = some (0x88, 0x77, 0) := by decide +kernel
theorem test_load_signed : after (.lb x23) { atTop with mem := [(Key.tile 0 0x17FFF8, 0x80)] } (fun t => (t.toMach.g 2).toInt) = some (-128) ∧
    after (.lbu x23) { atTop with mem := [(Key.tile 0 0x17FFF8, 0x80)] } (fun t => t.toMach.g 2) = some 128 := by decide +kernel
theorem test_amoadd : after (.amoadd x234) { regs [(3, 0x40), (4, 0xFF)] with mem := [(Key.tile 0 0x40, 1)] }
    (fun t => (t.toMach.g 2, Mem.nat t.mem (Key.tile 0 0x40) 8)) = some (1, 0x100) := by decide +kernel

/-- A register at an odd address, one above the local space, one beyond the local memory, one that no window covers. -/
def windowless : State := { regs [(3, 0x40)] with ctx := { (regs [(3, 0x40)]).ctx with win := #v[0, 0, 0, 0] } }
theorem witness_AccessTraps :
    ((addrOf (regs [(3, 0x41)]) x23).toNat < 2 ^ 62 ∧ (addrOf (regs [(3, 0x41)]) x23).toNat % 8 ≠ 0) ∧
    ((addrOf (regs [(3, 0x1000000)]) x23).toNat < 2 ^ 62 ∧ (addrOf (regs [(3, 0x1000000)]) x23).toNat % 8 = 0 ∧
      2 ^ 24 ≤ (addrOf (regs [(3, 0x1000000)]) x23).toNat) ∧
    (LocalAddr (addrOf (regs [(3, 0x180000)]) x23) ∧ (addrOf (regs [(3, 0x180000)]) x23).toNat % 8 = 0 ∧
      0x180000 < (addrOf (regs [(3, 0x180000)]) x23).toNat + 8 ∧
      ((addrOf (regs [(3, 0x180000)]) x23).toNat < 0x800000 ∨ 0x810000 ≤ (addrOf (regs [(3, 0x180000)]) x23).toNat)) ∧
    (LocalAddr (addrOf windowless x23) ∧ (addrOf windowless x23).toNat % 8 = 0 ∧ (addrOf windowless x23).toNat + 8 ≤ 0x180000 ∧
      windowless.toMach.tileAllows windowless.here (addrOf windowless x23).toNat 8 true false = false) := by
  unfold LocalAddr; decide +kernel

theorem test_misaligned : after (.ld x23) { regs [(3, 0x41)] with ctx := { (regs [(3, 0x41)]).ctx with tdeleg := 0, tvec := 0x2000 } }
    (fun t => (t.ctx.tcause, t.ctx.tval, t.ctx.tpc, t.ctx.pc, t.ctx.act)) = some (0x03, 0x41, 0x1000, 0x2000, true) := by decide +kernel

theorem test_branch_back : after (.bnez ⟨Pre.none, 3, 0x74⟩) (regs [(3, 1)]) (fun t => t.ctx.pc) = some 0xFE8 ∧
    after (.beqz ⟨Pre.none, 3, 0x74⟩) (regs [(3, 1)]) (fun t => t.ctx.pc) = some 0x1002 := by decide +kernel
theorem test_call_links : after (.call ⟨Pre.none, 5⟩) base (fun t => (t.toMach.g 1, t.ctx.pc)) = some (0x1002, 0x100A) := by decide +kernel

theorem witness_PredicateBranches : base.ctx.pBad[(⟨Pre.none, 0, 2⟩ : F2).aN]?.getD 0 = 0 := by decide
theorem test_bpf_empty : after (.bpf ⟨px [3], 0, 2⟩) base (fun t => t.ctx.pc) = some 0x1008 := by decide +kernel

/-- The highest even offset, the odd one above it, and the first beyond the 24 bits. -/
theorem witness_RegisterBranches :
    (((regs [(3, 0xFFFFFE)]).toMach.g x23.aN).toNat < 2 ^ 24 ∧ ((regs [(3, 0xFFFFFE)]).toMach.g x23.aN).toNat % 2 = 0) ∧
    (((regs [(1, 0xFFFFFE)]).toMach.g 1).toNat < 2 ^ 24 ∧ ((regs [(1, 0xFFFFFE)]).toMach.g 1).toNat % 2 = 0) ∧
    ((regs [(3, 0xFFFFFF)]).toMach.g x23.aN).toNat % 2 = 1 ∧ ((regs [(1, 0xFFFFFF)]).toMach.g 1).toNat % 2 = 1 ∧
    (((regs [(3, 0x1000000)]).toMach.g x23.aN).toNat % 2 = 0 ∧ 2 ^ 24 ≤ ((regs [(3, 0x1000000)]).toMach.g x23.aN).toNat) ∧
    (((regs [(1, 0x1000000)]).toMach.g 1).toNat % 2 = 0 ∧ 2 ^ 24 ≤ ((regs [(1, 0x1000000)]).toMach.g 1).toNat) ∧
    (0x180000 < ((regs [(3, 0x180000)]).toMach.g x23.aN).toNat + 2 ∧
      (after (.jr x23) (regs [(3, 0x180000)]) fun t => t.ctx.pc) = some 0x180000) := by decide +kernel

/-! System instructions and traps. -/

theorem settled_base : Settled base.toMach := settledOf _ ⟨rfl, rfl, rfl, rfl, rfl⟩
theorem plain_base : Plain base.toMach := plainOf _ ⟨rfl, rfl, rfl, rfl, by decide⟩

theorem witness_NopIfsyncFence : Settled base.toMach := settled_base

/-- Numbers 0x1F and 0x20 are the edge of R21. -/
theorem witness_ReadSpecial : (⟨{ pr 0 false true false with px := [0] }, 2, 15⟩ : F2).aImm ≤ 0x1F ∧ 0x1F < (⟨px [1], 2, 0⟩ : F2).aImm := by
  decide
theorem test_mfs_ctxid : after (.mfs ⟨Pre.none, 2, 6⟩) (withCtx fun c => { c with place := some ⟨17, 31, 7⟩ }) (fun t => t.toMach.g 2) =
    some 0x00000005001F1107 := by decide +kernel
/-- tpc (0x12) at any level, win0 (0x18) at tenant level and below it, quota, vl, and a number above the last. -/
def atSpr (n : BitVec 4) (hi : Bool) : F2 := ⟨pr 0 false hi false, 2, n⟩
def processLevel : State := withCtx fun c => { c with lvl := 0 }
theorem witness_WriteSpecial : (atSpr 2 true).aImm ∈ [0x04, 0x0C, 0x0D, 0x12, 0x15, 0x16, 0x17] ∧
    ((atSpr 8 true).aImm ∈ [0x05, 0x0B, 0x18, 0x19, 0x1A, 0x1B] ∧ base.ctx.lvl ≠ 0) ∧ processLevel.ctx.lvl = 0 ∧
    (atSpr 13 true).aImm = 0x1D ∧ (atSpr 0 false).aImm ∈ [0x00, 0x01, 0x02, 0x03, 0x06, 0x07, 0x08] ∧
    0x1F < (⟨px [1], 2, 0⟩ : F2).aImm := by decide +kernel
theorem test_mts_tpc : after (.mts (atSpr 2 true)) (regs [(2, 0x1235)]) (fun t => t.ctx.tpc) = some 0x1234 := by decide +kernel

/-- Local handling of every cause that may be handled so, with the handler at 0x2000. -/
def handled : State := withCtx fun c => { c with tdeleg := 0, tvec := 0x2001 }
theorem witness_ServiceCallEntry : LocalTrap handled 0x13 ∧ LocalTrap handled 0x14 := by unfold LocalTrap; decide +kernel
theorem test_svc : after (.svc ⟨px [2], 0, 9⟩) handled (fun t => (t.ctx.tcause, t.ctx.tval, t.ctx.tpc, t.ctx.pc)) =
    some (0x13, 73, 0x1004, 0x2000) := by decide +kernel
theorem witness_LocalHandlerEntry : LocalTrap handled 28 ∧ LocalTrap handled 1 ∧ 7 < 8 ∧ 15 < 16 ∧ 255 < 256 ∧ 1023 < 1024 ∧
    2 ^ 32 - 1 < 2 ^ 32 := by unfold LocalTrap; decide +kernel

/-- No supervisor; and a live supervisor as process 1. -/
def withSup : State := { base with
  procs := [proc0, { proc0 with index := 1, decl := { decl0 with sup := true } }], nets := [{ net0 with procs := [0, 1] }] }
theorem witness_RemoteTrapParks : ¬ LocalTrap base 0x13 ∧ base.cur = some 0 ∧ base.procs[0]? = some proc0 ∧ proc0.net = 0 ∧
    base.nets[0]? = some net0 ∧ base.toMach.supOf 0 = none := by
  refine ⟨?_, ?_⟩
  · unfold LocalTrap; decide +kernel
  · decide +kernel
theorem witness_RemoteTrapParks_supervisor : ¬ LocalTrap withSup 0x13 ∧ withSup.cur = some 0 ∧ withSup.procs[0]? = some proc0 ∧
    withSup.nets[0]? = some { net0 with procs := [0, 1] } ∧ withSup.toMach.supOf 0 = some 1 ∧
    withSup.procs[1]?.map (·.st) = some .running := by
  refine ⟨?_, ?_⟩
  · unfold LocalTrap; decide +kernel
  · decide +kernel
/-- A network whose home is the other package's hub. -/
theorem witness_RemoteTrapParks_guest : let s := withNet fun x => { x with guest := true }
    ¬ LocalTrap s 0x13 ∧ s.cur = some 0 ∧ s.procs[0]? = some proc0 ∧ s.nets[0]? = some { net0 with guest := true } := by
  refine ⟨?_, rfl, rfl, rfl⟩
  unfold LocalTrap; decide +kernel
theorem test_parks : after (.brk ⟨Pre.none, 0, 0⟩) base (fun t => (t.procs.map (·.st), t.procs.map (·.park), t.nets.map (·.fatal))) =
    some ([.parked], [0x1002], [true]) := by decide +kernel

theorem witness_TrapReturn : (withCtx fun c => { c with act := true }).ctx.act = true ∧ base.ctx.act = false := by decide +kernel
theorem test_tret : after (.tret ⟨po 0, 0, 0⟩) (withCtx fun c => { c with act := true, tpc := 0x3002 }) (fun t => (t.ctx.pc, t.ctx.act)) =
    some (0x3002, false) := by decide +kernel
theorem witness_ExitEndsProcess : base.cur = some 0 ∧ base.procs[0]? = some proc0 ∧ proc0.net = 0 ∧ base.nets[0]? = some net0 ∧
    Settled base.toMach ∧ base.copies = [] ∧ base.nears = [] ∧ base.resids = [] ∧ base.ctx.faults = [] :=
  ⟨rfl, rfl, rfl, rfl, settled_base, rfl, rfl, rfl, rfl⟩
theorem witness_ExitEndsProcess_guest : let s := withNet fun x => { x with guest := true }
    s.nets[0]? = some { net0 with guest := true } ∧ Settled s.toMach := ⟨rfl, settledOf _ ⟨rfl, rfl, rfl, rfl, rfl⟩⟩
theorem test_exit : after (.exit ⟨Pre.none, 0, 0⟩) base (fun t => (t.procs.map (·.st), (t.nets.flatMap (·.chans)).map (·.rExited))) =
    some ([.exited], [true, true]) := by decide +kernel

/-! Queues. -/

/-- q3 is bound to channel 0 for reading, whose buffer holds `l`. -/
def reading (l : List Tok) : State := { withNet (fun x => { x with chans := x.chans.modify 0 fun c => { c with buf := l } }) with
  ctx := { ctx0 with q := ctx0.q.set! 3 (some { kind := .chan, write := false, id := 0 }) } }
/-- q2 is bound to channel 0 for writing. -/
def writing (f : Chan → Chan) : State := { withNet (fun x => { x with chans := x.chans.modify 0 f }) with
  ctx := { ctx0 with g := ctx0.g.set! 3 0x55, q := ctx0.q.set! 2 (some { kind := .chan, write := true, id := 0 }) } }

theorem witness_QueuePops (l : List Tok) : ∃ c, (reading l).toMach.chan 0 = some c ∧ c.buf = l ∧ c.rebind = false ∧
    (reading l).ctx.qb x23.aN = some { kind := .chan, write := false, id := 0 } := ⟨_, rfl, rfl, rfl, rfl⟩
/-- Channel 0 while it is being re-bound. -/
def rebinding (s : State) : State := { s with nets := s.nets.map fun x => { x with chans := x.chans.modify 0 fun c => { c with rebind := true } } }
theorem witness_QueuePops_rebind : (∃ c, (rebinding (reading [.scalar 9])).toMach.chan 0 = some c ∧ c.rebind = true) ∧
    (rebinding (reading [.scalar 9])).ctx.qb x23.aN = some { kind := .chan, write := false, id := 0 } := ⟨⟨_, rfl, rfl⟩, rfl⟩
theorem test_qpop : after (.qpop x23) (reading [.scalar 9, .eos]) (fun t => (t.toMach.g 2, (t.toMach.chan 0).map fun c => (c.buf, c.returns))) =
    some (9, some ([.eos], 1)) := by decide +kernel
theorem test_qpopb_end : after (.qpopb ⟨px [4], 2, 3⟩) (reading [.eos]) (fun t => (t.ctx.pc, (t.toMach.chan 0).map (·.buf))) =
    some (0x100A, some [.eos]) := by decide +kernel
theorem witness_QueueTraps : base.ctx.qb x23.aN = none ∧ base.ctx.qb x23.dN = none ∧
    (writing id).ctx.qb (⟨Pre.none, 3, 2⟩ : F2).aN = some { kind := .chan, write := true, id := 0 } ∧
    (reading []).ctx.qb (⟨Pre.none, 3, 2⟩ : F2).dN = some { kind := .chan, write := false, id := 0 } := by decide +kernel
/-- A channel with a free slot, one that is closed, one without a free slot. -/
theorem witness_QueuePushes : ∃ a b c, (writing id).toMach.chan 0 = some a ∧
    (writing fun c => { c with closed := true }).toMach.chan 0 = some b ∧ (writing fun c => { c with free := 0 }).toMach.chan 0 = some c ∧
    Settled (writing id).toMach ∧ (writing id).ctx.qb x23.dN = some { kind := .chan, write := true, id := 0 } ∧
    (a.closed = false ∧ a.rExited = false ∧ a.rebind = false ∧ 0 < a.free) ∧ b.closed = true ∧ c.closed = false ∧ c.rExited = false ∧ c.free = 0 :=
  ⟨_, _, _, rfl, rfl, rfl, settledOf _ ⟨rfl, rfl, rfl, rfl, rfl⟩, rfl, ⟨rfl, rfl, rfl, by decide⟩, rfl, rfl, rfl, rfl⟩
theorem witness_QueuePushes_rebind : ∃ c, (rebinding (writing id)).toMach.chan 0 = some c ∧ c.closed = false ∧ c.rExited = false ∧
    c.rebind = true ∧ (rebinding (writing id)).ctx.qb x23.dN = some { kind := .chan, write := true, id := 0 } := ⟨_, rfl, rfl, rfl, rfl, rfl⟩
theorem test_qpush : after (.qpush x23) (writing id) (fun t => (t.toMach.chan 0).map fun c => (c.flight, c.free, c.pushes)) =
    some (some ([.scalar 0x55], 3, 1)) := by decide +kernel
theorem test_qclose : after (.qclose x23) (writing id) (fun t => (t.toMach.chan 0).map fun c => (c.flight, c.closed)) =
    some (some ([.eos], true)) := by decide +kernel

/-- A descriptor of the write end of channel 0 in g3. -/
theorem witness_QueueBinding : x23.dN < 16 ∧ ¬ (base.toMach.isSup = true ∧ x23.dN = 15) ∧
    (∃ c, (regs [(3, 2)]).toMach.chan 0 = some c ∧ c.decl.vector = false ∧ 0 < 2 ^ 18 ∧
      (if true then c.decl.wproc else c.decl.rproc) = (regs [(3, 2)]).ctx.idx.toNat) ∧
    (regs [(3, 2)]).toMach.g x23.aN = BitVec.ofNat 64 (0 * 2 ^ 32 + if true then 2 else 1) ∧ (regs [(3, 2)]).ctx.qb x23.dN = none ∧
    (∀ b, some b ∈ (regs [(3, 2)]).ctx.q.toList → ¬ (b.kind = .chan ∧ b.id = 0 ∧ b.write = true)) ∧
    ∀ j, ((regs [(3, 2)]).ctx.stream j).on = false := by
  refine ⟨by decide, by decide +kernel, ⟨_, rfl, rfl, by decide, rfl⟩, by decide +kernel, rfl, fun b h => ?_,
    (plainOf (regs [(3, 2)]).toMach ⟨rfl, rfl, rfl, rfl, by decide⟩).streams⟩
  have : (regs [(3, 2)]).ctx.q.toList = List.replicate 16 none := rfl
  rw [this] at h
  exact absurd (List.eq_of_mem_replicate h) (by simp)
theorem test_qbind : after (.qbind x23) (regs [(3, 2)]) (fun t => t.ctx.qb 2) = some (some { kind := .chan, write := true, id := 0 }) := by
  decide +kernel

/-- q2 is bound to the pool for writing, q3 for reading; the second state holds a token that a lap close has handed out. -/
def pooling : State := withCtx fun c => { c with
  q := (c.q.set! 2 (some { kind := .pool, write := true, id := 0 })).set! 3 (some { kind := .pool, write := false, id := 0 }) }
def pooled : State := { pooling with ctx := { pooling.ctx with issued := { got := some (.scalar 9) } } }
theorem witness_PoolPutGet : ∃ p, pooling.toMach.pool 0 = some p ∧ Settled pooling.toMach ∧ 0 < p.free ∧
    pooling.ctx.qb x23.dN = some { kind := .pool, write := true, id := 0 } ∧ pooled.ctx.issued.got = some (.scalar 9) ∧
    pooled.ctx.qb x23.aN = some { kind := .pool, write := false, id := 0 } :=
  ⟨_, rfl, settledOf _ ⟨rfl, rfl, rfl, rfl, rfl⟩, by decide, rfl, rfl, rfl⟩
theorem test_poolget : after (.poolget ⟨po 0, 2, 3⟩) pooled (fun t => t.toMach.g 2) = some 9 := by decide +kernel

/-! Vector length, predicates, counters, barriers. -/

/-- `setvl g2, g3` with vtype 3 (int32) in one PX word, and its form with the keep mask 5. -/
def setvl3 : F2 := ⟨px [3], 2, 3⟩
def setvlK : F2 := ⟨{ po 1 with px := [5, 3] }, 2, 3⟩
theorem witness_SetVectorLength : keepOf setvlK.pre = some (5 : Byte) ∧ LegalVtype (pxValue (restPx setvlK.pre)) ∧
    keepOf setvl3.pre = some (0 : Byte) ∧ LegalVtype (pxValue (restPx setvl3.pre)) ∧ NoRequest base := by
  refine ⟨by decide, by unfold LegalVtype; decide, by decide, by unfold LegalVtype; decide, fun k p h => ?_⟩
  cases h; intro h; cases h; rfl
/-- A reserved format, code 13 (R64); and a .k form with its vtype only, which has no keep mask. -/
theorem witness_SetVectorLength_illegal : keepOf (⟨px [13], 2, 3⟩ : F2).pre = some (0 : Byte) ∧
    ¬ LegalVtype (pxValue (restPx (⟨px [13], 2, 3⟩ : F2).pre)) ∧ keepOf (⟨po 1, 2, 3⟩ : F2).pre = none := by
  unfold LegalVtype; decide
theorem test_setvl : after (.setvl setvl3) (regs [(3, 200)]) (fun t => (t.toMach.g 2, t.ctx.vl, t.ctx.vlmax)) = some (128, 128, 128) := by
  decide +kernel
theorem test_keep : after (.setvl setvlK) (withCtx fun c => { c with v := Vector.replicate 32 9 })
    (fun t => (t.ctx.vr 3, t.ctx.vr 4, t.ctx.vr 8)) = some (9, 0, 9) := by decide +kernel
theorem witness_StripAdvances : keepOf (⟨Pre.none, 2, 0⟩ : F2).pre = some (0 : Byte) ∧ base.ctx.stripset.getLsbD 31 = false ∧
    NoRequest base := by
  refine ⟨by decide, by decide, fun k p h => ?_⟩
  cases h; intro h; cases h; rfl
/-- A watermark at 0x80 (g4) that has reached `w`; slot 0 is g5 with elements of four bytes, or there is no slot; g2 elements remain. -/
def marking (cnt n : Nat) (w : Nat) : State := { regs [(2, BitVec.ofNat 64 n), (4, 0x80), (5, 0x1000)] with
  ctx := { (regs [(2, BitVec.ofNat 64 n), (4, 0x80), (5, 0x1000)]).ctx with stripset := BitVec.ofNat 64 (5 + 2 * 32 + cnt * 2 ^ 28 + 2 ^ 31 + 4 * 2 ^ 32) }
  mem := cells (Key.tile 0 0x80) 8 w }
theorem witness_StripAdvances_mark : let s := marking 1 8 0x1020
    NoRequest s ∧ s.ctx.stripset.getLsbD 31 = true ∧ MarksSlot s ∧ (s.toMach.g 2).toNat - s.ctx.vl = 3 ∧
    Reaches s (s.toMach.g (bitsAt s.ctx.stripset.toNat 32 5)) 8 true false ∧
    stripGoal s 3 ≤ Mem.nat s.mem (ownKey s (s.toMach.g (bitsAt s.ctx.stripset.toNat 32 5))) 8 := by
  refine ⟨fun k p h => ?_, by decide +kernel, by unfold MarksSlot; decide +kernel, by decide +kernel,
    reaches _ _ _ _ _ ⟨rfl, rfl⟩ (by decide +kernel), by decide +kernel⟩
  cases h; intro h; cases h; rfl
theorem witness_StripAdvances_wait : let s := marking 1 8 0x101F
    s.ctx.stripset.getLsbD 31 = true ∧ MarksSlot s ∧ (s.toMach.g 2).toNat - s.ctx.vl ≠ 0 ∧
    Reaches s (s.toMach.g (bitsAt s.ctx.stripset.toNat 32 5)) 8 true false ∧
    Mem.nat s.mem (ownKey s (s.toMach.g (bitsAt s.ctx.stripset.toNat 32 5))) 8 < stripGoal s 3 :=
  ⟨by decide +kernel, by unfold MarksSlot; decide +kernel, by decide +kernel, reaches _ _ _ _ _ ⟨rfl, rfl⟩ (by decide +kernel),
    by decide +kernel⟩
theorem witness_StripAdvances_none : (marking 0 8 0).ctx.stripset.getLsbD 31 = true ∧ ¬ MarksSlot (marking 0 8 0) ∧
    (marking 1 5 0).ctx.stripset.getLsbD 31 = true ∧ MarksSlot (marking 1 5 0) ∧ (marking 1 5 0).toMach.g 2 = 5 := by
  unfold MarksSlot; decide +kernel
theorem test_strip_waits : after (.strip ⟨px [0x3F6], 2, 0⟩) (marking 1 8 0x101F) (fun t => (t.toMach.g 2, t.procs.map (·.st))) =
    some (8, [.blocked]) := by decide +kernel
theorem test_strip : after (.strip ⟨px [0x3F6], 2, 0⟩) (regs [(2, 8)]) (fun t => (t.toMach.g 2, t.ctx.vl, t.ctx.pc)) = some (3, 3, 0xFEE) := by
  decide +kernel
def asked : State := { base with procs := [{ proc0 with req := true }] }
theorem witness_PreemptionPoint : asked.cur = some 0 ∧ asked.procs[0]? = some { proc0 with req := true } ∧
    keepOf setvl3.pre = some (0 : Byte) ∧ LegalVtype (pxValue (restPx setvl3.pre)) ∧ asked.ctx.stripset.getLsbD 31 = false :=
  ⟨rfl, rfl, by decide, by unfold LegalVtype; decide, by decide⟩

/-- Five elements; p3 has bits 1 and 2, so that the first is 1; and it is empty, so that the first is vl. -/
def preds (w : PReg) : State := withCtx fun c => { c with p := c.p.set! 3 w }
theorem witness_PredicateInstructions : (∀ r : Nat, (preds 6).ctx.pBad[r]?.getD 0 = 0) ∧ (preds 6).ctx.vl ≤ 1024 ∧
    (1 ≤ (preds 6).ctx.vl ∧ (∀ k, k < 1 → ((preds 6).toMach.p x23.aN).getLsbD k = false) ∧
      ((preds 6).toMach.p x23.aN).getLsbD 1 = true) ∧
    ∀ k, k < 5 → ((preds 0).toMach.p x23.aN).getLsbD k = false :=
  ⟨(plainOf (preds 6).toMach ⟨rfl, rfl, rfl, rfl, by decide⟩).pBad, by decide +kernel, by decide +kernel, by decide +kernel⟩
theorem test_pnot : after (.pnot x23) (preds 6) (fun t => t.toMach.p 2) = some 0x19 := by decide +kernel
theorem test_pfirst_none : after (.pfirst x23) (preds 0) (fun t => t.toMach.g 2) = some 0xFFFFFFFFFFFFFFFF := by decide +kernel
theorem test_pbrki : after (.pbrki x23) (preds 4) (fun t => t.toMach.p 2) = some 7 := by decide +kernel

/-- A counter at 0x40 that holds 5. -/
def counting (w : Word) : State := { regs [(2, 0x40), (3, w)] with mem := [(Key.tile 0 0x40, 5)] }
/-- v2 and v3 hold the counter's address and the value 5 in their first doubleword. -/
def vwaiting : State := { withCtx (fun c => { c with vtype := 4, vlmax := 64, vl := 1, v := (c.v.set! 2 0x40).set! 3 5 }) with
  mem := [(Key.tile 0 0x40, 5)] }
def x12 : F2 := ⟨Pre.none, 1, 2⟩
theorem witness_Counters : Reaches (counting 5) ((counting 5).toMach.g x23.dN) 8 true false ∧
    ((counting 5).toMach.g x23.aN).toNat ≤ Mem.nat (counting 5).mem (ownKey (counting 5) ((counting 5).toMach.g x23.dN)) 8 ∧
    Reaches (counting 5) ((counting 5).toMach.g x23.dN) 8 true true ∧ Settled (counting 5).toMach ∧ Memory.wf (counting 5).mem = true :=
  ⟨reaches _ _ _ _ _ ⟨rfl, rfl⟩ (by decide +kernel), by decide +kernel, reaches _ _ _ _ _ ⟨rfl, rfl⟩ (by decide +kernel),
    settledOf _ ⟨rfl, rfl, rfl, rfl, rfl⟩, by decide +kernel⟩
theorem witness_Counters_vwait : vwaiting.ctx.fmt = some .int64 ∧ vwaiting.ctx.grp = 1 ∧ x12.aN % 2 = 0 ∧ Plain vwaiting.toMach ∧
    ∀ i, i < vwaiting.ctx.vl → vwaiting.toMach.admits x12.pre i = true → i < 64 ∧
      let c : Word := BitVec.ofNat 64 ((vwaiting.ctx.vr x12.aN).toNat / 2 ^ (64 * i))
      Reaches vwaiting c 8 true false ∧
        (vwaiting.ctx.vr (x12.aN + 1)).toNat / 2 ^ (64 * i) % 2 ^ 64 ≤ Mem.nat vwaiting.mem (ownKey vwaiting c) 8 := by
  refine ⟨by decide +kernel, by decide +kernel, by decide, plainOf _ ⟨rfl, rfl, rfl, rfl, by decide +kernel⟩, fun i h _ => ?_⟩
  obtain rfl : i = 0 := Nat.lt_one_iff.mp h
  exact ⟨by decide, reaches _ _ _ _ _ ⟨rfl, rfl⟩ (by decide +kernel), by decide +kernel⟩
theorem test_cadd_stops_at_top : after (.cadd x23) (counting 0xFFFFFFFFFFFFFFFF) (fun t => Mem.nat t.mem (Key.tile 0 0x40) 8) =
    some 0xFFFFFFFFFFFFFFFF := by decide +kernel
theorem test_vwait : after (.vwait x12) vwaiting (fun t => (t.toMach.p 1, t.ctx.pc)) = some (0, 0x1002) := by decide +kernel

/-- Barrier 63 with no arrival of the process open; and one whose arrival is open: pending in the generation under way. -/
def x63 : F2 := ⟨{ pr 0 false true false with px := [1] }, 0, 15⟩
def arrivedAt (g : Nat) : State := withCtx fun c => { c with pending := [(63, g)], issued := { arrived := some 63 } }
theorem witness_Barriers : base.toMach.curNet = some net0 ∧ x63.aImm < 64 ∧ net0.barrier x63.aImm = some { id := 63, count := 2 } ∧
    base.toMach.arrival { id := 63, count := 2 } ≠ .open ∧ Settled base.toMach ∧
    (arrivedAt 0).toMach.arrival { id := 63, count := 2 } = .open ∧ (arrivedAt 0).toMach.curNet = some net0 := by
  refine ⟨rfl, by decide, by decide +kernel, by decide +kernel, settled_base, by decide +kernel, rfl⟩
/-- Its generation has completed, so that the arrival is not open any more. -/
def barDone : State := { arrivedAt 0 with nets := [{ net0 with bars := [{ id := 63, count := 2, gen := 1 }] }] }
theorem witness_Barriers_done : barDone.toMach.arrival { id := 63, count := 2, gen := 1 } ≠ .open ∧
    barDone.ctx.issued.arrived = some 63 := by decide +kernel
theorem test_bar : after (.bar x63) barDone (fun t => (t.ctx.pc, t.ctx.pending)) = some (0x1006, []) := by decide +kernel
theorem test_bararr : after (.bararr x63) base (fun t => (t.nets.flatMap (·.bars)).map (·.flight)) = some [[], [(0, false)]] := by decide +kernel

/-! Vector instructions. -/

/-- Five elements of a format, with v1 to v3 as given. -/
def vec (vtype : BitVec 16) (vlmax : Nat) (a b d : VReg) : State :=
  withCtx fun c => { c with vtype := vtype, vlmax := vlmax, v := ((c.v.set! 1 d).set! 2 a).set! 3 b }
def x123 : F2 := ⟨pr 3 false false true, 1, 2⟩
theorem plain_vec (t : BitVec 16) (n : Nat) (a b d : VReg) (h : (vec t n a b d).ctx.rm ≠ 5) : Plain (vec t n a b d).toMach :=
  plainOf _ ⟨rfl, rfl, rfl, rfl, h⟩

/-- int32 in one register; d = 31 is the last group. -/
def x31 : F2 := ⟨pr 3 true false true, 15, 2⟩
theorem witness_IntegerElements : (vec 3 128 1 2 3).ctx.fmt = some .int32 ∧ Fmt.int32.isInt = true ∧ Plain (vec 3 128 1 2 3).toMach ∧
    Aligned (vec 3 128 1 2 3) x31.dN ∧ Aligned (vec 3 128 1 2 3) x31.aN ∧ (x31.w = true → Aligned (vec 3 128 1 2 3) x31.eN) ∧
    x31.dN + groupRegs (vec 3 128 1 2 3) Fmt.int32.width ≤ 32 := by
  refine ⟨by decide +kernel, rfl, plain_vec _ _ _ _ _ (by decide +kernel), ?_⟩
  unfold Aligned; decide +kernel
theorem test_vadd_tail : after (.vadd x123) (vec 3 128 0xFFFFFFFF 2 (9 * 2 ^ 160)) (fun t => (elemAt t.ctx 1 32 0, elemAt t.ctx 1 32 5)) =
    some (1, 9) := by decide +kernel
theorem test_vssub_saturates : after (.vssub ⟨{ pr 3 false false true with po := some 0 }, 1, 2⟩) (vec 0 512 0x80 1 0)
    (fun t => elemAt t.ctx 1 8 0) = some 0x80 := by decide +kernel
theorem test_vavg_rounds_up : after (.vavg ⟨{ pr 3 false false true with po := some 0 }, 1, 2⟩) (vec 1 512 0xFF 0xFE 0)
    (fun t => elemAt t.ctx 1 8 0) = some 0xFF := by decide +kernel
theorem test_zeroing : after (.vmov ⟨{ Pre.none with pp := some { pred := 0, inv := true, zero := true } }, 1, 2⟩) (vec 3 128 7 0 5)
    (fun t => elemAt t.ctx 1 32 0) = some 0 := by decide +kernel
theorem witness_IntegerAccumulate : (vec 3 128 1 2 3).ctx.fmt = some .int32 ∧ Plain (vec 3 128 1 2 3).toMach ∧
    Aligned (vec 3 128 1 2 3) x123.dN ∧ Aligned (vec 3 128 1 2 3) x123.aN ∧ (x123.w = true → Aligned (vec 3 128 1 2 3) x123.eN) ∧
    x123.dN + groupRegs (vec 3 128 1 2 3) Fmt.int32.width ≤ 32 := by
  refine ⟨by decide +kernel, plain_vec _ _ _ _ _ (by decide +kernel), ?_⟩
  unfold Aligned; decide +kernel
theorem test_vnmac : after (.vnmac x123) (vec 3 128 3 4 5) (fun t => elemAt t.ctx 1 32 0) = some 0xFFFFFFF9 := by decide +kernel
/-- fp32, code 10. -/
theorem witness_VectorRuns : (vec 10 128 1 2 3).ctx.fmt = some .fp32 ∧ inF .fp32 = true ∧ inIF .fp32 = true ∧ inM .fp32 = true ∧
    (vec 3 128 1 2 3).ctx.fmt = some .int32 ∧ inI .int32 = true ∧ Plain (vec 10 128 1 2 3).toMach ∧
    Aligned (vec 10 128 1 2 3) x123.dN ∧ Aligned (vec 10 128 1 2 3) x123.aN ∧ (x123.w = true → Aligned (vec 10 128 1 2 3) x123.eN) := by
  refine ⟨by decide +kernel, rfl, rfl, rfl, by decide +kernel, rfl, plain_vec _ _ _ _ _ (by decide +kernel), ?_⟩
  unfold Aligned; decide +kernel
/-- 1.0 + 2.0 = 3.0; 1.0 / 0.0 = infinity with the division flag; the example of R141 for `vsparse` in its first group. -/
theorem test_vadd_fp32 : after (.vadd x123) (vec 10 128 0x3F800000 0x40000000 0) (fun t => elemAt t.ctx 1 32 0) = some 0x40400000 := by
  decide +kernel
theorem test_vdiv_by_zero : after (.vdiv x123) (withCtx fun c => { c with vtype := 10, vl := 1, v := c.v.set! 2 0x3F800000 })
    (fun t => (elemAt t.ctx 1 32 0, t.ctx.fpflags)) = some (0x7F800000, 2) := by decide +kernel
theorem test_vsparse : after (.vsparse ⟨po 0, 1, 2⟩) (vec 10 128 0x4000000040400000C04000003F800000 0 0)
    (fun t => (elemAt t.ctx 1 32 0, elemAt t.ctx 1 32 1, elemAt t.ctx 1 32 2, elemAt t.ctx 1 32 3)) =
    some (0, 0xC0400000, 0x40400000, 0) := by decide +kernel
/-- fp32: sums that are exact, and operands for which there is none; fp16: 1 / 3 lies in no format; a signalling NaN. -/
def floats (t : BitVec 16) (a b : VReg) : State := withCtx fun c => { c with vtype := t, vlmax := 128, vl := 1, v := (c.v.set! 2 a).set! 3 b }
theorem witness_FloatElements : (floats 10 1 2).ctx.fmt = some .fp32 ∧ Fmt.fp32.isFloat = true ∧ Plain (floats 10 1 2).toMach ∧
    Aligned (floats 10 1 2) x31.dN ∧ Aligned (floats 10 1 2) x31.aN ∧ (x31.w = true → Aligned (floats 10 1 2) x31.eN) ∧
    x31.dN + groupRegs (floats 10 1 2) Fmt.fp32.width ≤ 32 ∧ Active (floats 10 1 2) x31.pre 0 := by
  refine ⟨by decide +kernel, rfl, plainOf _ ⟨rfl, rfl, rfl, rfl, by decide +kernel⟩, ?_, ?_, ?_, by decide +kernel, by decide, trivial⟩ <;>
    unfold Aligned <;> decide +kernel
theorem witness_FloatElements_flags :
    FpQuiet (.vadd x123) .fp32 0 0x3F800000 0x40000000 ∧ FpDivZero (.vdiv x123) .fp32 0x3F800000 0x80000000 ∧
    FpInvalid (.vdiv x123) .fp32 0 0 0x80000000 ∧ FpInvalid (.vadd x123) .fp32 0 0x7F800001 0 ∧ FpInexact (.vdiv x123) .fp16 0 0x3C00 0x4200 := by
  refine ⟨⟨?_, 3 * 2 ^ 149, ?_, 0x40400000, ?_⟩, ?_, .inr ?_, .inl ⟨0x7F800001, .head _, ?_⟩, ?_, ?_, ?_⟩
  · unfold FpFinite FpNan FpInf; decide +kernel
  · unfold FpExact; decide +kernel
  · unfold FpFinite FpNan FpInf; decide +kernel
  · unfold FpDivZero FpFinite FpNan FpInf; decide +kernel
  · show FpFinite _ _ ∧ _
    unfold FpFinite FpNan FpInf; decide +kernel
  · unfold FpSignalling FpNan; decide +kernel
  · unfold FpFinite FpNan FpInf; decide +kernel
  · unfold FpDefined; decide +kernel
  · rintro ⟨u, ⟨-, h⟩, -⟩
    have h : u * fpUnits .fp16 0x4200 = fpUnits .fp16 0x3C00 * fpOne .fp16 := h
    rw [show fpUnits .fp16 0x4200 = 50331648 by decide +kernel, show fpUnits .fp16 0x3C00 = 16777216 by decide +kernel,
      show fpOne .fp16 = 16777216 by decide +kernel] at h
    omega
/-- −5 / 0 is −infinity; the square root of −1 the canonical NaN with nv; bf16 1 + 2^−8 is inexact. -/
theorem test_vdiv_sign : after (.vdiv x123) (floats 10 0xC0A00000 0) (fun t => (elemAt t.ctx 1 32 0, t.ctx.fpflags)) = some (0xFF800000, 2) := by
  decide +kernel
theorem test_vsqrt_invalid : after (.vsqrt ⟨Pre.none, 1, 2⟩) (floats 10 0xBF800000 0) (fun t => (elemAt t.ctx 1 32 0, t.ctx.fpflags)) =
    some (0x7FC00000, 1) := by decide +kernel
theorem test_vadd_inexact : after (.vadd x123) (floats 8 0x3F80 0x3B80) (fun t => (elemAt t.ctx 1 16 0, t.ctx.fpflags)) = some (0x3F80, 16) := by
  decide +kernel
theorem witness_Reductions : (vec 3 128 1 2 3).ctx.fmt = some .int32 ∧ Fmt.int32.isInt = true ∧ Plain (vec 3 128 1 2 3).toMach ∧
    Aligned (vec 3 128 1 2 3) x31.dN ∧ Aligned (vec 3 128 1 2 3) x31.aN ∧ (x31.w = true → Aligned (vec 3 128 1 2 3) x31.eN) ∧
    x31.dN + groupRegs (vec 3 128 1 2 3) Fmt.int32.width ≤ 32 ∧ 0 < (vec 3 128 1 2 3).ctx.vlmax ∧
    ((floats 10 1 2).ctx.fmt = some .fp32 ∧ ¬ FpSignalling .fp32 1 ∧ ¬ FpSignalling .fp32 2) ∧ FpSignalling .fp32 0x7F800001 := by
  refine ⟨by decide +kernel, rfl, plain_vec _ _ _ _ _ (by decide +kernel), ?_⟩
  unfold Aligned FpSignalling FpNan; decide +kernel
theorem test_vredmax_float : after (.vredmax x123) (floats 10 0x80000000 0) (fun t => (elemAt t.ctx 1 32 0, t.ctx.fpflags)) = some (0, 0) := by
  decide +kernel
theorem test_vredsum : after (.vredsum ⟨Pre.none, 1, 2⟩) (vec 3 128 (1 + 2 * 2 ^ 32 + 3 * 2 ^ 64 + 2 ^ 160) 0 0) (fun t => elemAt t.ctx 1 32 0) =
    some 6 := by decide +kernel

theorem witness_VectorMoves : (vec 3 128 1 2 3).ctx.fmt = some .int32 ∧ Plain (vec 3 128 1 2 3).toMach ∧ Aligned (vec 3 128 1 2 3) x123.dN ∧
    x123.dN + groupRegs (vec 3 128 1 2 3) Fmt.int32.width ≤ 32 ∧ inM .int32 = true ∧ inM4 .int32 = true ∧
    Aligned (vec 3 128 1 2 3) x123.aN ∧ Aligned (vec 3 128 1 2 3) x123.eN := by
  refine ⟨by decide +kernel, plain_vec _ _ _ _ _ (by decide +kernel), ?_⟩
  unfold Aligned; decide +kernel
theorem witness_Permutes : (vec 3 128 1 2 3).ctx.fmt = some .int32 ∧ Plain (vec 3 128 1 2 3).toMach ∧
    (vec 3 128 1 2 3).ctx.vl ≤ (vec 3 128 1 2 3).ctx.vlmax ∧ Aligned (vec 3 128 1 2 3) x31.dN ∧ Aligned (vec 3 128 1 2 3) x31.aN ∧
    x31.dN + groupRegs (vec 3 128 1 2 3) Fmt.int32.width ≤ 32 ∧ inM .int32 = true ∧ inM4 .int32 = true ∧ x31.w = true ∧
    Aligned (vec 3 128 1 2 3) x31.eN ∧ ((⟨px [2], 1, 2⟩ : F2).u = 2 ∧ 2 < (vec 3 128 1 2 3).ctx.vl) := by
  refine ⟨by decide +kernel, plain_vec _ _ _ _ _ (by decide +kernel), ?_⟩
  unfold Aligned; decide +kernel
/-- R130: elements 3, 4, 5, 6 and 7 of five. -/
def fives : VReg := 3 + 4 * 2 ^ 32 + 5 * 2 ^ 64 + 6 * 2 ^ 96 + 7 * 2 ^ 128
theorem test_vslup : after (.vslup ⟨px [2], 1, 2⟩) (vec 3 128 fives 0 9) (fun t => (elemAt t.ctx 1 32 0, elemAt t.ctx 1 32 2, elemAt t.ctx 1 32 4)) =
    some (9, 3, 5) := by decide +kernel
theorem test_vrev : after (.vrev ⟨Pre.none, 1, 2⟩) (vec 3 128 fives 0 9) (fun t => (elemAt t.ctx 1 32 0, elemAt t.ctx 1 32 4)) = some (7, 3) := by
  decide +kernel
theorem test_vcompress : after (.vcompress ⟨{ Pre.none with pp := some { pred := 2, inv := false, zero := false } }, 1, 2⟩)
    { vec 3 128 fives 0 9 with ctx := { (vec 3 128 fives 0 9).ctx with p := ctx0.p.set! 2 0b10100 } }
    (fun t => (elemAt t.ctx 1 32 0, elemAt t.ctx 1 32 1)) = some (5, 7) := by decide +kernel
theorem test_viota : after (.viota ⟨Pre.none, 1, 2⟩) (withCtx fun c => { c with p := c.p.set! 2 0b01101 })
    (fun t => (elemAt t.ctx 1 32 0, elemAt t.ctx 1 32 3, elemAt t.ctx 1 32 4)) = some (0, 2, 3) := by decide +kernel
theorem test_vrgat : after (.vrgat x123) (vec 3 128 (7 + 8 * 2 ^ 32) 1 0) (fun t => elemAt t.ctx 1 32 0) = some 8 := by decide +kernel
/-- Element vlmax - 1, and the first beyond it. -/
theorem witness_VectorElements : (vec 3 128 1 2 3).ctx.fmt = some .int32 ∧ inM4 .int32 = true ∧ Plain (vec 3 128 1 2 3).toMach ∧
    Aligned (vec 3 128 1 2 3) (⟨px [127], 1, 2⟩ : F2).aN ∧ Aligned (vec 3 128 1 2 3) (⟨px [127], 1, 2⟩ : F2).dN ∧
    (⟨px [127], 1, 2⟩ : F2).u < (vec 3 128 1 2 3).ctx.vlmax ∧
    (⟨px [127], 1, 2⟩ : F2).dN + groupRegs (vec 3 128 1 2 3) Fmt.int32.width ≤ 32 ∧
    (vec 3 128 1 2 3).ctx.vlmax ≤ (⟨px [128], 1, 2⟩ : F2).u := by
  refine ⟨by decide +kernel, rfl, plain_vec _ _ _ _ _ (by decide +kernel), ?_⟩
  unfold Aligned; decide +kernel
theorem test_vext_signed : after (.vext ⟨px [1], 1, 2⟩) (vec 3 128 (0x80000000 * 2 ^ 32) 0 0) (fun t => t.toMach.g 1) =
    some 0xFFFFFFFF80000000 := by decide +kernel
theorem witness_VectorCompares : (vec 3 128 1 2 3).ctx.fmt = some .int32 ∧ (vec 10 128 1 2 3).ctx.fmt = some .fp32 ∧ inF .fp32 = true ∧
    Plain (vec 3 128 1 2 3).toMach ∧ (vec 3 128 1 2 3).ctx.vl ≤ 1024 ∧ Aligned (vec 3 128 1 2 3) x123.aN ∧
    Aligned (vec 3 128 1 2 3) x123.eN := by
  refine ⟨by decide +kernel, by decide +kernel, rfl, plain_vec _ _ _ _ _ (by decide +kernel), ?_⟩
  unfold Aligned; decide +kernel
theorem witness_VectorCompares_float : FpCompareInvalid (.vclt x123) .fp32 0x7FC00000 0 ∧ ¬ FpCompareInvalid (.vceq x123) .fp32 0x7FC00000 0 ∧
    FpCompareInvalid (.vceq x123) .fp32 0x7F800001 0 := by
  unfold FpCompareInvalid FpSignalling FpNan; decide +kernel
theorem test_vceq_zeros : after (.vceq x123) (floats 10 0x80000000 0) (fun t => (t.toMach.p 1, t.ctx.fpflags)) = some (1, 0) := by decide +kernel
theorem test_vclt_nan : after (.vclt x123) (floats 10 0x7FC00000 0) (fun t => (t.toMach.p 1, t.ctx.fpflags)) = some (0, 1) := by decide +kernel
theorem test_vcltu : after (.vcltu x123) (vec 3 128 1 0xFFFFFFFF 0) (fun t => t.toMach.p 1) = some 1 := by decide +kernel

/-- bf16 (code 8) to fp16, fp32 and fp8. -/
theorem witness_VectorConversions : (vec 8 256 1 2 3).ctx.fmt = some .bf16 ∧ Plain (vec 8 256 1 2 3).toMach ∧ Aligned (vec 8 256 1 2 3) x12.aN ∧
    inM4 .bf16 = true ∧ cvtTarget (⟨po 9, 1, 2⟩ : F2).pre.sub = .fp16 ∧
    WideDest (vec 8 256 1 2 3) 1 Fmt.bf16.width (cvtTarget 9).width 256 ∧
    widerFmt .bf16 = some .fp32 ∧ WideDest (vec 8 256 1 2 3) 2 16 32 256 ∧ narrowerFmt .bf16 = some .fp8e4 ∧
    WideDest (vec 8 256 1 2 3) 1 16 8 256 ∧ macwDest .bf16 = some .fp32 := by
  refine ⟨by decide +kernel, plain_vec _ _ _ _ _ (by decide +kernel), ?_⟩
  unfold Aligned WideDest Aligned; decide +kernel
/-- int16 (2): counts 0 to 15 for `vnclip`. -/
theorem witness_VectorConversions_clip : (vec 2 256 1 2 3).ctx.fmt = some .int16 ∧ halfWide .int16 = true ∧ (⟨px [15], 1, 2⟩ : F2).u < Fmt.int16.width ∧
    WideDest (vec 2 256 1 2 3) 1 16 8 256 ∧ (vec 0 512 1 2 3).ctx.fmt = some .int8 ∧ dotwDest .int8 = some .int32 ∧
    WideDest (vec 0 512 1 2 3) 4 8 32 512 := by
  unfold WideDest Aligned; decide +kernel
/-- Blocks of eight elements (R23). -/
def blocks (t : BitVec 16) (n : Nat) : State := vec t n 1 2 3
theorem witness_VectorConversions_block : (blocks (10 + 64) 128).ctx.fmt = some .fp32 ∧ blockFmt .fp32 = true ∧
    (blocks (10 + 64) 128).ctx.blk = 8 ∧ WideDest (blocks (10 + 64) 128) 1 32 4 128 := by
  unfold WideDest Aligned; decide +kernel
theorem test_vwiden : after (.vwiden ⟨Pre.none, 2, 1⟩) (vec 2 256 0 0 0xFFFF) (fun t => elemAt t.ctx 2 32 0) = some 0xFFFFFFFF := by
  decide +kernel
theorem test_vnclip : after (.vnclip ⟨{ po 0 with px := [4] }, 1, 2⟩) (vec 2 256 0x7FF8 0 0) (fun t => elemAt t.ctx 1 8 0) = some 0x7F := by
  decide +kernel
theorem test_vcvt : after (.vcvt ⟨po 3, 1, 2⟩) (vec 10 128 0xC0200000 0 0) (fun t => elemAt t.ctx 1 32 0) = some 0xFFFFFFFE := by
  decide +kernel
/-- int16 (2) widened into two registers, narrowed and clipped; bf16 (8) widened. -/
theorem witness_ConversionValues : (vec 2 256 1 2 3).ctx.fmt = some .int16 ∧ Plain (vec 2 256 1 2 3).toMach ∧ Aligned (vec 2 256 1 2 3) x12.aN ∧
    widerFmt .int16 = some .int32 ∧ WideDest (vec 2 256 1 2 3) 30 16 32 256 ∧ narrowerFmt .int16 = some .int8 ∧ WideDest (vec 2 256 1 2 3) 31 16 8 256 ∧
    Fmt.int16.isInt = true ∧ 30 + (32 * 256 + 4095) / 4096 ≤ 32 ∧ halfWide .int16 = true ∧ (⟨px [15], 1, 2⟩ : F2).u < Fmt.int16.width ∧
    (vec 8 256 1 2 3).ctx.fmt = some .bf16 ∧ Fmt.bf16.isInt = false ∧ widerFmt .bf16 = some .fp32 := by
  refine ⟨by decide +kernel, plain_vec _ _ _ _ _ (by decide +kernel), ?_⟩
  unfold Aligned WideDest Aligned; decide +kernel
theorem test_vnclipu : after (.vnclipu ⟨{ po 0 with px := [4] }, 1, 2⟩) (vec 2 256 0xFFF8 0 0) (fun t => elemAt t.ctx 1 8 0) = some 0xFF := by
  decide +kernel
theorem witness_BlockDequantise : (blocks (10 + 64) 128).ctx.fmt = some .fp32 ∧ deqFmt .fp32 = true ∧
    (blocks (10 + 64) 128).ctx.blk = 8 ∧ Plain (blocks (10 + 64) 128).toMach ∧ Aligned (blocks (10 + 64) 128) x12.aN ∧
    (groupRegs (blocks (10 + 64) 128) Fmt.fp32.width ≠ 0 → x12.dN % groupRegs (blocks (10 + 64) 128) Fmt.fp32.width = 0) := by
  refine ⟨by decide +kernel, rfl, by decide +kernel, plain_vec _ _ _ _ _ (by decide +kernel), ?_⟩
  unfold Aligned; decide +kernel

/-- Five words at 0x40 and on; the index register v4 is zero, the stride is 8. -/
def loading : State := { withCtx (fun c => { c with g := (c.g.set! 3 0x40).set! 4 8 }) with mem := [(Key.tile 0 0x44, 9)] }
def x134 : F2 := ⟨pr 4 false false true, 1, 3⟩
theorem reaches_all (s : State) (h : s.ctx.win = #v[winAll, 0, 0, 0] ∧ s.bad = []) (x : F2) (form : AddrForm) (w n : Nat) (rd wr : Bool)
    (hv : s.ctx.vl = n) (k : ∀ j, j < n → (elemAddr s x form w j).toNat + w / 8 ≤ 0x180000 ∧ (elemAddr s x form w j).toNat % (w / 8) = 0) :
    ∀ j, Active s x.pre j → Reaches s (elemAddr s x form w j) (w / 8) rd wr :=
  fun j a => reaches s _ _ rd wr h (k j (hv ▸ a.1))
theorem witness_VectorLoads : loading.ctx.fmt = some .int32 ∧ inM .int32 = true ∧ Plain loading.toMach ∧ Settled loading.toMach ∧
    (loading.ctx.vl ≤ loading.ctx.vlmax ∧ Aligned loading x134.dN ∧ x134.dN + groupRegs loading Fmt.int32.width ≤ 32 ∧
      (loading.toMach.g x134.aN).toNat / 2 ^ 62 ≠ 3) ∧ IndexAligned loading x134 .indexed ∧
    ∀ form ∈ [AddrForm.unit, .strided, .indexed, .single], ∀ j, Active loading x134.pre j →
      Reaches loading (elemAddr loading x134 form Fmt.int32.width j) (Fmt.int32.width / 8) true false := by
  refine ⟨by decide +kernel, rfl, plainOf _ ⟨rfl, rfl, rfl, rfl, by decide⟩, settledOf _ ⟨rfl, rfl, rfl, rfl, rfl⟩, ?_, fun _ _ => ?_, ?_⟩
  · unfold Aligned; decide +kernel
  · decide +kernel
  · intro form hf
    refine reaches_all loading ⟨rfl, rfl⟩ x134 form _ 5 true false rfl ?_
    simp only [List.mem_cons, List.not_mem_nil, or_false] at hf
    rcases hf with rfl | rfl | rfl | rfl <;> decide +kernel
theorem test_vld : after (.vld ⟨Pre.none, 1, 3⟩) loading (fun t => (elemAt t.ctx 1 32 0, elemAt t.ctx 1 32 1)) = some (0, 9) := by decide +kernel
theorem test_vst_last_wins : after (.vstx x134) { loading with ctx := { loading.ctx with v := loading.ctx.v.set! 1 (1 + 2 * 2 ^ 32 + 5 * 2 ^ 128) } }
    (fun t => (Mem.nat t.mem (Key.tile 0 0x40) 4, Mem.nat t.ownStores.mem (Key.tile 0 0x40) 4)) = some (Mem.nat loading.mem (Key.tile 0 0x40) 4, 5) := by
  decide +kernel
theorem witness_VectorStores : loading.ctx.fmt = some .int32 ∧ Plain loading.toMach ∧ Settled loading.toMach ∧ Memory.wf loading.mem = true ∧
    loading.bad = [] ∧ (loading.ctx.vl ≤ loading.ctx.vlmax ∧ Aligned loading x134.dN ∧ (loading.toMach.g x134.aN).toNat / 2 ^ 62 ≠ 3) ∧
    IndexAligned loading x134 .indexed ∧
    ∀ form ∈ [AddrForm.unit, .strided, .indexed], ∀ j, Active loading x134.pre j →
      Reaches loading (elemAddr loading x134 form Fmt.int32.width j) (Fmt.int32.width / 8) false true := by
  refine ⟨by decide +kernel, plainOf _ ⟨rfl, rfl, rfl, rfl, by decide⟩, settledOf _ ⟨rfl, rfl, rfl, rfl, rfl⟩, by decide +kernel, rfl, ?_,
    fun _ _ => ?_, ?_⟩
  · unfold Aligned; decide +kernel
  · decide +kernel
  · intro form hf
    refine reaches_all loading ⟨rfl, rfl⟩ x134 form _ 5 false true rfl ?_
    simp only [List.mem_cons, List.not_mem_nil, or_false] at hf
    rcases hf with rfl | rfl | rfl <;> decide +kernel

/-- A base in the global space with no element at all; and a stride that leads element 1 there. -/
def toGlobal (vl : Nat) (a b : Word) : State := withCtx fun c => { c with vl := vl, g := (c.g.set! 3 a).set! 4 b }
theorem witness_VectorSpace : (∀ n a b, (toGlobal n a b).ctx.fmt = some .int32 ∧ Plain (toGlobal n a b).toMach ∧ Settled (toGlobal n a b).toMach ∧
      (toGlobal n a b).bad = [] ∧ Aligned (toGlobal n a b) x134.dN ∧ (toGlobal n a b).toMach.g 3 = a) ∧
    ((0xC000000000000041 : Word).toNat / 2 ^ 62 = 3 ∧ ¬ Active (toGlobal 0 0xC000000000000041 0) x134.pre 0) ∧
    (Active (toGlobal 5 0xC000000000000040 0) x134.pre 0 ∧ (elemAddr (toGlobal 5 0xC000000000000040 0) x134 .unit 32 0).toNat % 4 = 0) ∧
    (let s := toGlobal 2 0x40 0xC000000000000000
     Active s x134.pre 1 ∧ (elemAddr s x134 .strided 32 1).toNat % 4 = 0 ∧ (elemAddr s x134 .strided 32 1).toNat / 2 ^ 62 = 3 ∧
      ∀ i, i < 1 → Active s x134.pre i → Reaches s (elemAddr s x134 .strided 32 i) 4 true false) := by
  refine ⟨fun n a b => ⟨rfl, plainOf _ ⟨rfl, rfl, rfl, rfl, (by decide : ctx0.rm ≠ 5)⟩, settledOf _ ⟨rfl, rfl, rfl, rfl, rfl⟩, rfl, ?_, rfl⟩, ⟨by decide, ?_⟩,
    ⟨⟨(by decide : 0 < 5), trivial⟩, by decide +kernel⟩, ⟨(by decide : 1 < 2), trivial⟩, by decide +kernel, by decide +kernel, fun i hi _ => ?_⟩
  · exact (by decide : x134.dN % ctx0.grp = 0)
  · exact fun h => absurd h.1 (by decide)
  · obtain rfl : i = 0 := by omega
    exact reaches _ _ _ _ _ ⟨rfl, rfl⟩ (by decide +kernel)
theorem test_vld_global_base : after (.vld ⟨px [1], 1, 3⟩) { toGlobal 0 0xC000000000000041 0 with ctx := { (toGlobal 0 0xC000000000000041 0).ctx with tdeleg := 0 } }
    (fun t => (t.ctx.tcause, t.ctx.tval, t.ctx.tinfo.toNat / 2 ^ 8 % 256)) = some (0x06, 0xC000000000000042, 0x04) := by decide +kernel

/-! The matrix engine. -/

/-- Four tiles allocated; formats int8 and fp32. -/
def matrix (t : BitVec 16) : State := withCtx fun c => { c with mOn := true, mN := 4, vtype := t, vlmax := 512, v := (c.v.set! 2 0x02).set! 3 0x03 }
theorem matrixReady (t : BitVec 16) (d : Nat) (h : d < 4) : MatrixReady (matrix t) d :=
  ⟨rfl, h, fun k => by rw [show (matrix t).ctx.zBad = Vector.replicate 32 0 from rfl, Vector.getElem?_replicate]; split <;> rfl⟩
theorem plain_matrix (t : BitVec 16) (h : (matrix t).ctx.rm ≠ 5) : Plain (matrix t).toMach := plainOf _ ⟨rfl, rfl, rfl, rfl, h⟩
/-- The allowance of `base` is 4: n = 1 and 4 are within it, 5 and 32 beyond it, 0 and 33 no number of tiles. -/
def mxon (n : BitVec 4) (h : BitVec 10) : F2 := ⟨{ po 0 with px := [h] }, 0, n⟩
theorem witness_MatrixState : (1 ≤ (mxon 4 0).aImm ∧ (mxon 4 0).aImm ≤ 32 ∧ (mxon 4 0).aImm ≤ base.ctx.mAllow) ∧ (mxon 0 0).aImm = 0 ∧
    32 < (mxon 1 1).aImm ∧ (1 ≤ (mxon 0 1).aImm ∧ (mxon 0 1).aImm ≤ 32 ∧ base.ctx.mAllow < (mxon 0 1).aImm) ∧
    base.ctx.mAllow < (mxon 5 0).aImm ∧ ((matrix 0).ctx.mOn = true ∧ x23.dN < (matrix 0).ctx.mN ∧ x23.dN < 32) := by decide +kernel
theorem test_mxon : after (.mxon (mxon 4 0)) base (fun t => (t.ctx.mOn, t.ctx.mN)) = some (true, 4) := by decide +kernel
theorem witness_MatrixStateTraps : base.ctx.mOn = false ∧ (matrix 0).ctx.mOn = true ∧ (matrix 0).ctx.mN ≤ (⟨Pre.none, 4, 0⟩ : F2).dN := by
  decide +kernel
/-- int8 without a PX word; fp4 with one, its source group even. -/
def mopFp4 : F2 := ⟨{ pr 3 false false true with po := some 0, px := [31] }, 1, 2⟩
theorem witness_OuterProducts : MatrixReady (matrix 0) x123.dN ∧ x123.dN < 32 ∧ (matrix 0).ctx.fmt = some .int8 ∧ matrixFmt .int8 = true ∧
    Plain (matrix 0).toMach ∧ x123.pre.px = [] :=
  ⟨matrixReady _ _ (by decide), by decide, by decide +kernel, rfl, plain_matrix _ (by decide +kernel), rfl⟩
theorem witness_OuterProducts_fp4 : MatrixReady (matrix 0x45) mopFp4.dN ∧ (matrix 0x45).ctx.fmt = some .fp4 ∧ matrixFmt .fp4 = true ∧
    Plain (matrix 0x45).toMach ∧ mopFp4.pre.px ≠ [] ∧ mopFp4.u < 32 ∧ mopFp4.aN % 2 = 0 :=
  ⟨matrixReady _ _ (by decide), by decide +kernel, rfl, plain_matrix _ (by decide +kernel), by decide, by decide, by decide⟩
theorem witness_MatrixFold : MatrixReady (matrix 10) x123.dN ∧ x123.dN < 32 ∧ (matrix 0).ctx.fmt = some .int8 ∧
    (matrix 12).ctx.fmt = some .f64s ∧ (matrix 10).ctx.fmt ≠ some .int8 ∧ (matrix 10).ctx.fmt ≠ some .f64s :=
  ⟨matrixReady _ _ (by decide), by decide, by decide +kernel, by decide +kernel, by decide +kernel, by decide +kernel⟩
/-- Rows 31 and 32 are the edge of R154. -/
def sliceAt (sub : BitVec 4) (n : BitVec 10) : F2 := ⟨{ po sub with px := [n] }, 1, 2⟩
theorem witness_MatrixSlices : Plain (matrix 0).toMach ∧ (sliceAt 3 31).pre.sub < 4 ∧ MatrixReady (matrix 0) (sliceAt 3 31).aN ∧
    (sliceAt 3 31).dN < 32 ∧ (sliceAt 3 31).u < 32 ∧ 32 ≤ (sliceAt 1 32).u ∧ MatrixReady (matrix 0) (sliceAt 0 31).dN :=
  ⟨plain_matrix _ (by decide +kernel), by decide, matrixReady _ _ (by decide), by decide, by decide, by decide, matrixReady _ _ (by decide)⟩
/-- A base in the global space. -/
theorem witness_MatrixTileMoves_global : (addrOf { matrix 10 with ctx := { (matrix 10).ctx with g := ctx0.g.set! 2 0xC000000000000000 } }
    ⟨po 1, 1, 2⟩).toNat / 2 ^ 62 = 3 := by decide +kernel
theorem test_mvrow : after (.mvrow (sliceAt 1 1)) (matrix 0) (fun t => (pairS t.ctx 1 32, pairS t.ctx 1 0)) = some (2, 0) := by decide +kernel

/-- Format 1 of R155 at 0x40, rows packed: 8,192 bytes. -/
def tileMoves : State := { matrix 10 with ctx := { (matrix 10).ctx with g := ctx0.g.set! 2 0x40 } }
def x12f1 : F2 := ⟨po 1, 1, 2⟩
theorem witness_MatrixTileMoves : MatrixReady tileMoves x12f1.dN ∧ x12f1.dN < 32 ∧ x12f1.pre.sub < 7 ∧ Plain tileMoves.toMach ∧
    Settled tileMoves.toMach ∧ tileMoves.bad = [] ∧ Memory.wf tileMoves.mem = true ∧ (addrOf tileMoves x12f1).toNat < 2 ^ 62 ∧
    ∀ rd wr, ∀ n, n < 1024 → PairOn tileMoves x12f1.pre n → Reaches tileMoves (tileElem tileMoves x12f1 n) (tileBytes x12f1.pre.sub) rd wr := by
  refine ⟨⟨rfl, by decide, (matrixReady 10 1 (by decide)).clean⟩, by decide, by decide, plainOf _ ⟨rfl, rfl, rfl, rfl, by decide⟩,
    settledOf _ ⟨rfl, rfl, rfl, rfl, rfl⟩, rfl, rfl, by decide +kernel, fun rd wr n h _ => ?_⟩
  exact reaches _ _ _ _ _ ⟨rfl, rfl⟩ ((by decide +kernel : ∀ n, n < 1024 → (tileElem tileMoves x12f1 n).toNat + tileBytes x12f1.pre.sub ≤ 0x180000 ∧
    (tileElem tileMoves x12f1 n).toNat % tileBytes x12f1.pre.sub = 0) n h)

/-! Streams, slide windows and copies. -/

theorem no_bindings (s : State) (h : s.ctx.q = Vector.replicate 16 none) (b : QBind) : some b ∉ s.ctx.q.toList := by
  intro k
  rw [h, show (Vector.replicate 16 (none : Option QBind)).toList = List.replicate 16 none from rfl] at k
  exact absurd (List.eq_of_mem_replicate k) (by simp)

/-- The write end of vector channel 1 in g3; v24 is the register. -/
def x24 : F2 := ⟨{ pr 0 true false false with po := some 0 }, 8, 3⟩
def toSink : State := regs [(3, 0x100000002)]
/-- v24 is a source, or a sink, on channel 1, which holds `l`. -/
def streaming (sink : Bool) (l : List Tok) : State := { withNet (fun x => { x with chans := x.chans.modify 1 fun c => { c with buf := l } }) with
  ctx := { ctx0 with streams := ctx0.streams.set! 0 { on := true, sink := sink, desc := 0x100000000 }, vl := 128, v := ctx0.v.set! 3 0x77 } }
theorem witness_StreamMode_sset : 24 ≤ x24.dN ∧ x24.dN < 32 ∧ toSink.ctx.streamOn x24.dN = false ∧
    StreamDesc (toSink.toMach.g x24.aN) .chan true 1 ∧ MayBind toSink 1 true :=
  ⟨by decide, by decide, by decide +kernel, ⟨by decide +kernel, (by decide : 1 < 2 ^ 18)⟩, ⟨_, rfl, rfl, rfl⟩, by decide +kernel,
    no_bindings _ rfl _⟩
/-- R181: the pattern of one dimension of two elements of four bytes from 0x400 on, in a block at 0x1C0; near-bank replies. -/
def patternDesc : Nat := 0x400 + 2 ^ 128 + 2 ^ 136 + 2 ^ 256 + 512 * 2 ^ 320
def toPattern : State := { regs [(3, 0x1C000000005)] with mem := cells (Key.tile 0 0x1C0) 256 patternDesc }
theorem witness_StreamMode_pattern : StreamDesc (toPattern.toMach.g x24.aN) .pattern false 0x1C0 ∧
    OwnBlock toPattern (BitVec.ofNat 64 0x1C0) 64 256 true false ∧ Settled toPattern.toMach :=
  ⟨⟨by decide +kernel, (by decide : 0x1C0 < 2 ^ 24 ∧ 0x1C0 % 64 = 0 ∧ false = false)⟩,
    ownBlock _ _ _ _ _ _ ⟨rfl, rfl⟩ (by decide +kernel), settledOf _ ⟨rfl, rfl, rfl, rfl, rfl⟩⟩
theorem witness_StreamMode_block : let d := Mem.nat toPattern.mem (ownKey toPattern (BitVec.ofNat 64 0x1C0)) 256
    copyFields d 0 = true ∧ ∀ y ∈ copyAligned d 0, y.1 % y.2.1 = 0 := by decide +kernel
theorem witness_StreamMode_reply : StreamDesc ((regs [(3, 9)]).toMach.g x24.aN) .reply false 0 :=
  ⟨by decide +kernel, (⟨rfl, rfl⟩ : (0 : Nat) = 0 ∧ false = false)⟩
/-- Neither source nor sink; and scalar channel 0, which a stream register cannot bind. -/
theorem witness_StreamMode_traps : (∀ kind sink id, ¬ StreamDesc ((regs [(3, 0)]).toMach.g x24.aN) kind sink id) ∧
    StreamDesc ((regs [(3, 2)]).toMach.g x24.aN) .chan true 0 ∧ ¬ MayBind (regs [(3, 2)]) 0 true := by
  refine ⟨fun kind sink id h => ?_, ⟨by decide +kernel, (by decide : 0 < 2 ^ 18)⟩, fun h => ?_⟩
  · have : ((regs [(3, 0)]).toMach.g x24.aN).toNat = 0 := by decide +kernel
    rw [h.1] at this
    cases sink <;> simp at this
  · obtain ⟨c, hc, hv, -⟩ := h.1
    cases hc; cases hv
theorem witness_StreamMode_sstop : ((streaming true []).ctx.stream (x24.dN - 24)).kind ≠ .reply ∧ (streaming true []).ctx.streamOn x24.dN = true ∧
    toSink.ctx.streamOn x24.dN = false ∧ (streaming true []).ctx.sinkOn x24.dN = true ∧
    ((streaming true []).ctx.stream (x24.dN - 24)).kind = .chan ∧ (streaming false []).ctx.sinkOn x24.dN = false := by decide +kernel
/-- v24 takes near-bank replies, one of which is on its way, or none. -/
def replying24 (l : List NearReq) : State := { base with
  ctx := { ctx0 with streams := ctx0.streams.set! 0 { on := true, kind := .reply, desc := 9 } }
  nears := l }
def nearBy (k : Nat) : NearReq := { key := 3, proc := k, handle := 0, panel := 0, fmt := 8, xs := [], reply := none }
theorem witness_StreamMode_replies : (∀ l, (replying24 l).ctx.streamOn x24.dN = true ∧ ((replying24 l).ctx.stream (x24.dN - 24)).kind = .reply) ∧
    (∀ n ∈ (replying24 [nearBy 1]).nears, n.proc ≠ (replying24 [nearBy 1]).toMach.self) ∧
    ∃ n ∈ (replying24 [nearBy 0]).nears, n.proc = (replying24 [nearBy 0]).toMach.self :=
  ⟨fun _ => ⟨rfl, rfl⟩, by decide +kernel, nearBy 0, List.mem_singleton.mpr rfl, rfl⟩
/-- The channel of the sink in each state that R109 tells apart. -/
def sinking (f : Chan → Chan) : State := { streaming true [] with
  nets := (streaming true []).nets.map fun x => { x with chans := x.chans.modify 1 f } }
def dropping (c : Chan) : Chan := { c with rExited := true, decl := { c.decl with discard := true } }
theorem witness_StopClose (f : Chan → Chan) : (sinking f).ctx.sinkOn x24.dN = true ∧ ((sinking f).ctx.stream (x24.dN - 24)).kind = .chan ∧
    Settled (sinking f).toMach ∧ ∃ c, (streaming true []).toMach.chan 1 = some c ∧ (sinking f).toMach.chan 1 = some (f c) ∧
      (c.closed = false ∧ c.rExited = false ∧ c.rebind = false ∧ 0 < c.free) ∧ (dropping c).rExited = true ∧
      (dropping c).decl.discard = true ∧ ({ c with rExited := true } : Chan).decl.discard = false ∧ ({ c with free := 0 } : Chan).free = 0 ∧
      ({ c with closed := true } : Chan).closed = true ∧ bitsAt ((sinking f).ctx.stream (x24.dN - 24)).desc.toNat 32 18 = 1 :=
  ⟨rfl, rfl, settledOf _ ⟨rfl, rfl, rfl, rfl, rfl⟩, _, rfl, rfl, ⟨rfl, rfl, rfl, by decide⟩, rfl, rfl, rfl, rfl, rfl,
    (by decide +kernel : bitsAt ((streaming true []).ctx.stream (x24.dN - 24)).desc.toNat 32 18 = 1)⟩
theorem settled_streaming (b : Bool) (l : List Tok) : Settled (streaming b l).toMach := settledOf _ ⟨rfl, rfl, rfl, rfl, rfl⟩
theorem test_sset : after (.sset x24) toSink (fun t => (t.ctx.stream 0).on && (t.ctx.stream 0).sink) = some true := by decide +kernel
theorem test_sstop_close : after (.sstopClose x24) (streaming true []) (fun t => ((t.ctx.stream 0).on, (t.toMach.chan 1).map fun c => (c.flight, c.closed))) =
    some (false, some ([.eos], true)) := by decide +kernel
/-- `vmov v1, v24` and `vmov v24, v3` on int32. -/
def fromV24 : F2 := ⟨pr 0 false true false, 1, 8⟩
theorem witness_StreamMoves : (streaming false [.vector 5]).ctx.fmt = some .int32 ∧ inM .int32 = true ∧ (streaming false []).ctx.grp = 1 ∧
    (streaming false []).ctx.vlmax = 4096 / Fmt.int32.width ∧ (streaming false []).ctx.vl = (streaming false []).ctx.vlmax ∧
    fromV24.pre.pp = none ∧ (streaming false []).ctx.rm ≠ 5 ∧ (streaming false []).ctx.fptrap = 0 ∧ fromV24.dN < 32 ∧ fromV24.aN < 32 ∧
    ((streaming false []).ctx.streamOn fromV24.dN = false ∧ (streaming false []).ctx.streamOn fromV24.aN = true ∧
      (streaming false []).ctx.sinkOn fromV24.aN = false ∧ ((streaming false []).ctx.stream (fromV24.aN - 24)).kind = .chan) ∧
    ((streaming false [.vector 5]).toMach.chan (bitsAt ((streaming false [.vector 5]).ctx.stream (fromV24.aN - 24)).desc.toNat 32 18)).map (·.buf) =
      some [.vector 5] ∧
    (streaming true []).ctx.streamOn x24.aN = false ∧ (streaming true []).ctx.sinkOn x24.dN = true := by decide +kernel
theorem witness_StreamMoves_clean : ∀ r : Nat, (streaming false []).ctx.vBad[r]?.getD 0 = 0 := by
  intro r
  rw [show (streaming false []).ctx.vBad = Vector.replicate 32 0 from rfl, Vector.getElem?_replicate]; split <;> rfl
theorem test_vmov_from_stream : after (.vmov fromV24) (streaming false [.vector 5, .eos]) (fun t => (t.ctx.vr 1, (t.toMach.chan 1).map fun c => (c.buf, c.returns))) =
    some (5, some ([.eos], 1)) := by decide +kernel

/-- R179: an image of 4 x 4 elements and one channel, element size 1 byte, K_h = 2, scale 1, background 9. -/
def slideConf : Nat := 4 * 2 ^ 192 + 4 * 2 ^ 224 + 2 ^ 256 + 2 * 2 ^ 296 + 2 ^ 304 + 9 * 2 ^ 320
def sliding : State := { regs [(3, 0x40), (2, 0x40)] with mem := cells (Key.tile 0 0x40) 64 slideConf }
theorem witness_SlideWindows_cfg : OwnBlock sliding (sliding.toMach.g x23.aN) 64 64 true false ∧
    slideOk (Mem.nat sliding.mem (ownKey sliding (sliding.toMach.g x23.aN)) 64) = true :=
  ⟨ownBlock _ _ _ _ _ _ ⟨rfl, rfl⟩ (by decide +kernel), by decide +kernel⟩
/-- Channel 1 of an image that has one: no element is inside. -/
def outside : State := withCtx fun c => { c with slide := some (BitVec.ofNat 512 slideConf), g := c.g.set! 3 0x100000000 }
def xSlide : F2 := ⟨po 1, 1, 3⟩
/-- K_h zero is no configuration; without one, `vslr` is illegal; two rows from v31 on; a position with bits above 47. -/
theorem witness_SlideWindows_traps : (∀ d, OwnBlock { sliding with mem := d } (sliding.toMach.g x23.aN) 64 64 true false) ∧
    slideOk (Mem.nat [] (ownKey sliding (sliding.toMach.g x23.aN)) 64) = false ∧ base.ctx.slide = none ∧
    32 < (⟨pr 0 true false false, 15, 3⟩ : F2).dN + fieldAt (BitVec.ofNat 512 slideConf).toNat 37 1 ∧
    bitsAt ((regs [(3, 0x1000000000000)]).toMach.g x23.aN).toNat 48 16 ≠ 0 ∧
    32767 < signed 16 (bitsAt ((regs [(3, 0x7FFF)]).toMach.g x23.aN).toNat 0 16) + (fieldAt (BitVec.ofNat 512 slideConf).toNat 38 1 : Int) :=
  ⟨fun _ => ownBlock _ _ _ _ _ _ ⟨rfl, rfl⟩ (by decide +kernel), by decide +kernel, rfl, by decide +kernel, by decide +kernel, by decide +kernel⟩
/-- The whole window at position (0, 0): two rows of four elements lie in the image, all on the process's own tile. -/
def inside0 : State := withCtx fun c => { c with slide := some (BitVec.ofNat 512 slideConf) }
theorem witness_SlideRuns : Settled inside0.toMach ∧ bitsAt (inside0.toMach.g xSlide.aN).toNat 48 16 = 0 ∧ xSlide.dN + fieldAt slideConf 37 1 ≤ 32 ∧
    Inside slideConf 0 (0 + (1 : Nat)) (0 + (3 : Nat)) ∧
    ∀ r c, r < 2 → c < windowCols slideConf → Inside slideConf 0 (0 + (r : Nat)) (0 + (c : Nat)) →
      Reaches inside0 (imageAddr slideConf 0 (0 + (r : Nat)) (0 + (c : Nat))) 1 true false := by
  refine ⟨settledOf _ ⟨rfl, rfl, rfl, rfl, rfl⟩, by decide +kernel, by decide +kernel, by unfold Inside; decide +kernel, fun r c hr _ hi => ?_⟩
  have h4 : fieldAt slideConf 24 4 = 4 := by decide +kernel
  have hc : c < 4 := by have := hi.2.1; rw [h4] at this; omega
  exact reaches _ _ _ _ _ ⟨rfl, rfl⟩ ((by decide +kernel : ∀ r, r < 2 → ∀ c, c < 4 →
    (imageAddr slideConf 0 (0 + (r : Nat)) (0 + (c : Nat))).toNat + 1 ≤ 0x180000 ∧
    (imageAddr slideConf 0 (0 + (r : Nat)) (0 + (c : Nat))).toNat % 1 = 0) r hr c hc)
theorem witness_SlideWindows : outside.ctx.slide = some (BitVec.ofNat 512 slideConf) ∧ slideOk (BitVec.ofNat 512 slideConf).toNat = true ∧
    Plain outside.toMach ∧ Settled outside.toMach ∧ xSlide.pre.sub = 1 ∧
    xSlide.dN + fieldAt (BitVec.ofNat 512 slideConf).toNat 37 1 ≤ 32 ∧ bitsAt (outside.toMach.g xSlide.aN).toNat 48 16 = 0 ∧
    fieldAt (BitVec.ofNat 512 slideConf).toNat 32 4 ≤ bitsAt (outside.toMach.g xSlide.aN).toNat 32 16 ∧ xSlide.w = false :=
  ⟨rfl, by decide +kernel, plainOf _ ⟨rfl, rfl, rfl, rfl, by decide⟩, settledOf _ ⟨rfl, rfl, rfl, rfl, rfl⟩, by decide, by decide +kernel,
    by decide +kernel, by decide +kernel, by decide⟩

/-- R181: one dimension of two elements of four bytes from 0x400 to 0x800; its descriptor at 0x1C0, its counter at 0x80. -/
def copyDesc (kind : Nat) : Nat := 0x400 + 0x800 * 2 ^ 64 + 2 * 2 ^ 128 + 2 ^ 136 + kind * 2 ^ 144 + 2 * 2 ^ 256 + 4 * 2 ^ 320 + 4 * 2 ^ 384
def copying (d : Nat) : State := { regs [(3, 0x1C0), (2, 0x80)] with mem := cells (Key.tile 0 0x1C0) 256 d }
theorem witness_CopyIssue : (∀ d, OwnBlock (copying d) ((copying d).toMach.g x23.aN) 64 256 true false) ∧ (∀ d, Settled (copying d).toMach) ∧
    (∀ d, Reaches (copying d) ((copying d).toMach.g x23.dN) 8 true true) ∧
    (∀ k, k < 3 → copyFields (Mem.nat (copying (copyDesc k)).mem (ownKey (copying (copyDesc k)) ((copying (copyDesc k)).toMach.g x23.aN)) 256) k = true ∧
      ∀ y ∈ copyAligned (Mem.nat (copying (copyDesc k)).mem (ownKey (copying (copyDesc k)) ((copying (copyDesc k)).toMach.g x23.aN)) 256) k, y.1 % y.2.1 = 0) ∧
    (copying 0).ctx.faults.length < 16 ∧ ((copying 0).copies.filter fun c => c.tile == (copying 0).here).length < 16 :=
  ⟨fun d => ownBlock _ _ _ _ _ _ ⟨rfl, rfl⟩ (by decide +kernel : (0x1C0 : Word).toNat + 256 ≤ 0x180000 ∧ (0x1C0 : Word).toNat % 64 = 0),
    fun _ => settledOf _ ⟨rfl, rfl, rfl, rfl, rfl⟩,
    fun d => reaches _ _ _ _ _ ⟨rfl, rfl⟩ (by decide +kernel : (0x80 : Word).toNat + 8 ≤ 0x180000 ∧ (0x80 : Word).toNat % 8 = 0),
    by decide +kernel, by decide, by decide⟩
/-- R187: eight bytes from 0x400 to one destination, without a counter of its own. -/
def distDesc : Nat := 0x400 + 3 * 2 ^ 144 + 2 ^ 136 + 8 * 2 ^ 160 + 2 ^ 192 + 2 ^ 224 + 0x800 * 2 ^ 512 + noCtr * 2 ^ 576
theorem witness_CopyIssue_dist : let d := Mem.nat (copying distDesc).mem (ownKey (copying distDesc) ((copying distDesc).toMach.g x23.aN)) 256
    distFields d = true ∧ (∀ j, j < fieldAt d 17 1 → partCtr d j = noCtr) ∧ ∀ y ∈ copyAligned d 3, y.1 % y.2.1 = 0 := by decide +kernel
theorem test_cpy : after (.cpy ⟨po 0, 2, 3⟩) (copying (copyDesc 0)) (fun t => (t.copies.map fun c => (c.kind, c.ctr), t.ctx.faults.length)) =
    some ([(0, 0x80)], 1) := by decide +kernel

/-! Global memory. -/

/-- R218: the first 2 MiB of the global space, spread over the servers, readable and writable; and one that grants nothing. -/
def entryRw : RangeEntry := { vlimit := 0x200000, rd := true, w := true, watched := true, valid := true }
def entryNone : RangeEntry := { vlimit := 0x200000, valid := true }
def tenWith (l : List (Nat × RangeEntry)) : Tenant := { ten1 with active := l, gen := 1 }
/-- Global address 0x40 in g3, local address 0x80 in g4. -/
def global (l : List (Nat × RangeEntry)) (f : Ctx → Ctx) : State :=
  { withCtx (fun c => f { c with g := (c.g.set! 3 0xC000000000000040).set! 4 0x80 }) with tenants := [tenWith l] }
theorem maps (e : RangeEntry) (f : Ctx → Ctx) (a : Word) (n : Nat) (h : a.toNat / 2 ^ 62 = 3 ∧ bitsAt a.toNat 48 14 = 0)
    (he : (tenWith [(0, e)]).entryAt (bitsAt a.toNat 0 48) = some e) (k : bitsAt a.toNat 0 21 + n ≤ 2 ^ 21) (p : 0 < n) :
    Maps (global [(0, e)] f) a n e (tenWith [(0, e)]) := ⟨h, rfl, he, k, p⟩
theorem settled_global (l : List (Nat × RangeEntry)) : Settled (global l id).toMach := settledOf _ ⟨rfl, rfl, rfl, rfl, rfl⟩

theorem witness_GlobalAccess : Settled (global [(0, entryRw)] id).toMach ∧ (global [(0, entryRw)] id).bad = [] ∧
    (addrOf (global [(0, entryRw)] id) x23).toNat % 8 = 0 ∧
    Maps (global [(0, entryRw)] id) (addrOf (global [(0, entryRw)] id) x23) 8 entryRw (tenWith [(0, entryRw)]) ∧
    entryRw.host = false ∧ entryRw.rd = true ∧ entryRw.w = true :=
  ⟨settled_global _, rfl, by decide +kernel, maps _ _ _ _ (by decide +kernel) (by decide +kernel) (by decide +kernel) (by decide), rfl, rfl, rfl⟩
theorem witness_GlobalAccess_traps : (addrOf (global [(0, entryNone)] id) x23).toNat % 8 = 0 ∧
    Maps (global [(0, entryNone)] id) (addrOf (global [(0, entryNone)] id) x23) 8 entryNone (tenWith [(0, entryNone)]) ∧
    entryNone.rd = false ∧ entryNone.w = false ∧
    ((addrOf (global [] id) x23).toNat / 2 ^ 62 = 3 ∧ bitsAt (addrOf (global [] id) x23).toNat 48 14 = 0 ∧
      (global [] id).toMach.tenantNo.bind (global [] id).toMach.tenant = some (tenWith []) ∧
      (tenWith []).entryAt (bitsAt (addrOf (global [] id) x23).toNat 0 48) = none) :=
  ⟨by decide +kernel, maps _ _ _ _ (by decide +kernel) (by decide +kernel) (by decide +kernel) (by decide), rfl, rfl, by decide +kernel⟩
/-- A host-shared range: a load that has not left, one whose answer has come, and one with a fault. -/
def entryHost : RangeEntry := { entryRw with host := true, pbase := 0x200000 }
def tenShared : Tenant := { tenWith [(0, entryHost)] with window := (0x1000000, 0x1000000) }
def sharing (f : Ctx → Ctx) : State := { global [(0, entryHost)] f with tenants := [tenShared] }
def shared (fault : Option (Nat × Nat)) : State := { sharing (fun c => { c with issued := { host := some 3 } }) with
  reqs := [{ key := 3, proc := 0, chan := 1, tag := none, loc := homeKey entryHost tenShared 0x40, addr := 0xC000000000000040, host := true, gen := 1
             op := .read 8 0, stage := .answered, value := 77, fault := fault }] }
theorem witness_GlobalAccess_host : (∀ f : Ctx → Ctx, Maps (sharing f) 0xC000000000000040 8 entryHost tenShared) ∧ Settled (sharing id).toMach ∧
    entryHost.host = true ∧ entryHost.rd = true ∧ entryHost.w = true ∧
    ∀ fault, Maps (shared fault) 0xC000000000000040 8 entryHost tenShared ∧ (shared fault).ctx.mq1Err = none ∧ (shared fault).bad = [] ∧
      ∃ r, (shared fault).reqs = [r] ∧ r.stage = .answered ∧ (shared fault).ctx.issued.host = some r.key ∧ r.fault = fault ∧ r.value < 2 ^ (8 * 8) :=
  ⟨fun _ => ⟨⟨by decide, by decide⟩, rfl, by decide +kernel, by decide, by decide⟩, settledOf _ ⟨rfl, rfl, rfl, rfl, rfl⟩, rfl, rfl, rfl,
    fun _ => ⟨⟨⟨by decide, by decide⟩, rfl, by decide +kernel, by decide, by decide⟩, rfl, rfl, _, rfl, rfl, rfl, rfl, (by decide : 77 < 2 ^ (8 * 8))⟩⟩
theorem test_host_load : after (.ld x23) (sharing id) (fun t => (t.procs.map (·.st), t.reqs.map fun y => (y.loc, y.host))) =
    some ([.blocked], [(2 ^ 64 + 0x1200040, true)]) := by decide +kernel
theorem test_host_answer : after (.ld x23) (shared none) (fun t => (t.toMach.g 2, t.reqs.length)) = some (77, 0) := by decide +kernel
/-- Offset 0x340 of the spread view is byte 0x40 of server 3. -/
theorem test_global_load : after (.ld ⟨px [0x300], 2, 3⟩) { global [(0, entryRw)] id with
    mem := cells (3 * 2 ^ 30 + 0x40) 8 0x77, ctx := { (global [(0, entryRw)] id).ctx with g := ctx0.g.set! 3 0xC000000000000440 } }
    (fun t => t.toMach.g 2) = some 0x77 := by decide +kernel
theorem test_global_store : after (.sw x23) (global [(0, entryRw)] id) (fun t => (t.mem, t.reqs.map fun r => (r.chan, r.tag, r.loc))) =
    some ([], [(1, none, 0x40)]) := by decide +kernel

/-- Channel 0, size code 3: 64 bytes, g2 the tag, g3 the global address, g4 the local one. -/
def packet (sub : BitVec 4) : F2 := ⟨{ pr 4 false false true with po := some sub }, 2, 3⟩
theorem witness_Packets : (packet 3).w = true ∧ Settled (global [(0, entryRw)] id).toMach ∧ (packet 3).pre.sub / 8 < 2 ∧ (packet 11).pre.sub / 8 = 1 ∧
    (((global [(0, entryRw)] id).ctx.mq 0).tag (((global [(0, entryRw)] id).ctx.mq 0).seq % 8)).kind = .free ∧
    ((global [(0, entryRw)] id).toMach.g (packet 3).aN).toNat % 64 = 0 ∧
    Maps (global [(0, entryRw)] id) ((global [(0, entryRw)] id).toMach.g (packet 3).aN) 64 entryRw (tenWith [(0, entryRw)]) ∧
    (∀ rd wr, OwnBlock (global [(0, entryRw)] id) ((global [(0, entryRw)] id).toMach.g (packet 3).eN) 16 (64 + 64 / 8) rd wr) ∧
    ((packet 6).pre.sub % 8 = 6 → (packet 6).eN % 2 = 0) :=
  ⟨by decide, settled_global _, by decide, by decide, by decide +kernel, by decide +kernel,
    maps _ _ _ _ (by decide +kernel) (by decide +kernel) (by decide +kernel) (by decide),
    fun _ _ => ownBlock _ _ _ _ _ _ ⟨rfl, rfl⟩ (by decide +kernel), by decide⟩
theorem witness_Packets_host : entryHost.host = true ∧ entryHost.rd = true ∧ entryHost.w = true ∧ Settled (sharing id).toMach ∧
    (∀ n, 0 < n → n ≤ 64 → Maps (sharing id) ((sharing id).toMach.g (packet 3).aN) n entryHost tenShared) ∧
    ((sharing id).toMach.g (packet 6).aN).toNat % 8 = 0 :=
  ⟨rfl, rfl, rfl, settledOf _ ⟨rfl, rfl, rfl, rfl, rfl⟩, fun n h k => ⟨⟨by decide +kernel, by decide +kernel⟩, rfl, by decide +kernel,
    Nat.le_trans (Nat.add_le_add_left k _) (by decide +kernel), h⟩, by decide +kernel⟩
theorem test_mrd : after (.mrd (packet 3)) (global [(0, entryRw)] id) (fun t => (t.toMach.g 2, t.ctx.mq0.seq, t.reqs.map (·.tag))) =
    some (0, 1, [some 0]) := by decide +kernel
/-- Tag 7 in each of its states, and tag number 8. -/
def tagged (t : Tag) (n : Word) : State := withCtx fun c => { c with g := c.g.set! 3 n, mq0 := c.mq0.setTag 7 t }
theorem witness_PacketReplies (t : Tag) : x23.pre.sub / 8 < 2 ∧ ((tagged t 7).toMach.g x23.aN).toNat ≤ 7 ∧
    ((tagged t 7).ctx.mq 0).tag 7 = t ∧ 7 < ((tagged t 8).toMach.g x23.aN).toNat := ⟨by decide, Nat.le_refl 7, rfl, Nat.le_refl 8⟩
theorem test_mrsp : after (.mrsp ⟨po 0, 2, 3⟩) (tagged { kind := .atomic, value := 9 } 7)
    (fun t => (t.toMach.g 2, (t.ctx.mq0.tag 7).kind)) = some (9, .free) := by decide +kernel
theorem witness_GlobalVectors : let s := global [(0, entryRw)] id
    s.ctx.fmt = some .int32 ∧ inM .int32 = true ∧ Plain s.toMach ∧ Settled s.toMach ∧ s.bad = [] ∧ s.ctx.vl ≤ s.ctx.vlmax ∧
    Aligned s x134.dN ∧ x134.dN + groupRegs s Fmt.int32.width ≤ 32 ∧ (s.toMach.g x134.aN).toNat / 2 ^ 62 = 3 ∧
    (∀ j, Active s x134.pre j → (elemAddr s x134 .unit Fmt.int32.width j).toNat % (Fmt.int32.width / 8) = 0 ∧
      Maps s (elemAddr s x134 .unit Fmt.int32.width j) (Fmt.int32.width / 8) entryRw (tenWith [(0, entryRw)]) ∧ entryRw.host = false) := by
  refine ⟨by decide +kernel, rfl, plainOf _ ⟨rfl, rfl, rfl, rfl, by decide⟩, settled_global _, rfl, by decide +kernel, ?_, by decide +kernel,
    by decide +kernel, fun j h => ?_⟩
  · unfold Aligned; decide +kernel
  have k := (by decide +kernel : ∀ j, j < 5 → (elemAddr (global [(0, entryRw)] id) x134 .unit Fmt.int32.width j).toNat % 4 = 0 ∧
    ((elemAddr (global [(0, entryRw)] id) x134 .unit Fmt.int32.width j).toNat / 2 ^ 62 = 3 ∧
      bitsAt (elemAddr (global [(0, entryRw)] id) x134 .unit Fmt.int32.width j).toNat 48 14 = 0) ∧
    (tenWith [(0, entryRw)]).entryAt (bitsAt (elemAddr (global [(0, entryRw)] id) x134 .unit Fmt.int32.width j).toNat 0 48) = some entryRw ∧
    bitsAt (elemAddr (global [(0, entryRw)] id) x134 .unit Fmt.int32.width j).toNat 0 21 + 4 ≤ 2 ^ 21) j h.1
  exact ⟨k.1, maps _ _ _ _ k.2.1 k.2.2.1 k.2.2.2 (by decide), rfl⟩
/-- Its requests are sent, and the gateway has room for them or not. -/
def sentBefore (n : Nat) : State := { withCtx (fun c => { c with issued := { sent := true } }) with
  reqs := (List.range n).map fun i =>
    { key := i, proc := 0, chan := 1, tag := none, op := .write [1], loc := 0x40, addr := 0xC000000000000040, host := false, gen := 1 } }
theorem witness_GlobalVectors_sent : (global [(0, entryRw)] id).ctx.issued.sent = false ∧ entryRw.rd = true ∧ entryRw.w = true ∧
    (∀ n, (sentBefore n).ctx.issued.sent = true) ∧ (sentBefore 8).toMach.unaccepted 1 ≤ 8 ∧ 8 < (sentBefore 9).toMach.unaccepted 1 :=
  ⟨rfl, rfl, rfl, fun _ => rfl, by decide +kernel, by decide +kernel⟩
theorem test_vldg : after (.vldg ⟨po 0, 1, 3⟩) { global [(0, entryRw)] id with mem := cells 0x44 4 9 } (fun t => elemAt t.ctx 1 32 1) = some 9 := by
  decide +kernel

/-! Residencies. -/

/-- One residency of process 0, in a state, named by g2, g3 and g4; the process may use the matrix engine. -/
def resid (bank : Bool) (st : ResState) : Resid :=
  { bank := bank, handle := handleOf bank 0 0 1, spot := 0, slot := 0, gen := 1, owner := 0, tenant := 1, state := st, mib := if bank then 2 else 0 }
def holding (bank : Bool) (st : ResState) (a : Word) : State := { (matrix 0) with
  ctx := { (matrix 0).ctx with
    g := ((ctx0.g.set! 2 (BitVec.ofNat 64 (handleOf bank 0 0 1))).set! 3 a).set! 4 (BitVec.ofNat 64 (handleOf bank 0 0 1)) }
  resids := [resid bank st], tenants := [tenWith [(0, entryRw)]] }
theorem named (bank : Bool) (st : ResState) (a : Word) (h : st ≠ .revoked) :
    Names (holding bank st a) (BitVec.ofNat 64 (handleOf bank 0 0 1)) 0 (resid bank st) := by
  refine ⟨rfl, ?_, ?_⟩
  · cases bank <;> decide +kernel
  · cases bank <;> cases st <;> first | exact absurd rfl h | rfl

theorem witness_ResidencyAllocation : (matrix 0).ctx.mOn = true ∧
    -- no quota; room; a slot
    (let s := { regs [(3, 0)] with tenants := [{ ten1 with arr := 0 }] }
     (s.toMach.g x23.aN).toNat = 0 ∧ ¬ SlotRoom s) ∧
    (let s := regs [(3, 4)]
     tenantOf s = 1 ∧ (s.toMach.g x23.aN).toNat = 4 ∧ SlotRoom s ∧ ∀ r ∈ s.toMach.holding false s.here, r.slot ≠ 15) ∧
    -- 8 MiB on stack 0 fit the quota of 8; 9 do not
    (let s := regs [(3, 8 * 256 + 1)]
     (s.toMach.g x23.aN).toNat = 8 * 256 + 0 * 8 + 0 + 1 ∧ sumMib [] + 8 ≤ s.toMach.quotaBank 1 0 ∧ s.toMach.holding true 0 = [] ∧
      (s.toMach.freeRows 0 8).isSome = true ∧ s.toMach.quotaBank 1 0 < sumMib [] + 9) ∧
    -- a stack of which 98,304 MiB are held by another tenant
    (let s := { regs [(3, 257)] with resids := [{ resid true .ready with mib := 98304, rows := [(0, 98304)], tenant := 2 }] }
     ((s.toMach.holding true 0).filter fun r => r.tenant == 1) = [] ∧ sumMib [] + 1 ≤ s.toMach.quotaBank 1 0 ∧ s.toMach.freeRows 0 1 = none) ∧
    (8 % 2 = 0 ∧ 8 ≤ 8) ∧ (1 / 256 = 0) ∧ 98304 < (98305 * 256 + 1) / 256 ∧ 23 < (256 + 24 * 8 + 1) / 8 % 32 := by
  unfold SlotRoom; decide +kernel
theorem test_rsalloc : after (.rsalloc ⟨po 0, 2, 3⟩) { matrix 0 with resids := [resid false .ready] } (fun t => t.toMach.g 2) =
    some (BitVec.ofNat 64 (1 * 2 ^ 8 + 1)) := by decide +kernel

/-- A local source, g3, and a global one. -/
theorem witness_ResidencyControl : (holding false .empty 0x8000).ctx.mOn = true ∧
    Names (holding false .empty 0x8000) ((holding false .empty 0x8000).toMach.g x23.dN) 0 (resid false .empty) ∧ (resid false .empty).state ≠ .loading ∧
    (holding false .empty 0x8000).ctx.faults.length < 16 ∧ Settled (holding false .empty 0x8000).toMach ∧ x23.w = false ∧
    ((holding false .empty 0x8000).toMach.g x23.aN).toNat % 64 = 0 ∧ LocalAddr ((holding false .empty 0x8000).toMach.g x23.aN) ∧
    ((holding false .empty 0x8000).toMach.g x23.aN).toNat + 32768 ≤ 0x180000 ∧
    OwnWindow (holding false .empty 0x8000) ((holding false .empty 0x8000).toMach.g x23.aN).toNat 32768 true false :=
  ⟨rfl, named _ _ _ (by decide), by decide, by decide, settledOf _ ⟨rfl, rfl, rfl, rfl, rfl⟩, rfl, by decide +kernel,
    by unfold LocalAddr; decide +kernel, by decide +kernel, window _ _ _ _ _ rfl (by decide +kernel)⟩
theorem witness_ResidencyControl_global : Names (holding true .stale 0xC000000000000000) ((holding true .stale 0xC000000000000000).toMach.g x23.dN) 0
      (resid true .stale) ∧ (resid true .stale).size = 0x200000 ∧
    Maps (holding true .stale 0xC000000000000000) ((holding true .stale 0xC000000000000000).toMach.g x23.aN) 0x200000 entryRw (tenWith [(0, entryRw)]) ∧
    entryRw.rd = true ∧ entryRw.watched = true :=
  ⟨named _ _ _ (by decide), rfl, ⟨by decide +kernel, rfl, by decide +kernel, by decide +kernel, by decide⟩, rfl, rfl⟩
/-- A handle that names a live residency; one of the right form that names none; one with a generation of zero. -/
def handleIn (w : Word) : State := { holding false .ready w with mem := [] }
theorem witness_ResidencyControl_handles :
    Names (handleIn (BitVec.ofNat 64 (handleOf false 0 0 1))) ((handleIn (BitVec.ofNat 64 (handleOf false 0 0 1))).toMach.g x23.aN) 0 (resid false .ready) ∧
    (resid false .ready).state ≠ .loading ∧ (resid false .ready).noSlot = false ∧
    handleOk ((handleIn 2).toMach.g x23.aN) = true ∧ (handleIn 2).toMach.myResid ((handleIn 2).toMach.g x23.aN) = none ∧
    handleOk ((handleIn 0x100).toMach.g x23.aN) = false :=
  ⟨named false .ready _ (by decide), by decide, rfl, by decide +kernel, by decide +kernel, by decide +kernel⟩
theorem test_rsq : after (.rsq ⟨po 0, 2, 3⟩) (handleIn 1) (fun t => t.toMach.g 2) = some 2 ∧
    after (.rsq ⟨po 0, 2, 3⟩) (handleIn 2) (fun t => t.toMach.g 2) = some 5 := by decide +kernel
theorem witness_ArrayResidencyUse : MatrixReady (holding false .ready 0) x234.dN ∧ x234.dN < 32 ∧ x234.w = true ∧
    (holding false .ready 0).ctx.fmt = some .int8 ∧ matrixFmt .int8 = true ∧ Plain (holding false .ready 0).toMach ∧ (holding false .ready 0).bad = [] ∧
    x234.u < 64 ∧ Names (holding false .ready 0) ((holding false .ready 0).toMach.g x234.eN) 0 (resid false .ready) ∧
    (resid false .ready).bank = false ∧ (resid false .ready).noSlot = false ∧ (resid false .ready).spot = (holding false .ready 0).here ∧
    (resid false .ready).state = .ready :=
  ⟨⟨rfl, by decide, (matrixReady 0 1 (by decide)).clean⟩, by decide, rfl, by decide +kernel, rfl, plainOf _ ⟨rfl, rfl, rfl, rfl, by decide⟩, rfl,
    by decide, named _ _ _ (by decide), rfl, rfl, by decide +kernel, rfl⟩
/-- v24 is a reply stream; bf16. -/
def replying : State := { holding true .ready 0 with
  ctx := { (holding true .ready 0).ctx with vtype := 8, vlmax := 256, streams := ctx0.streams.set! 0 { on := true, kind := .reply } } }
def xResv : F2 := ⟨{ pr 4 true false true with po := some 0 }, 8, 3⟩
theorem witness_BankResidencyUse : replying.ctx.mOn = true ∧ xResv.w = true ∧ handleOk (replying.toMach.g xResv.eN) = true ∧
    replying.ctx.fmt = some .bf16 ∧ Fmt.bf16 ∈ [Fmt.bf16, .fp8e4, .fp8e5] ∧ replying.ctx.vl ≤ replying.ctx.vlmax ∧ xResv.dN < 32 ∧
    replying.ctx.streamOn xResv.dN = true ∧ replying.ctx.sinkOn xResv.dN = false ∧ (replying.ctx.stream (xResv.dN - 24)).kind = .reply ∧
    (∀ k, k < 4 → replying.ctx.streamOn k = false) ∧ groupRegs replying Fmt.bf16.width = 1 ∧
    (replying.nears.filter fun n => n.proc == replying.toMach.self).length < 8 ∧ xResv.aN % replying.ctx.grp = 0 := by decide +kernel
theorem witness_BankResidencyUse_clean : (∀ k : Nat, replying.ctx.vBad[k]?.getD 0 = 0) ∧ (∀ k : Nat, replying.ctx.pBad[k]?.getD 0 = 0) := by
  refine ⟨fun k => ?_, fun k => ?_⟩
  · rw [show replying.ctx.vBad = Vector.replicate 32 0 from rfl, Vector.getElem?_replicate]; split <;> rfl
  · rw [show replying.ctx.pBad = Vector.replicate 8 0 from rfl, Vector.getElem?_replicate]; split <;> rfl

/-- An array residency that loads from local memory, and one whose source lies outside every range. -/
def filling (r : Resid) : State := { holding false .ready 0 with resids := [r] }
def fillLocal : Resid := { resid false .loading with load := 0x8000 }
def fillBad : Resid := { resid false .loading with load := 0xC000001000000000 }
theorem witness_ResidencyFills_ok : (filling fillLocal).resids[0]? = some fillLocal ∧ fillLocal.state = .loading ∧ fillLocal.lost = [] ∧
    fillLocal.fillCtr = none ∧ fillLocal.reload = false ∧ ({ fillLocal with reload := true } : Resid).reload = true ∧
    ((filling fillLocal).toMach.fillSource fillLocal).toOption.isSome = true := by
  refine ⟨rfl, rfl, rfl, rfl, rfl, rfl, by decide +kernel⟩
theorem witness_ResidencyFills_wf : ∀ bs m, (filling fillLocal).toMach.fillSource fillLocal = .ok (bs, m) → m.mem = [] := by
  intro bs m h
  have k : ((filling fillLocal).toMach.fillSource fillLocal).toOption.map (·.2.mem) = some [] := by decide +kernel
  rw [h] at k; exact Option.some.inj k
theorem witness_ResidencyFills_fault : (filling fillBad).resids[0]? = some fillBad ∧ fillBad.state = .loading ∧ fillBad.lost = [] ∧
    fillBad.fillCtr = none ∧ ((filling fillBad).toMach.fillSource fillBad).toOption.isNone = true := by
  refine ⟨rfl, rfl, rfl, rfl, by decide +kernel⟩
/-- A write to byte 0x40 of the source of a bank residency is on its way. -/
def watched : State := { holding true .ready 0 with
  resids := [{ resid true .ready with source := 0xC000000000000000, global := true }]
  reqs := [{ key := 3, proc := 0, chan := 1, tag := none, op := .write [1], loc := 0x40, addr := 0xC000000000000040, host := false, gen := 1 }] }
theorem witness_ResidencyFills_mark : ∃ r q, watched.resids[0]? = some r ∧ watched.reqs.find? (fun (y : Req) => y.key == 3) = some q ∧
    q.stage = .issued ∧ q.host = false ∧ 0x40 ∈ q.written ∧ watched.toMach.overlaps r 0x40 1 = true :=
  ⟨_, _, rfl, rfl, rfl, rfl, by decide, by decide +kernel⟩

/-- A bf16 image of one panel of one row, and requests for its panels 0 and 1, one for a residency revoked, one answered. -/
def near (panel : Nat) (st : ResState) (reply : Option (List Reply)) : State := { holding true st 0 with
  mem := cells (Key.region 0 0 0) 12 (8 + 2 ^ 32 + 2 ^ 64)
  nears := [{ key := 3, proc := 0, handle := handleOf true 0 0 1, panel := panel, fmt := 8, xs := [some 0x3F80], reply := reply }] }
theorem witness_NearBankRequests : (near 0 .ready none).nears.map (·.key) = [3] ∧ (near 0 .ready none).bad = [] ∧
    ((near 0 .ready none).procs[0]?.bind fun p => ((near 0 .ready none).nets[p.net]?).map (·.tenant)) = some 1 ∧
    (near 0 .ready none).toMach.checkResid 0 (some 1) none true (BitVec.ofNat 64 (handleOf true 0 0 1)) 3 = .go 0 (resid true .ready) ∧
    0 < ((near 0 .ready none).toMach.bankHead (resid true .ready)).panels ∧
    ((near 1 .ready none).toMach.bankHead (resid true .ready)).panels ≤ 1 ∧
    (∃ x, (near 0 .empty none).toMach.checkResid 0 (some 1) none true (BitVec.ofNat 64 (handleOf true 0 0 1)) 3 = .fail x) := by
  refine ⟨rfl, rfl, rfl, by decide +kernel, by decide +kernel, by decide +kernel, ⟨_, rfl⟩⟩
theorem witness_NearBankRequests_reply : let s := near 0 .ready (some [{ fault := none, data := 5 }])
    ∃ n, s.nears.find? (fun y => y.key == 3) = some n ∧ n.reply = some ({ fault := none, data := 5 } :: []) ∧
      (s.nears.find? fun y => y.proc == n.proc).map (·.key) = some 3 ∧ n.proc < s.procs.length := ⟨_, rfl, rfl, rfl, by decide⟩

/-! Instructions of the tenant level, launches, entries. -/

theorem witness_Privilege : processLevel.ctx.lvl = 0 := by decide

/-- An image of one process, pre-placed under handle 2, and a descriptor at 0x40 that names it at index 9. -/
def image2 : Image :=
  { handle := 2, tenant := 1, procs := [decl0], chans := [], pools := [], bars := [], resids := [], digests := [], figs := [], lap := 0
    rtblk := 0, spill := 0, cost := 1, segs := [], ready := true, slots := [⟨0, 0, 1⟩] }
def launching (handle index flags : Nat) : State := { regs [(3, 0x40)] with
  images := [image2], mem := cells (Key.tile 0 0x40) 64 (handle + 2 ^ 64 * index + 2 ^ 96 * flags) }
def liveEntry (level index : Nat) : Entry := { tenant := 1, level := level, index := index, parent := 0, queue := 5 }
theorem witness_Launches : (∀ h i f, OwnBlock (launching h i f) ((launching h i f).toMach.g x23.aN) 64 64 true false) ∧
    (∀ h i f, Settled (launching h i f).toMach) ∧ tenantOf (launching 2 65535 1) = 1 ∧
    Mem.nat (launching 2 65535 1).mem (ownKey (launching 2 65535 1) ((launching 2 65535 1).toMach.g x23.aN)) 64 = 2 + 2 ^ 64 * 65535 + 2 ^ 96 * 1 ∧
    (launching 2 65535 1).toMach.readyImage 1 2 = some image2 ∧ (launching 2 65535 1).toMach.isLive 1 0 65535 = false ∧ image2.resids = [] ∧
    (∀ y ∈ (launching 2 65535 1).nets, y.live = true → y.image ≠ 2) ∧
    Mem.nat (launching 3 0 0).mem (ownKey (launching 3 0 0) ((launching 3 0 0).toMach.g x23.aN)) 64 = 3 + 2 ^ 64 * 0 + 2 ^ 96 * 0 ∧
    (launching 3 0 0).toMach.readyImage 1 3 = none ∧
    ({ launching 2 9 0 with entries := [liveEntry 0 9] } : State).toMach.isLive 1 0 9 = true :=
  have inWindow : (0x40 : Word).toNat + 64 ≤ 0x180000 ∧ (0x40 : Word).toNat % 64 = 0 := by decide +kernel
  ⟨fun _ _ _ => ownBlock _ _ _ _ _ _ ⟨rfl, rfl⟩ inWindow, fun _ _ _ => settledOf _ ⟨rfl, rfl, rfl, rfl, rfl⟩, by
    and_intros <;> decide +kernel⟩
theorem test_launch : after (.launch ⟨po 0, 2, 3⟩) (launching 2 9 0) (fun t => (t.toMach.g 2, t.toMach.isLive 1 0 9, t.nets.length)) =
    some (0, true, 2) := by decide +kernel

def doneRecord (d : Option (List Byte)) : Record :=
  { status := 1, level := 0, index := 9, nid := 7, discarded := 3, members := 1, wmark := 0, queue := 5, fault := [], digest := d }
def entries (w : Word) (d : Option (List Byte)) : State := { regs [(3, w), (4, 0x40)] with
  entries := [{ liveEntry 0 9 with live := false, record := some (doneRecord d) }, liveEntry 0 0xFFFF] }
/-- A final entry with a digest and without one, a live entry, and a target with a bit between its fields. -/
theorem witness_EntryInstructions : base.ctx.lvl ≠ 0 ∧ ((entries 9 none).toMach.g x234.aN).toNat / 2 ^ 16 % 2 ^ 46 = 0 ∧
    (entries 9 (some [1, 2])).toMach.finalRecord (tenantOf base) 0 9 = some (doneRecord (some [1, 2])) ∧
    (entries 9 none).toMach.finalRecord (tenantOf base) 0 9 = some (doneRecord none) ∧
    (entries 0xFFFF none).toMach.finalRecord (tenantOf base) 0 0xFFFF = none ∧ x234.w = true ∧
    (∀ d, OwnBlock (entries 9 d) ((entries 9 d).toMach.g x234.eN) 64 256 false true) ∧
    ((entries 0x10000 none).toMach.g x234.aN).toNat / 2 ^ 16 % 2 ^ 46 ≠ 0 :=
  ⟨by decide, by decide +kernel, by decide +kernel, by decide +kernel, by decide +kernel, rfl,
    fun _ => ownBlock _ _ _ _ _ _ ⟨rfl, rfl⟩ (by decide +kernel : (0x40 : Word).toNat + 256 ≤ 0x180000 ∧ (0x40 : Word).toNat % 64 = 0), by decide +kernel⟩
/-- The answer that an earlier execution waited for. -/
theorem witness_EntryInstructions_answer : (entries 9 none).ctx.issued.answer = none ∧
    (withCtx fun c => { c with issued := { answer := some (doneRecord none) } }).ctx.issued.answer.or none = some (doneRecord none) ∧
    (doneRecord (some [1, 2])).digest = some [1, 2] ∧ (entries 9 none).bad = [] ∧ Memory.wf (entries 9 none).mem = true := by decide +kernel
theorem test_ccget : after (.ccget ⟨po 0, 2, 3⟩) (entries 9 none) (fun t => t.toMach.g 2) = some 0x300000001 := by decide +kernel
theorem test_cancel : after (.cancel ⟨po 0, 2, 3⟩) (entries 0xFFFF none) (fun t => t.entries.map (·.cancel)) = some [false, true] := by
  decide +kernel

/-- Network 1 stands at index 9; the snapshot address is in g4. -/
def cuttable (a e : Word) (f : Net → Net) : State := { regs [(3, a), (4, e)] with
  nets := [net0, f { net0 with index := 9, nid := 9, procs := [] }] }
theorem witness_CutInstruction : base.ctx.lvl ≠ 0 ∧ x234.w = true ∧ ((cuttable 9 0xC000000000001000 id).toMach.g x234.aN).toNat < 65536 ∧
    (∀ y, (cuttable 9 0xC000000000001000 id).toMach.curNet = some y → ¬ (y.live = true ∧ y.index = 9)) ∧
    ((cuttable 9 0xC000000000001000 id).toMach.g x234.eN).toNat % 4096 = 0 ∧ isGlobal ((cuttable 9 0xC000000000001000 id).toMach.g x234.eN) = true ∧
    (cuttable 9 0xC000000000001000 id).toMach.liveNet 1 9 = some 1 ∧ (cuttable 8 0xC000000000001000 id).toMach.liveNet 1 8 = none ∧
    ((cuttable 9 0xC000000000001000 id).nets[1]?).map (fun y => (y.live, y.cut, y.cancel, y.fatal)) = some (true, none, false, false) ∧
    ((cuttable 9 0xC000000000001000 fun y => { y with cancel := true }).nets[1]?).map (·.cancel) = some true ∧
    ((cuttable 9 0xC000000000000800 id).toMach.g x234.eN).toNat % 4096 ≠ 0 := by
  refine ⟨by decide, rfl, by decide +kernel, fun y h => ?_, by decide +kernel⟩
  cases h; decide +kernel
theorem test_cut : after (.cut ⟨{ pr 4 false false true with po := some 0 }, 0, 3⟩) (cuttable 9 0xC000000000001000 id)
    (fun t => t.nets.map (·.cut)) = some [none, some 0xC000000000001000] := by decide +kernel

/-! Range tables, figures, digests, counters, random numbers. -/

/-- An image of R218 at 0x40: 2 MiB at virtual 0, mode 0, r and w, valid; its index in g3, its address in g4. -/
def imageRw : Nat := 0x200000 * 2 ^ 64 + 3 * 2 ^ 200 + 0x80 * 2 ^ 208
def rangeSet (i : Word) (d : Nat) : State := { regs [(3, i), (4, 0x40)] with mem := cells (Key.tile 0 0x40) 32 d }
theorem witness_RangeTables_set : base.ctx.lvl ≠ 0 ∧ x234.w = true ∧ ((rangeSet 1023 imageRw).toMach.g x234.aN).toNat < 1024 ∧
    (∀ i d, OwnBlock (rangeSet i d) ((rangeSet i d).toMach.g x234.eN) 32 32 true false) ∧
    rangeImage (Mem.nat (rangeSet 1023 imageRw).mem (ownKey (rangeSet 1023 imageRw) ((rangeSet 1023 imageRw).toMach.g x234.eN)) 32) =
      some { vlimit := 0x200000, rd := true, w := true, valid := true } ∧
    rangeImage (Mem.nat (rangeSet 0 (imageRw + 1)).mem (ownKey (rangeSet 0 (imageRw + 1)) ((rangeSet 0 (imageRw + 1)).toMach.g x234.eN)) 32) = none ∧
    1024 ≤ ((rangeSet 1024 imageRw).toMach.g x234.aN).toNat :=
  ⟨by decide, rfl, by decide +kernel,
    fun _ _ => ownBlock _ _ _ _ _ _ ⟨rfl, rfl⟩ (by decide +kernel : (0x40 : Word).toNat + 32 ≤ 0x180000 ∧ (0x40 : Word).toNat % 32 = 0),
    by decide +kernel, by decide +kernel, by decide +kernel⟩
/-- A host-shared image at the start of the host window, which is empty, or holds 2 MiB. -/
def hostSet (window : Nat) : State := { rangeSet 5 (imageRw + 2 ^ 208) with tenants := [{ ten1 with window := (0, window) }] }
theorem witness_RangeTables_host :
    (rangeImage (Mem.nat (hostSet 0).mem (ownKey (hostSet 0) ((hostSet 0).toMach.g x234.eN)) 32)).map (fun e => (e.host, e.pbase)) = some (true, 0) ∧
    (((hostSet 0).toMach.tenantNo.bind (hostSet 0).toMach.tenant).map (·.window.2)).getD 0 ≤ 0 ∧
    0 < (((hostSet 0x200000).toMach.tenantNo.bind (hostSet 0x200000).toMach.tenant).map (·.window.2)).getD 0 := by decide +kernel
/-- Staged tables: two entries that overlap; an entry that the tenant does not own; one that it owns, changed and not. -/
def ownEntry : RangeEntry := { vlimit := 0x200000, rd := true, w := true, valid := true }
def committing (staged active : List (Nat × RangeEntry)) (rows : List Nat) : State :=
  { base with tenants := [{ ten1 with staged := staged, active := active, rows := rows, gen := 4 }] }
theorem witness_RangeTables_commit : tableOverlaps [(0, ownEntry), (1, ownEntry)] = true ∧ tableOverlaps [(0, ownEntry)] = false ∧
    base.toMach.mayMap { ten1 with rows := [] } ownEntry = false ∧ base.toMach.mayMap { ten1 with rows := [0] } ownEntry = true ∧
    (committing [(0, ownEntry)] [] [0]).ctx.issued.commit = none ∧ ten1.switch = none ∧ [(0, ownEntry)] ≠ ([] : List (Nat × RangeEntry)) ∧
    (committing [(0, ownEntry)] [] [0]).toMach.tenantNo.bind (committing [(0, ownEntry)] [] [0]).toMach.tenant =
      some { ten1 with staged := [(0, ownEntry)], active := [], rows := [0], gen := 4 } ∧ 3 < 4 := by decide +kernel
theorem witness_RangeTables_settled (a b r) : Settled (committing a b r).toMach := settledOf _ ⟨rfl, rfl, rfl, rfl, rfl⟩
def committed : State := { committing [] [] [] with ctx := { ctx0 with issued := { commit := some 3 } } }
theorem witness_RangeTables_done : committed.ctx.issued.commit = some 3 ∧ committed.reqs = [] ∧
    ({ committed with tenants := [{ ten1 with switch := some [] }] } : State).toMach.tenant 1 = some { ten1 with switch := some [] } ∧
    ({ committed with tenants := [{ ten1 with switch := some [] }] } : State).toMach.midLoad 1 = false := by
  decide +kernel
theorem test_rtset_commit : after (.rtset ⟨{ pr 4 false false true with po := some 0 }, 0, 3⟩) (rangeSet 5 imageRw)
    (fun t => t.tenants.map (·.staged)) = some [[(5, ownEntry)]] := by decide +kernel
theorem test_rtcommit_not_owned : after (.rtcommit ⟨po 0, 2, 0⟩) (committing [(0, ownEntry)] [] []) (fun t => (t.toMach.g 2).toInt) = some (-2) := by
  decide +kernel

/-- A figure of `uend` alone at 0x80, to word 0xFFF; one of an operation that is none; the store word and length in g4. -/
def uend : Nat := 0x3F * 2 ^ 58
def figuring (w : Nat) (desc : Word) : State := { regs [(3, 0x80), (4, desc)] with mem := cells (Key.tile 0 0x80) 8 w }
theorem witness_FigureStore : Memory.wf (figuring uend 0x1FFF).mem = true ∧ (∀ y ∈ (figuring uend 0x1FFF).marks, 1 ≤ y.2) ∧ x234.w = true ∧
    (0xFFF < 4096 ∧ 1 ≤ 1 ∧ 1 ≤ 256) ∧ ((figuring uend 0x1FFF).toMach.g x234.eN).toNat = 0xFFF + 4096 * 1 ∧
    (∀ w d, OwnBlock (figuring w d) ((figuring w d).toMach.g x234.aN) 8 (8 * 1) true false) ∧
    verifyFigure [BitVec.ofNat 64 (Mem.nat (figuring uend 0x1FFF).mem (ownKey (figuring uend 0x1FFF) 0x80) 8)] 0xFFF = none ∧
    verifyFigure [BitVec.ofNat 64 (Mem.nat (figuring (0x3E * 2 ^ 58) 0x1FFF).mem (ownKey (figuring (0x3E * 2 ^ 58) 0x1FFF) 0x80) 8)] 0xFFF ≠ none :=
  ⟨by decide +kernel, by decide, rfl, by decide, by decide +kernel,
    fun _ _ => ownBlock _ _ _ _ _ _ ⟨rfl, rfl⟩ (by decide +kernel : (0x80 : Word).toNat + 8 * 1 ≤ 0x180000 ∧ (0x80 : Word).toNat % 8 = 0),
    by decide +kernel, by decide +kernel⟩
/-- Partitions 15 and 16; number 63 and local word 255, marked and not; and the figure `uend` bound to number 3. -/
def marked : State := { regs [(3, 63), (4, 255)] with marks := [(markKey 0 255, 1)], mem := cells (Key.figure 0 255 0) 8 uend }
def bound : State := { marked with ctx := { marked.ctx with figs := ctx0.figs.set! 3 (some 255) } }
theorem witness_FigureStore_bind : (⟨po 0, 0, 15⟩ : F2).aImm ≤ 15 ∧ 15 < (⟨{ pr 0 false true false with po := some 0 }, 0, 0⟩ : F2).aImm ∧
    (marked.toMach.g x234.aN).toNat ≤ 63 ∧ (marked.toMach.g x234.eN).toNat ≤ 255 ∧
    marked.toMach.markAt marked.here (marked.ctx.part.toNat * 256 + 255) ≠ none ∧
    (regs [(3, 63), (4, 255)]).toMach.markAt 0 255 = none := by decide +kernel
theorem test_fgload : after (.fgload ⟨{ pr 4 false false true with po := some 0 }, 0, 3⟩) (figuring uend 0x1FFF)
    (fun t => (t.marks, Mem.nat t.mem (Key.figure 0 0xFFF 0) 8)) = some ([(markKey 0 0xFFF, 1)], uend) := by decide +kernel
def xFig : F2 := ⟨po 0, 0, 0⟩
theorem witness_FigureInvocation : bound.ctx.fig 3 = some 255 ∧ bound.toMach.markAt bound.here (255 : BitVec 12).toNat ≠ none ∧
    (∃ r, FigRun.run 255 (figPar xFig 0 3 bound.ctx.pc.toNat) 4097 0 { m := bound.toMach } = .ok r) ∧
    bound.bad = [] ∧ Mem.nat bound.mem (Key.figure bound.here 255 0) 8 / 2 ^ 58 = 0x3F ∧ bound.ctx.fig 4 = none := by
  refine ⟨by decide +kernel, by decide +kernel, ?_, rfl, by decide +kernel, by decide +kernel⟩
  exact answered _ (by decide +kernel)

/-- Selectors: cycle, retired, the last listed of the context, of a tile, of server 3,071; and numbers that are not listed. -/
theorem witness_DigestSwitchesCounters : base.ctx.lvl ≠ 0 ∧ ((regs [(3, 7)]).toMach.g x23.aN).toNat = 7 ∧
    ((regs [(3, 257)]).toMach.g x23.aN).toNat = 256 + 1 ∧ ((regs [(3, 0xBFF00000207)]).toMach.g x23.aN).toNat = 2 ^ 32 * 3071 + 512 + 7 ∧
    selectorOk ((regs [(3, 8)]).toMach.g x23.aN).toNat = false ∧ selectorOk ((regs [(3, 0xC0000000200)]).toMach.g x23.aN).toNat = false ∧
    processLevel.ctx.lvl = 0 ∧ ((regs [(3, 256)]).toMach.g x23.aN).toNat / 256 % 4 = 1 ∧ ((regs [(3, 0x2FF)]).toMach.g x23.aN).toNat / 256 % 4 = 2 ∧
    ((regs [(3, 8)]).toMach.g x23.aN).toNat / 256 % 4 = 0 := by
  decide +kernel
theorem test_dgoff : after (.dgoff ⟨po 0, 0, 0⟩) (withCtx fun c => { c with dgOn := true }) (fun t => (t.ctx.dgOn, t.ctx.dgDone)) =
    some (false, true) := by decide +kernel
/-- A network that replays the seeds of id 6, with its seed and without; stream numbers 65,535 and 65,536. -/
def replaying (l : List Seed) : State := { withCtx (fun c => { c with replay := true }) with nets := [{ net0 with replay := some 6 }], seeds := l }
theorem witness_RandomNumbers_seed : base.ctx.replay = false ∧ base.seeds.length < 65536 ∧ (replaying []).ctx.replay = true ∧
    (replaying []).toMach.curNet = some { net0 with replay := some 6 } ∧
    (replaying [{ tenant := 1, nid := 6, proc := 0, seq := 0, s := 99 }]).seeds.find? (fun e => e.tenant == 1 && e.nid == 6 && e.proc == 0 && e.seq == 0) =
      some { tenant := 1, nid := 6, proc := 0, seq := 0, s := 99 } ∧
    ((regs [(3, 65535)]).toMach.g x23.aN).toNat < 65536 ∧ 65536 ≤ ((regs [(3, 65536)]).toMach.g x23.aN).toNat :=
  ⟨rfl, by decide, rfl, rfl, by decide +kernel, by decide +kernel, by decide +kernel⟩
/-- R326: the entry of the seed log is poisoned. -/
theorem witness_RandomNumbers_bad : (replaying [{ tenant := 1, nid := 6, proc := 0, seq := 0, s := 99, bad := true }]).seeds.find?
    (fun e => e.tenant == 1 && e.nid == 6 && e.proc == 0 && e.seq == 0) = some { tenant := 1, nid := 6, proc := 0, seq := 0, s := 99, bad := true } ∧
    (replaying [{ tenant := 1, nid := 6, proc := 0, seq := 1, s := 99 }]).seeds.find?
      (fun e => e.tenant == 1 && e.nid == 6 && e.proc == 0 && e.seq == 0) = none := by decide +kernel
theorem witness_RandomNumbers_vector : (vec 3 128 1 2 3).ctx.fmt = some .int32 ∧ (vec 10 128 1 2 3).ctx.fmt = some .fp32 ∧ Plain (vec 3 128 1 2 3).toMach ∧
    (vec 3 128 1 2 3).ctx.rngctl.toNat + ((vec 3 128 1 2 3).ctx.vl * 32 + 127) / 128 < 2 ^ 64 ∧ (vec 3 128 1 2 3).ctx.vl ≤ (vec 3 128 1 2 3).ctx.vlmax ∧
    x12.dN % (vec 3 128 1 2 3).ctx.grp = 0 ∧ x12.dN + groupRegs (vec 3 128 1 2 3) 32 ≤ 32 :=
  ⟨by decide +kernel, by decide +kernel, plain_vec _ _ _ _ _ (by decide +kernel), by decide +kernel⟩
theorem witness_StreamNumber : ((regs [(3, 65535)]).toMach.g x23.aN).toNat / 2 ^ 16 = 0 ∧ ((regs [(3, 65536)]).toMach.g x23.aN).toNat / 2 ^ 16 ≠ 0 := by
  decide +kernel
theorem test_rstream : after (.rstream x234) (withCtx fun c => { c with rngId := 0x12345678, rngctl := 9, g := (c.g.set! 3 0xABCD).set! 4 77 })
    (fun t => (t.ctx.rngId, t.ctx.rngctl)) = some (0xABCD5678, 77) := by decide +kernel
theorem test_rseed_replay : after (.rseed ⟨po 0, 2, 0⟩) (replaying [{ tenant := 1, nid := 6, proc := 0, seq := 0, s := 0x10000000000000063 }])
    (fun t => (t.toMach.g 2, t.ctx.rngKey, t.ctx.seedSeq)) = some (99, 0x10000000000000063, 1) := by decide +kernel
theorem test_vrand_counts : after (.vrand ⟨po 0, 1, 0⟩) (vec 3 128 0 0 0) (fun t => t.ctx.rngctl) = some 2 := by decide +kernel

/-! Parked processes and snapshots. -/

def parkedCtx : Ctx := { ctx0 with idx := 1, nid := 7, place := some ⟨0, 0, 1⟩, g := ctx0.g.set! 5 0x66 }
def parkedProc : Proc := { net := 0, index := 1, decl := decl0, st := .parked, started := true, park := 0x2000, ctx := parkedCtx, record := some [] }
/-- Process 1 is parked; g3 names it and g4 is a local address, at which a record of it stands: its non-zero bytes by offset, as R323
lays them out for vl 5, int32, no vector register kept. -/
def parked (mem : Memory) : State := { regs [(3, 1), (4, 0x400)] with
  procs := [proc0, parkedProc], nets := [{ net0 with procs := [0, 1] }], mem := mem }
def parkedBytes : List (Nat × Nat) :=
  [(0, 69), (1, 86), (2, 65), (3, 83), (4, 69), (5, 73), (6, 82), (7, 84), (8, 1), (10, 5), (12, 3), (15, 3), (33, 4), (57, 23), (65, 32),
    (112, 102), (328, 5), (336, 3), (344, 128), (368, 8), (376, 1), (384, 1), (386, 7), (457, 4), (504, 4), (512, 254), (513, 255), (514, 255),
    (515, 31), (525, 24), (526, 7)]
def parkedRecord : Memory := [
    (0x4000000000400, 69#8), (0x4000000000401, 86#8), (0x4000000000402, 65#8), (0x4000000000403, 83#8), (0x4000000000404, 69#8),
    (0x4000000000405, 73#8), (0x4000000000406, 82#8), (0x4000000000407, 84#8), (0x4000000000408, 1#8), (0x400000000040A, 5#8),
    (0x400000000040C, 3#8), (0x400000000040F, 3#8), (0x4000000000421, 4#8), (0x4000000000439, 23#8), (0x4000000000441, 32#8),
    (0x4000000000470, 102#8), (0x4000000000548, 5#8), (0x4000000000550, 3#8), (0x4000000000558, 128#8), (0x4000000000570, 8#8),
    (0x4000000000578, 1#8), (0x4000000000580, 1#8), (0x4000000000582, 7#8), (0x40000000005C9, 4#8), (0x40000000005F8, 4#8),
    (0x4000000000600, 254#8), (0x4000000000601, 255#8), (0x4000000000602, 255#8), (0x4000000000603, 31#8), (0x400000000060D, 24#8),
    (0x400000000060E, 7#8)]
def parkedBits : Nat := parkedBytes.foldr (fun c n => c.2 * 256 ^ c.1 + n) 0
theorem witness_ParkedProcesses : base.ctx.lvl ≠ 0 ∧ ParkedAt (parked []) x234 1 parkedProc ∧ (parked []).cur ≠ some 1 ∧ Settled (parked []).toMach ∧
    (parked []).toMach.settled 1 = true ∧ parkedProc.held = false ∧ parkedProc.ctx.place ≠ none ∧ x234.w = true ∧
    OwnBlock (parked []) ((parked []).toMach.g x234.eN) 64 (recordLength (parkedCtx.saved 0xFF).length parkedCtx.tiles parkedCtx.replies.length) false true ∧
    recordPoison parkedCtx 0xFF = [] :=
  ⟨by decide, ⟨by decide +kernel, ⟨0, rfl, by decide +kernel⟩, rfl, rfl⟩, by decide, settledOf _ ⟨rfl, rfl, rfl, rfl, rfl⟩, by decide +kernel, rfl,
    by decide, rfl, ownBlock _ _ _ _ _ _ ⟨rfl, rfl⟩ (by decide +kernel), by decide +kernel⟩
theorem witness_ParkedProcesses_running : ((parked []).procs[0]?).map (·.st) = some .running ∧
    (∃ n, (regs [(3, 0), (4, 0x400)]).toMach.curNetNo = some n ∧ (regs [(3, 0), (4, 0x400)]).toMach.procAt n 0 = some 0) ∧
    ((regs [(3, 0), (4, 0x400)]).toMach.g x234.eN).toNat % 64 = 0 := ⟨rfl, ⟨0, rfl, by decide +kernel⟩, by decide +kernel⟩
theorem nat_append (a b : List Byte) : natOfBytes (a ++ b) = natOfBytes a + 256 ^ a.length * natOfBytes b := by
  induction a with
  | nil => simp [natOfBytes]
  | cons x r h =>
    simp only [List.cons_append, natOfBytes, h, List.length_cons, Nat.pow_succ]
    rw [Nat.mul_add, ← Nat.mul_assoc, Nat.mul_comm 256 (256 ^ r.length), ← Nat.add_assoc]
theorem get_past (m : Memory) (a : Nat) (h : ∀ c ∈ m, c.1 < a) : Mem.get m a = 0 := by
  induction m with
  | nil => rfl
  | cons c r k =>
    have := h c (List.mem_cons_self)
    rw [Mem.get, if_neg (by omega), if_neg (by omega)]
    exact k fun d hd => h d (List.mem_cons_of_mem _ hd)
theorem zeros (l : List Byte) (h : ∀ b ∈ l, b = 0) : natOfBytes l = 0 := by
  induction l with
  | nil => rfl
  | cons b r k => rw [natOfBytes, k fun d hd => h d (List.mem_cons_of_mem _ hd), h b List.mem_cons_self]; rfl
theorem bytes_past (m : Memory) (k : Nat) (ys : List Spot) (h : ∀ y ∈ ys, k ≤ y.key) (hm : ∀ c ∈ m, c.1 < k) :
    natOfBytes (ys.flatMap fun y => Mem.bytes m y.key 64) = 0 := by
  refine zeros _ fun b hb => ?_
  obtain ⟨y, hy, hb⟩ := List.mem_flatMap.mp hb
  simp only [Mem.bytes, List.mem_map, List.mem_range] at hb
  obtain ⟨i, -, rfl⟩ := hb
  exact get_past m _ fun c hc => Nat.lt_of_lt_of_le (hm c hc) (Nat.le_trans (h y hy) (Nat.le_add_right _ _))

/-- Where the 92 pieces of 64 bytes of the record lie: the first nine hold everything that is not zero. -/
def spotsFrom (i n : Nat) : List Spot := (List.range n).map fun j => { key := Key.tile 0 (0x400 + 64 * (i + j)), tile := some 0, host := false, e := {} }
theorem witness_ParkedProcesses_record : parkedProc.saved = none ∧
    ((parked parkedRecord).toMach.readRecord 0x400 64).toOption.map (fun r => (r.1.u 0 8, r.1.u 8 2, r.1.u 56 4)) =
      some (0x5452494553415645, 1, 5888) ∧
    ((parked parkedRecord).toMach.readRecord 0x400 5888).toOption.map (·.1) = some { bits := parkedBits, len := 5888, bad := [] } ∧
    ((parked parkedRecord).toMach.select 1).recordCheck parkedProc { bits := parkedBits, len := 5888, bad := [] } = none := by
  refine ⟨rfl, by decide +kernel, ?_, by decide +kernel⟩
  have h : ((parked parkedRecord).toMach.homes 0x400 5888 64 true false).toOption = some (spotsFrom 0 9 ++ spotsFrom 9 83) := by decide +kernel
  revert h
  simp only [Mach.readRecord]
  cases (parked parkedRecord).toMach.homes 0x400 5888 64 true false with
  | error e => intro h; cases h
  | ok l =>
    intro h
    obtain rfl : l = spotsFrom 0 9 ++ spotsFrom 9 83 := Option.some.inj h
    have hb : natOfBytes ((spotsFrom 0 9 ++ spotsFrom 9 83).flatMap fun y => Mem.bytes parkedRecord y.key 64) = parkedBits := by
      rw [List.flatMap_append, nat_append, bytes_past parkedRecord (Key.tile 0 (0x400 + 64 * 9)) (spotsFrom 9 83) (by decide +kernel) (by decide +kernel)]
      decide +kernel
    show some ({ bits := natOfBytes ((spotsFrom 0 9 ++ spotsFrom 9 83).flatMap fun y => Mem.bytes parkedRecord y.key 64), len := 5888, bad := [] } : Saved) = _
    rw [hb]

/-- A snapshot of 256 bytes at the start of the global range: the header alone, for an image without processes. -/
def snapHead : Nat := 0x5452494553435554 + 2 ^ 64 + 6 * 2 ^ 96 + 2 * 2 ^ 128 + 256 * 2 ^ 192 * 2 ^ 256
def snapping (mem : Memory) : State := { regs [(3, 0x40)] with
  images := [{ image2 with procs := [] }], tenants := [tenWith [(0, entryRw)]],
  mem := mem ++ cells (Key.tile 0 0x40) 64 (0xC000000000000000 + 2 ^ 64 * 9) }
theorem witness_SnapshotResumption : base.cur = some 0 ∧ base.ctx.lvl ≠ 0 ∧
    (∀ m, OwnBlock (snapping m) ((snapping m).toMach.g x23.aN) 64 64 true false) ∧ 0xC000000000000000 / 2 ^ 62 = 3 ∧
    0xC000000000000000 % 4096 = 0 ∧ Mem.nat (snapping []).mem (ownKey (snapping []) ((snapping []).toMach.g x23.aN)) 64 = 0xC000000000000000 + 2 ^ 64 * 9 ∧
    (snapping []).toMach.settle.readSnapshot 1 0xC000000000000000 = none ∧
    ((snapping (cells 0 256 snapHead)).toMach.settle.readSnapshot 1 0xC000000000000000).map (·.nid) = some 6 ∧
    ∃ m, (snapping (cells 0 256 snapHead)).toMach.hubResume 1 0xC000000000000000 9 65536 [] 0 = (0, m) := by
  refine ⟨rfl, by decide, fun _ => ownBlock _ _ _ _ _ _ ⟨rfl, rfl⟩ (by decide +kernel : (0x40 : Word).toNat + 64 ≤ 0x180000 ∧ (0x40 : Word).toNat % 64 = 0),
    by decide, by decide, by decide +kernel, by decide +kernel, by decide +kernel, ⟨_, Prod.ext (by decide +kernel) rfl⟩⟩

/-! Requests, copies, channels: the steps of the agents. -/

/-- One request of process 0 at a stage. -/
def requesting (st : Stage) (op : ReqOp) (host : Bool) : State := { global [(0, entryRw)] id with
  reqs := [{ key := 3, proc := 0, chan := 0, tag := some 7, op := op, loc := 0x40, addr := 0xC000000000000040, host := host, gen := 1, stage := st
             value := 9 }] }
theorem witness_ServerRequests : (∃ r, Pending (requesting .issued (.write [1]) false) 3 r ∧ r.stage = .issued) ∧
    (∃ r, Pending (requesting .gateway (.write [1]) false) 3 r ∧ r.stage = .gateway) ∧
    ((requesting .gateway (.write [1]) false).reqs.filter fun y => y.stage = .accepted && serverOf y.loc == 0).length < 128 ∧
    (∃ r, Pending (requesting .accepted (.read 64 0x80) false) 3 r ∧ r.stage = .accepted ∧
      (requesting .accepted (.read 64 0x80) false).reqs.takeWhile (fun y => y.key != 3) = []) ∧
    (requesting .accepted (.read 64 0x80) false).bad = [] ∧ Memory.wf (requesting .accepted (.write [1]) false).mem = true ∧
    (∃ r, Pending (requesting .merging (.write [1]) false) 3 r ∧ r.stage = .merging) :=
  by and_intros <;> first | decide | exact ⟨_, rfl, rfl⟩ | exact ⟨_, rfl, rfl, rfl⟩
theorem witness_ServerRequests_order : (∀ st, (requesting st (.write [1]) false).toMach.earlier
      { key := 3, proc := 0, chan := 0, tag := some 7, op := .write [1], loc := 0x40, addr := 0xC000000000000040, host := false, gen := 1, stage := st
        value := 9 } = []) ∧ (∃ r, Pending (requesting .accepted (.read 64 0x80) false) 3 r ∧ r.op = .read 64 0x80 ∧ r.done < 64) :=
  ⟨fun _ => rfl, _, rfl, rfl, by decide⟩
/-- A partial write that is still merged stands before it, on another word. -/
theorem witness_ServerRequests_merging : let s := { requesting .accepted (.read 64 0x80) false with reqs :=
      { key := 2, proc := 0, chan := 0, tag := some 6, op := .write [1], loc := 0x80, addr := 0, host := false, gen := 1, stage := .merging, done := 1 } ::
        (requesting .accepted (.read 64 0x80) false).reqs }
    ∃ r, Pending s 3 r ∧ ∀ y ∈ s.reqs.takeWhile (fun y => y.key != 3), y.atServer = false ∨ r.meets y = false :=
  ⟨_, rfl, by decide +kernel⟩
theorem test_server_write : after (.serverPerform 3 .clean) (requesting .accepted (.write [1, 2]) false)
    (fun t => (Mem.get t.mem 0x40, Mem.get t.mem 0x41, t.reqs.map (·.stage))) = some (1, 2, [.merging]) := by decide +kernel
theorem witness_PacketAnswers (op : ReqOp) : ∃ r, Pending (requesting .answered op false) 3 r ∧ r.stage = .answered ∧ r.op = op ∧ r.tag = some 7 ∧ 7 < 8 ∧
    r.chan < 2 ∧ (requesting .answered op false).cur = some r.proc ∧ (requesting .answered op false).bad = [] ∧
    Memory.wf (requesting .answered op false).mem = true ∧ r.fault = none := ⟨_, rfl, rfl, rfl, rfl, by decide, Nat.zero_lt_two, rfl, rfl, rfl, rfl⟩
theorem witness_PacketAnswers_fault : ∃ r, Pending { requesting .answered (.write [1]) false with
    reqs := (requesting .answered (.write [1]) false).reqs.map fun r => { r with fault := some (0x16, 0x01) } } 3 r ∧ r.fault = some (0x16, 0x01) ∧
    r.op = .write [1] := ⟨_, rfl, rfl, rfl⟩
/-- A read of 16 bytes, nothing and one doubleword of it laid; a full write that is accepted and not performed. -/
theorem witness_PacketAnswers_laid : (∃ r, Pending (requesting .answered (.read 16 0x80) false) 3 r ∧ r.laid = 0 ∧ r.laid + 8 < 16) ∧
    (requesting .answered (.read 16 0x80) false).ctx.place ≠ none ∧ 16 ≤ 8 + 8 ∧
    ∃ r, Pending (requesting .accepted (.write (List.replicate 32 1)) false) 3 r ∧ r.stage = .accepted ∧ r.host = false ∧
      r.op = .write (List.replicate 32 1) ∧ 32 ≤ (List.replicate 32 (1 : Byte)).length ∧ r.fault = none :=
  ⟨⟨_, rfl, rfl, by decide⟩, by decide, by decide, _, rfl, rfl, rfl, rfl, by decide, rfl⟩
theorem test_early_ack : after (.packetReplyArrival 3) (requesting .accepted (.write (List.replicate 32 1)) false)
    (fun t => ((t.ctx.mq0.tag 7).kind, t.reqs.map (·.tag), t.mem)) = some (.acked, [none], []) := by decide +kernel
theorem test_read_answer : after (.packetReplyArrival 3) (requesting .answered (.read 8 0x80) false)
    (fun t => (Mem.get t.mem (Key.tile 0 0x80), (t.ctx.mq0.tag 7).kind, t.reqs.length)) = some (9, .read, 0) := by decide +kernel
def storing : State := { base with tileReqs := [{ key := 3, proc := 0, loc := Key.tile 5 0x40, bytes := [1, 2] }] }
theorem witness_TileAndHostAccesses : Memory.wf storing.mem = true ∧ storing.bad = [] ∧
    (∃ r, storing.tileReqs.find? (fun y => y.key == 3) = some r ∧ r.half = none) ∧ storing.tileReqs.takeWhile (fun y => y.key != 3) = [] ∧
    (∃ r, Pending (requesting .issued (.write [1]) true) 3 r ∧ r.host = true ∧ r.stage ≠ .answered ∧
      (requesting .issued (.write [1]) true).toMach.earlier r = []) :=
  ⟨rfl, rfl, ⟨_, rfl, rfl⟩, rfl, ⟨_, rfl, rfl, by decide, rfl⟩⟩
/-- A second store of the process to the same tile; and the host bridge up and down. -/
def storing2 : State := { base with tileReqs := [{ key := 2, proc := 0, loc := Key.tile 5 0x80, bytes := [1], group := 2 },
  { key := 3, proc := 0, loc := Key.tile 5 0x40, bytes := [1, 2], group := 3 }] }
theorem witness_TileAndHostAccesses_wait : ∃ r, storing2.tileReqs.find? (fun y => y.key == 3) = some r ∧
    ∃ y ∈ storing2.tileReqs.takeWhile (fun y => y.key != 3), y.proc = r.proc ∧ tileOfKey y.loc = tileOfKey r.loc ∧
      (y.group ≠ r.group ∨ y.meets r = true) :=
  ⟨_, rfl, _, List.mem_singleton.mpr rfl, rfl, by decide +kernel, .inl (by decide)⟩
/-- R147: of two elements of one vector store, the second may be performed before the first. -/
def scattered : State := { base with tileReqs := [{ key := 2, proc := 0, loc := Key.tile 0 0x80, bytes := [1], group := 2 },
  { key := 3, proc := 0, loc := Key.tile 0 0x40, bytes := [1, 2], group := 2 }] }
theorem test_partial_visibility : after (.remoteTileAccess 3) scattered (fun t => (Mem.get t.mem (Key.tile 0 0x80), Mem.get t.mem (Key.tile 0 0x40))) =
    some (0, 1) := by decide +kernel
theorem witness_TileAndHostAccesses_host : ∃ r, Pending { requesting .issued (.write [1]) true with hostUp := true } 3 r ∧ r.op = .write [1] ∧
    Pending { requesting .issued (.write [1]) true with hostUp := false } 3 r ∧
    (∀ y ∈ ({ requesting .issued (.write [1]) true with hostUp := true } : State).toMach.earlier r, AtHome y) :=
  ⟨_, rfl, rfl, rfl, fun _ h => absurd h List.not_mem_nil⟩
theorem test_remote_store : after (.remoteTileAccess 3) storing (fun t => (Mem.get t.mem (Key.tile 5 0x41), t.tileReqs.length)) = some (2, 0) := by
  decide +kernel
theorem test_host_timeout : after (.hostPathTimeout 3) (requesting .issued (.write [1]) true) (fun t => t.reqs.map (·.fault)) =
    some [some (0x07, 0)] := by decide +kernel

/-- Element 0 of the copy and of the fill of two words. -/
def moving (kind : Nat) : State := { base with
  copies := [{ key := 3, proc := 0, tile := 0, kind := kind, desc := BitVec.ofNat 2048 (copyDesc kind), off := 0x1C0, ctr := 0x80 }]
  mem := cells (Key.tile 0 0x400) 4 0x01020304 }
theorem witness_CopyElements : ∀ kind ∈ [0, 2], ∃ c, (moving kind).copies.find? (fun y => y.key == 3) = some c ∧ (moving kind).cur = some c.proc ∧
    c.kind = kind ∧ c.got = [] ∧ c.put = 0 ∧ copyKind c.desc.toNat = c.kind ∧ copyEc c.desc.toNat ≤ 3 ∧ copyProg c.desc.toNat = false ∧ c.next + 1 < copyCount c.desc.toNat ∧
    Reaches (moving kind) (copyAddrs c.desc.toNat c.next (c.next % dimCount c.desc.toNat 0)).1 (2 ^ copyEc c.desc.toNat) true false ∧
    Reaches (moving kind) (copyAddrs c.desc.toNat c.next (c.next % dimCount c.desc.toNat 0)).2 (2 ^ copyEc c.desc.toNat) false true ∧
    Memory.wf (moving kind).mem = true := by
  intro kind h
  simp only [List.mem_cons, List.not_mem_nil, or_false] at h
  rcases h with rfl | rfl <;>
  exact ⟨_, rfl, rfl, rfl, rfl, rfl, by decide +kernel, by decide +kernel, by decide +kernel, by decide +kernel, reaches _ _ _ _ _ ⟨rfl, rfl⟩ (by decide +kernel),
    reaches _ _ _ _ _ ⟨rfl, rfl⟩ (by decide +kernel), by decide +kernel⟩
theorem test_copy_element : after (.copyElement 3) (moving 0) (fun t => (Mem.nat t.mem (Key.tile 0 0x800) 4, t.copies.map (·.next))) =
    some (0x01020304, [1]) := by decide +kernel

/-- Channel 0 with tokens in flight and slot returns; the fault channel with room for one record more. -/
def travelling (l : List Tok) (r : Nat) : State := withNet fun x => { x with
  chans := x.chans.modify 0 fun c => { c with flight := l, returns := r }, faultQ := [(1, List.replicate 8 3)], faultBuf := List.replicate 504 0 }
theorem witness_ChannelTraffic : ∃ x c d, (travelling [.scalar 5, .eos] 1).nets[0]? = some x ∧ x.chans[0]? = some c ∧
    c.flight = .scalar 5 :: [.eos] ∧ Tok.scalar 5 ≠ .gate ∧ c.rExited = false ∧ 0 < c.returns ∧ x.live = true ∧ c.span = none ∧
    ((travelling [.gate] 0).nets[0]?.bind fun x => x.chans[0]?) = some d ∧ d.flight = .gate :: [] ∧
    x.faultQ = (1, List.replicate 8 3) :: [] ∧ x.faultBuf.length + 8 ≤ 512 :=
  ⟨_, _, _, rfl, rfl, rfl, by decide, rfl, by decide, rfl, rfl, rfl, rfl, rfl, by decide +kernel⟩
/-- A channel that is to be bound anew: within the package; and between packages, where its reader is away, with link 3 the lowest up, or none. -/
def rebound (l : List Tok) (away : Bool) (up : Bool) : State := { withNet (fun x => { x with
    procs := [0, 1], chans := x.chans.modify 0 fun c => { c with flight := l, rebind := true, decl := { c.decl with rproc := 1 } } }) with
  procs := [proc0, { proc0 with index := 1, away := away }]
  port := { base.port with links := Vector.ofFn fun i => { up := up && decide (3 ≤ i.val) } } }
theorem witness_ChannelTraffic_rebind : ∃ x c, (rebound [.scalar 5] false true).nets[0]? = some x ∧ x.chans[0]? = some c ∧ x.live = true ∧
    c.rebind = true ∧ c.sent = 0 ∧ (rebound [.scalar 5] false true).toMach.spans x c.decl = false ∧ c.span = none ∧ c.rExited = false ∧
    ∀ tok ∈ c.flight, tok ≠ .gate := ⟨_, _, rfl, rfl, rfl, rfl, rfl, by decide +kernel, rfl, rfl, by decide⟩
theorem witness_ChannelTraffic_span : ∃ x c, (rebound [] true true).nets[0]? = some x ∧ x.chans[0]? = some c ∧ x.live = true ∧
    c.rebind = true ∧ c.sent = 0 ∧ (rebound [] true true).toMach.spans x c.decl = true ∧ c.flight = [] ∧
    ((rebound [] true true).port.links[3]?).map (·.up) = some true ∧
    (∀ j, j < 3 → ((rebound [] true true).port.links[j]?).map (·.up) = some false) ∧ (∀ l ∈ (rebound [] true false).port.links.toList, l.up = false) :=
  ⟨_, _, rfl, rfl, rfl, rfl, rfl, by decide +kernel, rfl, by decide +kernel, by decide +kernel, by decide +kernel⟩
def exited (l : List Tok) : State := withNet fun x => { x with chans := x.chans.modify 0 fun c => { c with flight := l, rExited := true } }
theorem witness_ChannelTraffic_exited : ∃ x c, (exited [.scalar 5]).nets[0]? = some x ∧ x.chans[0]? = some c ∧ c.flight = .scalar 5 :: [] ∧
    c.span = none ∧ c.rExited = true := ⟨_, _, rfl, rfl, rfl, rfl, rfl⟩
theorem test_token_arrival : after (.tokenArrival 0 0) (travelling [.scalar 5, .eos] 1) (fun t => (t.toMach.chan 0).map fun c => (c.buf, c.flight)) =
    some (some ([.scalar 5], [.eos])) := by decide +kernel
theorem test_slot_return : after (.slotReturn 0 0) (travelling [] 1) (fun t => (t.toMach.chan 0).map fun c => (c.free, c.returns)) =
    some (some (5, 0)) := by decide +kernel

/-- Lap 0 of the pool: its one member has gone into lap 1, with two puts of lap 0 in key order 2, 1. -/
def lapping : State := { withNet (fun x => { x with lap := 4, pools := x.pools.map fun p => { p with
    puts := [{ proc := 0, key := 2, lap := 0, tok := .scalar 2 }, { proc := 0, key := 1, lap := 0, tok := .scalar 1 }] } }) with
  ctx := { ctx0 with lapLen := 4, retired := 5 } }
theorem witness_LapCloses : ∃ x p, lapping.nets[0]? = some x ∧ x.pools[0]? = some p ∧ lapping.toMach.mayClose x p = true ∧ p.gets = [] :=
  ⟨_, _, rfl, rfl, by decide +kernel, rfl⟩
theorem test_lap_close : after (.lapClose 0 0) lapping (fun t => (t.toMach.pool 0).map fun p => (p.toks, p.closed)) =
    some (some ([.scalar 1, .scalar 2], 1)) := by decide +kernel

/-- Barrier 63 of two: no arrival counted, one counted, one counted that took part with `sstep`; and a generation due. -/
def arriving (here : List Nat) (ss due : Bool) : State := withNet fun x => { x with
  bars := [{ id := 63, count := 2, here := here, sstep := ss, due := due, flight := [(0, false)] }] }
theorem witness_BarrierArrivals (here : List Nat) (ss due : Bool) : ∃ x b, (arriving here ss due).nets[0]? = some x ∧ x.barrier 63 = some b ∧
    b.flight = (0, false) :: [] ∧ b.due = due ∧ 0 < (arriving here ss due).procs.length ∧ b.here = here ∧ b.sstep = ss ∧
    (here = [1] → b.here.length + 1 = b.count) ∧ (here = [] → b.here.length + 1 ≠ b.count) := by
  refine ⟨_, _, rfl, rfl, rfl, rfl, Nat.zero_lt_one, rfl, rfl, ?_, ?_⟩ <;> rintro rfl
  · rfl
  · show (1 : Nat) ≠ 2
    decide
theorem witness_BarrierArrivals_due : (arriving [0] true true).toMach.delivered { net0 with bars := [] } [0] = true := by decide +kernel
theorem test_barrier_arrival : after (.barrierArrival 0 63) (arriving [1] false false) (fun t => (t.nets.flatMap (·.bars)).map fun b => (b.gen, b.here)) =
    some [(1, [])] := by decide +kernel

/-- A `vwait` with a time-out that waits; a pattern stream of one element behind its last one. -/
def timing : State := { base with procs := [{ proc0 with st := .blocked }], ctx := { ctx0 with issued := { started := true } } }
def patterned (pos : Nat) : State := withCtx fun c => { c with
  streams := c.streams.set! 7 { on := true, kind := .pattern, desc := 0x1C0, pos := pos, block := BitVec.ofNat 2048 (copyDesc 0) } }
theorem witness_WaitsAndFetches : timing.procs[0]?.map (fun p => (p.st, p.held)) = some (.blocked, false) ∧ (timing.toMach.ctxOf 0).issued.started = true ∧
    (patterned 0).procs[0]? = some proc0 ∧ 7 < 8 ∧ (((patterned 0).toMach.ctxOf 0).stream 7).wants = true ∧
    (((patterned 1).toMach.ctxOf 0).stream 7).wants = true ∧
    (let y := ((patterned 1).toMach.ctxOf 0).stream 7
     copyCount y.block.toNat ≤ 512 / copySize y.block.toNat * (y.pos + y.ahead.length)) :=
  ⟨rfl, rfl, rfl, by decide, by decide +kernel, by decide +kernel, by decide +kernel⟩
theorem test_pattern_end : after (.patternTokenFetch 0 7) (patterned 1) (fun t => (t.ctx.stream 7).ahead) = some [.eos] := by decide +kernel

/-- The one process is blocked on a push into channel 0, which is full of four tokens; both passes of the Snowplough. -/
def stuck (active : Bool) : State := { withNet (fun x => { x with
    chans := [{ decl := scalarChan 0 0, slots := 4, free := 0, buf := List.replicate 4 (.scalar 1), pushes := 4, arrivals := 4 }]
    pools := [], active := active, sweep := .first [(4, 4)] }) with
  procs := [{ proc0 with st := .blocked, wait := some { kind := .write } }] }
theorem witness_SnowploughSweeps : ∃ x y, (stuck true).nets[0]? = some x ∧ (stuck true).toMach.sweepable x = true ∧ x.sweep = .first [(4, 4)] ∧
    (stuck true).toMach.quiescent x [(4, 4)] = false ∧ (stuck false).nets[0]? = some y ∧ (stuck false).toMach.quiescent y [(4, 4)] = true ∧
    (stuck false).toMach.narrowest y = some (4, false, 0) ∧ y.chans[0]?.isSome = true ∧ baseGranules 4 false ≤ y.grow :=
  ⟨_, _, rfl, by decide +kernel, rfl, by decide +kernel, rfl, by decide +kernel, by decide +kernel, rfl, by decide +kernel⟩
/-- A process stands on the other package, which has answered the second pass, or not. -/
theorem witness_SnowploughSweeps_away : let s : Nat → State := fun n => { stuck true with
      nets := (stuck true).nets.map fun x => { x with procs := [0, 1], heard := n }, procs := (stuck true).procs ++ [{ proc0 with index := 1, away := true }] }
    (∃ x, (s 3).nets[0]? = some x ∧ (s 3).toMach.hasAway x = true ∧ x.heard < 4) ∧ ∃ x, (s 4).nets[0]? = some x ∧ 4 ≤ x.heard ∧
      (s 4).toMach.quiescent x [(4, 4)] = false :=
  ⟨⟨_, rfl, by decide +kernel, by decide⟩, _, rfl, by decide, by decide +kernel⟩
/-- The one process is blocked on a pop: no writer is blocked, and there is no supervisor. -/
def deadlocked : State := { withNet (fun x => { x with
    chans := [{ decl := scalarChan 0 0, slots := 4, free := 4 }], pools := [], active := false, sweep := .first [(0, 0)] }) with
  procs := [{ proc0 with st := .blocked, wait := some { kind := .read, code := 0x01, opnd := 6 } }] }
theorem witness_SnowploughSweeps_deadlock : ∃ x, deadlocked.nets[0]? = some x ∧ x.sweep = .first [(0, 0)] ∧ deadlocked.toMach.quiescent x [(0, 0)] = true ∧
    deadlocked.toMach.narrowest x = none ∧ x.dead = false ∧ deadlocked.toMach.supOf 0 = none ∧
    x.procs.find? (fun j => deadlocked.toMach.stance x j = .onRead ∧ deadlocked.toMach.isParked j = false) = some 0 :=
  ⟨_, rfl, rfl, by decide +kernel, by decide +kernel, rfl, by decide +kernel, by decide +kernel⟩
theorem test_sweep_grows : after (.sweepSecondPass 0) (stuck false) (fun t => (t.toMach.chan 0).map fun c => (c.slots, c.free)) = some (some (8, 4)) := by
  decide +kernel

/-! Placement and the level table. -/

/-- Process 0 in a state, and process 1 of the same tenant, which is ready. -/
def contending (f : Proc → Proc) : State := { base with
  procs := [f proc0, { proc0 with index := 1, st := .unplaced, started := false, ctx := {} }], nets := [{ net0 with procs := [0, 1] }] }
theorem witness_Preemption_request : ∃ p, (contending id).procs[0]? = some p ∧ p.decl.pinned = false ∧ p.req = false ∧ p.held = false ∧
    (contending id).toMach.isPlaced 0 = true ∧ (contending id).toMach.contended 0 = true ∧ p.st = .running ∧
    ∀ kind ∈ [WaitKind.read, .engine], (contending fun p => { p with st := .blocked, wait := some { kind := kind } }).toMach.contended 0 = true :=
  ⟨_, rfl, rfl, rfl, rfl, by decide +kernel, by decide +kernel, rfl, by decide +kernel⟩
theorem witness_Preemption_save : let s := contending fun p => { p with st := .saving, stop := some { kind := 2, keep := 0xFF } }
    let len := recordLength ((s.toMach.ctxOf 0).saved 0xFF).length (s.toMach.ctxOf 0).tiles (s.toMach.ctxOf 0).replies.length
    (s.procs[0]?).map (fun p => (p.st, p.stop)) = some (.saving, some { kind := 2, keep := 0xFF }) ∧ s.toMach.settled 0 = true ∧
    ((s.toMach.tenant (s.toMach.tenantOf 0)).map (·.pool)).getD 0 < s.toMach.poolUsed (s.toMach.tenantOf 0) + len ∧
    ({ s with tenants := [{ ten1 with pool := len }] } : State).toMach.poolUsed 1 + len ≤ len := by decide +kernel
theorem test_preemption_request : after (.preemptionRequest 0) (contending id) (fun t => t.procs.map (·.req)) = some [true, false] := by decide +kernel
theorem test_preemption_deadline : after (.preemptionDeadline 0) (contending fun p => { p with req := true }) (fun t => t.procs.map (·.st)) =
    some [.saving, .unplaced] := by decide +kernel

/-- A network of image 1 whose one process has not begun. -/
def declLow : ProcDecl := { decl0 with win := [0x7 * 2 ^ 48 + 0x100000 * 2 ^ 24, 0, 0, 0] }
def image1 : Image := { image2 with handle := 1, ready := false, slots := [], procs := [declLow], rtblk := 0x110000 }
def unplaced (f : Proc → Proc) (mem : Memory) : State := { base with
  images := [image1], procs := [f { proc0 with decl := declLow, st := .unplaced, started := false, ctx := {} }], cur := none, ctx := {}, mem := mem }
theorem witness_Placement_begin : ∃ p x, (unplaced id []).procs[0]? = some p ∧ (unplaced id []).nets[p.net]? = some x ∧
    (unplaced id []).toMach.image x.image = some image1 ∧ p.saved = none ∧ p.started = false ∧
    (unplaced id []).toMach.placeNow 0 = some ⟨0, 0, 0⟩ := ⟨_, _, rfl, rfl, by decide +kernel, rfl, rfl, by decide +kernel⟩
theorem test_place : after (.placeProcess 0) (unplaced id []) (fun t => (t.ctx.pc, t.toMach.g 3, t.toMach.g 2, t.ctx.place, t.procs.map (·.st))) =
    some (0x1000, 7, 0, some ⟨0, 0, 0⟩, [.running]) := by decide +kernel
/-- The record of `parkedBytes` in the save pool, for process index 0 (its byte 384 zero). -/
def swapped : State := unplaced (fun p => { p with started := true, saved := some (0, 5888), ctx := { parkedCtx with idx := 0, place := none, win := ctx0.win.set! 0 0 } })
  ((parkedRecord.filter fun c => c.1 ≠ 0x4000000000580).map fun c => (c.1 - 0x4000000000400 + 0x40000000000000, c.2))
def swappedRecord : Saved := { bits := parkedBits - 256 ^ 384, len := 5888, bad := [] }
theorem witness_Placement_restore : (swapped.procs[0]?).map (·.saved) = some (some (0, 5888)) ∧ swapped.toMach.isReady 0 = true ∧
    swapped.toMach.placeNow 0 = some ⟨0, 0, 0⟩ ∧
    (swapped.procs[0]?).map (fun p => (swapped.toMach.select 0).recordCheck p swappedRecord) = some none := by decide +kernel
theorem nat_split (m : Memory) (n : Nat) : ∀ (j a : Nat), Mem.nat m a (j + n) = Mem.nat m a j + 256 ^ j * Mem.nat m (a + j) n
  | 0, a => by simp [Mem.nat]
  | j + 1, a => by
    rw [Nat.succ_add, Mem.nat, nat_split m n j (a + 1), Mem.nat, Nat.pow_succ, Nat.mul_add, ← Nat.mul_assoc, Nat.mul_comm 256 (256 ^ j),
      Nat.add_right_comm a 1 j, ← Nat.add_assoc]
    rfl
theorem nat_past (m : Memory) (n : Nat) : ∀ a, (∀ c ∈ m, c.1 < a) → Mem.nat m a n = 0 := by
  induction n with
  | zero => intro _ _; rfl
  | succ n h =>
    intro a k
    rw [Mem.nat, get_past m a k, h (a + 1) fun c hc => Nat.lt_succ_of_lt (k c hc)]
    rfl
theorem witness_Placement_record : swapped.toMach.heldRecord 0 5888 = swappedRecord := by
  have h : Mem.nat swapped.mem (Key.save 0 0) (576 + 5312) = swappedRecord.bits := by
    rw [nat_split, nat_past swapped.mem 5312 (Key.save 0 0 + 576) (by decide +kernel)]
    decide +kernel
  rw [Mach.heldRecord, show (5888 : Nat) = 576 + 5312 from rfl, h]
  rfl
theorem witness_Placement_wake : (unplaced (fun p => { p with st := .swapped }) []).procs[0]?.map (fun p => (p.held, p.away, p.st, p.wait)) =
      some (false, false, .swapped, none) ∧
    (unplaced (fun p => { p with st := .unplacedBlocked, wait := some { kind := .read, code := 1, ref := 0 } }) []).toMach.waitMet 0
      { kind := .read, code := 1, ref := 0 } = false ∧
    ({ unplaced id [] with nets := (travelling [] 0).nets.map fun x => { x with chans := x.chans.map fun c => { c with buf := [.eos] } } } : State).toMach.waitMet 0
      { kind := .read, code := 1, ref := 0 } = true := by decide +kernel

/-- The network's entry, live, and the network after all its processes have exited. -/
def ending (f : Net → Net) (st : PState) : State := { base with
  nets := [f { net0 with chans := [] }], entries := [liveEntry 0 0], procs := [{ proc0 with st := st }] }
theorem witness_LevelTable : ∃ e x y, (ending id .exited).toMach.entry 1 0 0 = some e ∧ e.live = true ∧ (ending id .exited).toMach.liveNet 1 0 = some 0 ∧
    (ending id .exited).nets[0]? = some x ∧ (ending id .exited).deps = [] ∧ NoTeardown (ending id .exited) ∧
    x.procs.all (ending id .exited).toMach.hasExited = true ∧ x.cancel = false ∧ x.fatal = false ∧ x.cut = none ∧ (∀ c ∈ x.chans, c.flight = []) ∧
    (∀ p ∈ x.pools, p.puts = []) ∧
    (ending (fun x => { x with cancel := true, fatal := true }) .exited).nets[0]? = some y ∧ y.cancel = true ∧ y.fatal = true :=
  ⟨_, _, _, rfl, rfl, by decide +kernel, rfl, rfl, by unfold NoTeardown; decide +kernel, by decide +kernel, rfl, rfl, rfl, by decide, by decide,
    rfl, rfl, rfl⟩
theorem witness_LevelTable_cancel : let s := { ending id .running with entries := [{ liveEntry 0 0 with cancel := true }] }
    (s.toMach.entry 1 0 0).map (·.cancel) = some true ∧ s.subs = [] ∧ s.toMach.isPlaced 0 = true ∧ s.toMach.hasExited 0 = false := by decide +kernel
/-- A graph whose one member ended faulted, and a closed phase. -/
def graphDone : State := { base with entries := [{ liveEntry 1 4 with members := 1, statuses := [3] }, { liveEntry 2 4 with closed := true }] }
theorem witness_LevelTable_graph : (∃ e, graphDone.toMach.entry 1 1 4 = some e ∧ e.live = true ∧ e.left = 0 ∧ e.cancel = false) ∧
    (∃ e, graphDone.toMach.entry 1 2 4 = some e ∧ e.live = true ∧ e.left = 0 ∧ e.closed = true ∧ e.cancel = false) ∧ NoTeardown graphDone :=
  ⟨⟨_, rfl, rfl, rfl, rfl⟩, ⟨_, rfl, rfl, rfl, rfl, rfl⟩, by unfold NoTeardown; decide +kernel⟩
/-- A job whose one phase is final; a cancelled phase with no member left. -/
def jobDone : State := { base with entries := [{ liveEntry 3 4 with members := 1 }, { liveEntry 2 4 with cancel := true }] }
theorem witness_LevelTable_job : (∃ e, jobDone.toMach.entry 1 3 4 = some e ∧ e.live = true ∧ e.left = 0 ∧ 0 < e.members) ∧
    (∃ e, jobDone.toMach.entry 1 2 4 = some e ∧ e.live = true ∧ e.left = 0 ∧ e.cancel = true) ∧ NoTeardown jobDone :=
  ⟨⟨_, rfl, rfl, rfl, by decide⟩, ⟨_, rfl, rfl, rfl, rfl⟩, by unfold NoTeardown; decide +kernel⟩
theorem witness_LevelTable_trap : ({ base with procs := [{ proc0 with cancel := true }] } : State).procs[0]?.map (·.cancel) = some true := rfl
theorem test_entry_final : after (.entryFinal 1 0 0) (ending id .exited) (fun t => t.entries.map fun e => (e.live, e.record.map (·.status))) =
    some [(false, some 1)] := by decide +kernel
theorem test_graph_final : after (.entryFinal 1 1 4) graphDone (fun t => (t.toMach.entry 1 1 4).map fun e => e.record.map (·.status)) =
    some (some (some 3)) := by decide +kernel

/-- A submission of image 2 that waits in queue SRAM; a launched network that has not started. -/
def submitted : State := { base with images := [image2], nets := [], procs := [], cur := none, ctx := {}
                                     subs := [{ tenant := 1, queue := 5, net := { image := 2, index := 9, args := 0, replay := none, graph := 4, phase := 0 }, args := [] }]
                                     entries := [liveEntry 0 9, liveEntry 1 4] }
theorem witness_NetworkStarts : (submitted.toMach.dispatchOrder 1).head? = some 0 ∧ (submitted.toMach.dispatchSub 0).isSome = true ∧
    ∃ x, (withNet fun x => { x with started := false }).nets[0]? = some x ∧ x.live = true ∧ x.started = false ∧ x.cancel = false ∧ x.resumed = false ∧
      (∀ im, (withNet fun x => { x with started := false }).toMach.image x.image = some im → im.ready = false) :=
  ⟨by decide +kernel, by decide +kernel, _, rfl, rfl, rfl, rfl, rfl, fun _ h => by cases h⟩
theorem test_dispatch : after (.networkDispatch 1) submitted (fun t => (t.subs.map (·.home), t.nets.map (·.index))) = some ([some 0], [9]) := by
  decide +kernel

/-- The network is being cut to the first piece of the global range: its process has its gate due; it is held. -/
def cutting (f : Proc → Proc) : State := { global [(0, entryRw)] id with
  images := [image1], nets := [{ net0 with cut := some 0xC000000000000000, chans := [], pools := [], bars := [] }]
  entries := [liveEntry 0 0], procs := [f proc0] }
theorem witness_Cuts_gate : ((cutting fun p => { p with gated := true }).procs[0]?).isSome = true ∧
    (cutting fun p => { p with gated := true }).toMach.gateDue 0 = true ∧ (cutting fun p => { p with gated := true }).toMach.settled 0 = true := by
  decide +kernel
theorem witness_Cuts_resumed : (withNet fun x => { x with resumed := true, started := false }).nets[0]?.map
    (fun x => (x.resumed, x.started, x.live, x.cancel)) = some (true, false, true, false) := by decide +kernel
/-- A cut network without processes: its snapshot is the header. -/
def cutAll : State := { cutting id with nets := [{ net0 with cut := some 0xC000000000000000, chans := [], pools := [], bars := [], procs := [] }] }
theorem witness_Cuts_complete : ∃ x im e, cutAll.nets[0]? = some x ∧ x.cut = some 0xC000000000000000 ∧ cutAll.toMach.image x.image = some im ∧
    cutAll.toMach.cutDone x = true ∧ cutAll.toMach.entry x.tenant 0 x.index = some e ∧ cutAll.deps = [] ∧ NoTeardown cutAll ∧ cutAll.bad = [] ∧
    cutAll.reqs = [] ∧ (cutAll.toMach.snapshot x im).bytes.length = 256 ∧
    ∀ i, i < 8 → (cutAll.toMach.translate (some x.tenant) (0xC000000000000000 + BitVec.ofNat 64 (32 * i)) 32 false true).toOption.isSome = true :=
  ⟨_, image1, _, rfl, rfl, by decide +kernel, by decide +kernel, rfl, rfl, by unfold NoTeardown; decide +kernel, rfl, rfl, by decide +kernel, by decide +kernel⟩
theorem test_take_gate : after (.takeGate 0) (cutting fun p => { p with gated := true }) (fun t => t.procs.map (·.held)) = some [true] := by
  decide +kernel

/-! Arbiters and poison. -/

/-- Context 0 has a vector head of cost 3 and a deficit of 5; on tile 1, contexts 1 and 4 have a matrix instruction queued. -/
def vecJob : VecJob := { matrix := false, cost := 3 }
def matJob : VecJob := { matrix := true, cost := 6 }
def arbitrating : State := { base with tiles := [
  { id := 0, arb := { queues := (Vector.replicate 8 []).set! 0 [vecJob], d := (Vector.replicate 8 0).set! 0 5 } },
  { id := 1, arb := { queues := ((Vector.replicate 8 []).set! 1 [matJob]).set! 4 [matJob, vecJob], served := 1 } }] }
theorem witness_TileArbiters : let a := (arbitrating.toMach.tile 0).arb
    a.idle = false ∧ (∀ g ∈ a.groups.toList, g = none) ∧ a.array = none ∧ 0 < 8 ∧ vecJob.matrix = false ∧ a.queue 0 = [vecJob] ∧
    (∀ i, i < 8 → i ≠ 0 → a.queue i = []) ∧ a.ptr = 0 ∧ (arbitrating.toMach.weights 0)[0]?.getD 0 ≠ 0 ∧ vecJob.cost ≤ a.d[0]?.getD 0 := by decide +kernel
theorem witness_TileArbiters_others : ∀ i, i ≠ 0 → (arbitrating.toMach.tile 0).arb.queue i = [] := by
  intro i h
  by_cases k : i < 8
  · exact witness_TileArbiters.2.2.2.2.2.2.1 i k h
  · show ((arbitrating.toMach.tile 0).arb.queues[i]?).getD [] = []
    rw [Vector.getElem?_eq_none (by omega)]; rfl
theorem witness_TileArbiters_array : let a := (arbitrating.toMach.tile 1).arb
    (∀ g ∈ a.groups.toList, g = none) ∧ a.array = none ∧ 2 < 8 ∧ (a.served + 1 + 2) % 8 = 4 ∧ a.queue 4 = matJob :: [vecJob] ∧
    matJob.matrix = true ∧ (∀ i, i < 2 → a.queue ((a.served + 1 + i) % 8) = []) ∧ (arbitrating.toMach.tile 2).arb.idle = true := by decide +kernel
theorem test_lane_bind : after (.laneGroupBind 0) arbitrating
    (fun t => ((t.toMach.tile 0).arb.queue 0, (t.toMach.tile 0).arb.d[0]?, (t.toMach.tile 0).arb.groups[0]?.join.map (·.1))) =
    some ([], some 0, some 0) := by decide +kernel
theorem test_array_grant : after (.arrayGrant 1) arbitrating (fun t => ((t.toMach.tile 1).arb.served, (t.toMach.tile 1).arb.queue 4)) =
    some (4, [vecJob]) := by decide +kernel
theorem witness_QueueSramPoison : ∃ b, submitted.subs[0]? = some b ∧ b.home = none ∧ b.ended = none ∧ NoTeardown submitted :=
  ⟨_, rfl, rfl, rfl, by unfold NoTeardown; decide +kernel⟩
theorem test_queue_poison : after (.queueSramPoison (.submission 0)) submitted (fun t => (t.subs.map (·.ended), t.port.log.map (·.source))) =
    some ([some 4], [3]) := by decide +kernel

/-! Messages of the host (R329 to R332): management queues 0 and 4, and work queue 5 of tenant 1, each with sequence 3 next. -/

def hostQueue (mgmt : Bool) (queue tenant : Nat) : SqpQueue := { mgmt := mgmt, queue := queue, tenant := tenant, nextIn := 3 }
def tenHost : Tenant := { tenWith [(0, entryRw)] with queues := [5, 6, 65540, 65541] }
def onHost (f : State → State) : State :=
  f { base with port := { queues := [hostQueue true 0 0, hostQueue true 4 1, hostQueue false 5 1, hostQueue true 5 1] }, tenants := [tenHost] }
def sqpOwner (seq : Nat) : Sqp := { mgmt := true, queue := 0, seq := seq, tenant := 0 }
def sqpMgmt (seq : Nat) : Sqp := { mgmt := true, queue := 4, seq := seq, tenant := 1 }
def sqpWork (seq : Nat) : Sqp := { mgmt := false, queue := 5, seq := seq, tenant := 1 }
theorem inTurn (s : State) (h : Sqp) (q : SqpQueue) (hq : (h, q) ∈ [(sqpOwner 3, hostQueue true 0 0), (sqpMgmt 3, hostQueue true 4 1),
    (sqpWork 3, hostQueue false 5 1)]) (p : s.port.queues = (onHost id).port.queues ∧ s.port.start = .ready ∧
    s.port.firmware.recovery = false ∧ s.outbox = []) : InTurn s h q := by
  obtain ⟨p1, p2, p3, p4⟩ := p
  simp only [List.mem_cons, Prod.mk.injEq, List.not_mem_nil, or_false] at hq
  have ha : s.port.queues.Pairwise fun a b => ¬(a.mgmt = b.mgmt ∧ a.queue = b.queue) := by rw [p1]; decide +kernel
  have ht : NoTeardown s := by unfold NoTeardown; rw [p1]; decide +kernel
  rcases hq with ⟨rfl, rfl⟩ | ⟨rfl, rfl⟩ | ⟨rfl, rfl⟩
  · exact ⟨by decide, by rw [Port.queueOf, p1]; decide +kernel, rfl, rfl, rfl, rfl, ⟨rfl, rfl⟩, .inl ⟨rfl, rfl⟩, p4, ht, ha⟩
  · exact ⟨by decide, by rw [Port.queueOf, p1]; decide +kernel, rfl, rfl, rfl, rfl, ⟨rfl, rfl⟩, .inr ⟨rfl, p2, p3⟩, p4, ht, ha⟩
  · exact ⟨by decide, by rw [Port.queueOf, p1]; decide +kernel, rfl, rfl, rfl, rfl, ⟨rfl, rfl⟩, .inr ⟨rfl, p2, p3⟩, p4, ht, ha⟩
theorem owner (f : Port → Port) (h : (f (onHost id).port).queues = (onHost id).port.queues ∧ (f (onHost id).port).start = .ready ∧
    (f (onHost id).port).firmware.recovery = false) :
    InTurn (onHost fun s => { s with port := f s.port }) (sqpOwner 3) (hostQueue true 0 0) :=
  inTurn _ _ _ (by decide +kernel) ⟨h.1, h.2.1, h.2.2, rfl⟩

/-- Boundaries of the settings; a chunk that ends below, and one that ends at, the 512 bytes of a header (of length zero). -/
def staged (n : Nat) (p : Port) : Port := { p with firmware := { p.firmware with staged := List.replicate n 0 } }
theorem witness_SqpSettings : InTurn (onHost id) (sqpOwner 3) (hostQueue true 0 0) ∧ (sqpOwner 3).mgmt = true ∧ (sqpOwner 3).queue = 0 ∧
    (3071 < 3072 ∧ 64 ≤ 64 ∧ 65535 ≤ 65535) ∧ (3072 ≤ 3072 ∨ 64 < 64) ∧ (10000 ≤ 10000 ∧ 100000000 ≤ 100000000) ∧ 9999 < 10000 ∧
    65535 < 65536 ∧ (onHost id).toMach.tenant 1 = some tenHost ∧ 1 + (2 ^ 64 - 1) ≤ 2 ^ 64 ∧
    (isGlobal 0xC000FFFFFFFFFFFF = true ∧ bitsAt (0xC000FFFFFFFFFFFF : Word).toNat 48 14 = 0 ∧ bitsAt (0xC000FFFFFFFFFFFF : Word).toNat 0 48 + 1 ≤ 2 ^ 48) :=
  ⟨owner id ⟨rfl, rfl, rfl⟩, by and_intros <;> decide +kernel⟩
theorem witness_SqpSettings_log : ∃ e, InTurn (onHost fun s => { s with port := { s.port with log := [e] } }) (sqpOwner 3) (hostQueue true 0 0) :=
  ⟨{ starts := 1, source := 2, code := 7, spot := 0, detail := 0, place := 0 }, owner (fun p => { p with log := [_] }) ⟨rfl, rfl, rfl⟩⟩
theorem witness_SqpSettings_firmware : InTurn (onHost fun s => { s with port := staged 510 s.port }) (sqpOwner 3) (hostQueue true 0 0) ∧
    (let b := (onHost fun s => { s with port := staged 510 s.port }).port.firmware.staged
     (b ++ [0]).length < 512 ∧ 512 ≤ (b ++ [0, 0]).length ∧ firmwareLength (b ++ [0, 0]) ≤ (b ++ [0, 0]).length ∧
      (List.replicate 8144 (0 : Byte)).length ≤ 8144) :=
  ⟨owner (staged 510) ⟨rfl, rfl, rfl⟩, by decide +kernel⟩
/-- R334: a header whose length field is beyond 2^24. -/
theorem witness_SqpSettings_long : let b := (List.replicate 16 (0 : Byte) ++ List.replicate 8 255 ++ List.replicate 488 0)
    512 ≤ b.length ∧ 2 ^ 24 < field b 16 8 := by decide +kernel
theorem test_age_cap : after (.setAgeCap (sqpOwner 3) 3071 64) (onHost id) (fun t => ((t.toMach.server 3071).cap, (t.toMach.server 0).cap)) =
    some (64, 2048) := by decide +kernel
theorem test_age_cap_refused : after (.setAgeCap (sqpOwner 3) 3071 63) (onHost id) (fun t => t.port.queues.map fun q => (q.nextIn, q.unacked.map (·.2.body))) =
    some [(4, [.answer 3 6 0, .ack 3]), (3, []), (3, []), (3, [])] := by decide +kernel
theorem test_timeout : after (.setHostPathTimeout (sqpOwner 3) 10000) (onHost id) (fun t => t.port.timeout) = some 10000 := by decide +kernel

theorem mgmt4 (f : State → State) (h : (onHost f).port = (onHost id).port ∧ (onHost f).outbox = []) :
    InTurn (onHost f) (sqpMgmt 3) (hostQueue true 4 1) :=
  inTurn _ _ _ (by decide +kernel) ⟨by rw [h.1], by rw [h.1]; rfl, by rw [h.1]; rfl, h.2⟩
theorem work5 (f : State → State) (h : (onHost f).port = (onHost id).port ∧ (onHost f).outbox = []) :
    InTurn (onHost f) (sqpWork 3) (hostQueue false 5 1) :=
  inTurn _ _ _ (by decide +kernel) ⟨by rw [h.1], by rw [h.1]; rfl, by rw [h.1]; rfl, h.2⟩
theorem owner0 (f : State → State) (h : (onHost f).port = (onHost id).port ∧ (onHost f).outbox = []) :
    InTurn (onHost f) (sqpOwner 3) (hostQueue true 0 0) :=
  inTurn _ _ _ (by decide +kernel) ⟨by rw [h.1], by rw [h.1]; rfl, by rw [h.1]; rfl, h.2⟩

theorem witness_SqpReadings : InTurn (onHost id) (sqpMgmt 3) (hostQueue true 4 1) ∧ InTurn (onHost id) (sqpOwner 3) (hostQueue true 0 0) ∧
    (∃ t, (onHost id).toMach.tenant 1 = some t ∧ 0 ∈ t.tiles) ∧ (sqpMgmt 3).queue ≠ 0 ∧
    ∀ t, (onHost id).toMach.tenant 1 = some t → 2047 ∉ t.tiles :=
  ⟨mgmt4 _ ⟨rfl, rfl⟩, owner0 _ ⟨rfl, rfl⟩, ⟨_, rfl, by decide⟩, by decide, fun t h => by
    obtain rfl : tenHost = t := Option.some.inj h
    decide⟩
theorem test_counters : after (.readCounters (sqpMgmt 3) 1 0 0) (onHost fun s => { s with tiles := [{ id := 0, ctr := #v[5, 6, 7, 8, 9] }] })
    (fun t => (t.port.queueOf true 4).map fun q => q.unacked.map (·.2.body)) = some (some [.answer 3 0 0, .data 3 [5, 0, 0, 0, 0, 0, 0, 0], .ack 3]) := by
  decide +kernel

theorem witness_SqpDelivery : InTurn (onHost id) { sqpWork 2 with seq := (hostQueue false 5 1).nextIn } (hostQueue false 5 1) ∧
    InTurn (onHost id) { sqpMgmt 2 with seq := (hostQueue true 4 1).nextIn } (hostQueue true 4 1) ∧
    (∀ n, msgOf (.openPhase (sqpWork n) 0) = some (sqpWork n, .openPhase 0)) ∧ (sqpWork 2).seq < 3 ∧ 3 + 256 < (sqpWork 260).seq ∧
    (3 < (sqpWork 4).seq ∧ (sqpWork 259).seq ≤ 3 + 256) ∧
    (msgOf (.attest (sqpWork 3) 0) = some (sqpWork 3, .attest 0) ∧ false = isWork (.attest 0)) ∧
    (msgOf (.readErrorLog (sqpMgmt 3)) = some (sqpMgmt 3, .readErrorLog) ∧ isDevice .readErrorLog = true ∧ (sqpMgmt 3).queue ≠ 0) :=
  ⟨work5 _ ⟨rfl, rfl⟩, mgmt4 _ ⟨rfl, rfl⟩, fun _ => rfl, by decide, by decide, by decide, ⟨rfl, rfl⟩, rfl, rfl, by decide⟩
/-- A queue that keeps all the messages it may, and one on which nothing has come. -/
def queueWith (n next : Nat) : SqpQueue := { hostQueue false 5 1 with unacked := List.replicate n (0, { mgmt := false, queue := 5, body := .teardown }), nextIn := next }
theorem witness_SqpDelivery_room (n next : Nat) : let s := onHost fun s => { s with port := { s.port with queues := [queueWith n next] } }
    InTurn s { sqpWork 0 with seq := next } (queueWith n next) ∧ (queueWith n next).unacked.length = n ∧ (queueWith n next).nextIn = next := by
  refine ⟨⟨(by decide : 5 < 65536), rfl, rfl, rfl, rfl, rfl, ⟨rfl, rfl⟩, .inr ⟨rfl, rfl, rfl⟩, rfl, ?_, List.pairwise_singleton _ _⟩, List.length_replicate, rfl⟩
  intro q hq
  rw [List.mem_singleton.mp hq]; rfl
theorem test_duplicate : after (.openPhase (sqpWork 2) 0) (onHost id) (fun t => (t.port.queueOf false 5).map fun q => (q.nextIn, q.acks)) =
    some (some (3, [2])) := by decide +kernel
theorem test_held : after (.openPhase (sqpWork 259) 0) (onHost id) (fun t => (t.port.queueOf false 5).map fun q => (q.nextIn, q.held.length)) =
    some (some (3, 1)) := by decide +kernel
theorem witness_SqpClosed : msgOf (.openPhase { sqpWork 0 with queue := 65535 } 0) = some ({ sqpWork 0 with queue := 65535 }, .openPhase 0) ∧
    (onHost id).outbox = [] ∧ NoTeardown (onHost id) ∧ (onHost id).port.start = .ready ∧ (onHost id).port.queueOf false 65535 = none ∧
    (onHost fun s => { s with port := { s.port with start := .failed 3 } }).port.start ≠ .ready ∧
    (onHost fun s => { s with port := { s.port with start := .failed 3 } }).port.queueOf false 5 = some (hostQueue false 5 1) ∧
    NoTeardown (onHost fun s => { s with port := { s.port with start := .failed 3 } }) ∧ (hostQueue false 5 1).unacked.length < 4096 :=
  ⟨rfl, rfl, by unfold NoTeardown; decide +kernel, rfl, by decide +kernel, by decide, by decide +kernel, by unfold NoTeardown; decide +kernel, by decide⟩

def phased (l : List Entry) : State := onHost fun s => { s with entries := l, images := [image1] }
theorem witness_SqpPhases : (∀ l, InTurn (phased l) (sqpWork 3) (hostQueue false 5 1)) ∧ (phased []).toMach.isLive 1 2 65535 = false ∧
    (phased [liveEntry 2 65535]).toMach.isLive 1 2 65535 = true ∧
    (phased [liveEntry 3 65535]).toMach.entry 1 3 65535 = some (liveEntry 3 65535) :=
  ⟨fun _ => work5 _ ⟨rfl, rfl⟩, by decide +kernel, by decide +kernel, by decide +kernel⟩
theorem test_phase : after (.openPhase (sqpWork 3) 65535) (phased []) (fun t => t.toMach.isLive 1 2 65535) = some true := by decide +kernel

def theSub (index : Nat) : SubmitNet := { image := 1, index := index, args := 0, replay := none, graph := 65535, phase := 65535 }
theorem witness_SqpSubmissions : (phased []).toMach.inSram + 256 ≤ 262144 ∧ (phased []).toMach.tenantImage 1 1 = some image1 ∧
    (phased [liveEntry 0 65535]).toMach.isLive 1 0 65535 = true ∧ (phased []).toMach.isLive 1 0 65535 = false ∧
    (phased []).toMach.couldRun 1 image1 = true ∧ (phased []).toMach.graphBad 1 65535 65535 = none ∧
    (phased []).toMach.tenantImage 1 0 = none ∧
    (phased []).toMach.edgesOk 1 2 [{ src := 1, dst := 0, kind := .completion, ctr := 0, base := 0 }] = true ∧
    (phased []).toMach.isLive 1 1 65535 = false ∧ ([theSub 65535, theSub 0].map (·.index)).Nodup ∧
    ∃ l, [theSub 65535, theSub 0].mapM ((phased []).toMach.checkSub 1) = .ok l := by
  have checked : ∃ l, [theSub 65535, theSub 0].mapM ((phased []).toMach.checkSub 1) = .ok l := answered _ (by decide +kernel)
  and_intros <;> first | exact checked | decide +kernel
/-- Queue SRAM and a tenant's overflow region with as many entries as they hold. -/
def crowded (n m : Nat) : State := { phased [] with
  subs := List.replicate n { tenant := 1, queue := 5, net := theSub 0, args := [], aside := false } ++
    List.replicate m { tenant := 1, queue := 5, net := theSub 0, args := [], aside := true } }
theorem witness_SqpSubmissions_full (n m : Nat) : (crowded n m).toMach.inSram = n ∧ (crowded n m).toMach.inOverflow 1 = m ∧
    InTurn (crowded n m) (sqpWork 3) (hostQueue false 5 1) := by
  refine ⟨?_, ?_, inTurn _ _ _ (by decide +kernel) ⟨rfl, rfl, rfl, rfl⟩⟩
  · simp [Mach.inSram, crowded, List.countP_append, List.countP_replicate, Sub.waits]
  · simp [Mach.inOverflow, crowded, List.countP_append, List.countP_replicate, Sub.waits]
theorem test_submit_refused : after (.submitNetwork (sqpWork 3) (theSub 65535)) (phased [liveEntry 0 65535])
    (fun t => (t.port.queueOf false 5).map fun q => q.unacked.map (·.2.body)) = some (some [.answer 3 2 0, .ack 3]) := by decide +kernel

theorem witness_SqpCutsResumptions_cut : InTurn (onHost fun s => { s with entries := [liveEntry 0 0] }) (sqpWork 3) (hostQueue false 5 1) ∧
    isGlobal 0xC000000000000000 = true ∧ (0xC000000000000000 : Word).toNat % 4096 = 0 ∧ (onHost id).toMach.liveNet 1 65535 = none ∧
    (onHost fun s => { s with entries := [liveEntry 0 0] }).toMach.liveNet 1 0 = some 0 ∧ (onHost fun s => { s with entries := [liveEntry 0 0] }).nets[0]? = some net0 ∧
    net0.cut = none ∧ net0.cancel = false ∧ net0.fatal = false ∧ net0.procs[0]? = some 0 ∧ isGlobal 0 = false ∧ (0xC000000000000040 : Word).toNat % 4096 ≠ 0 :=
  ⟨work5 _ ⟨rfl, rfl⟩, by decide, by decide, by decide +kernel, by decide +kernel, rfl, rfl, rfl, rfl, rfl, by decide, by decide⟩
def resuming (mem : Memory) (l : List Entry) : State := onHost fun s => { s with images := [{ image2 with procs := [] }], mem := mem, entries := l }
def resumed (mem : Memory) (l : List Entry) : Word × Mach :=
  ((resuming mem l).toMach.usePhase 1 0 5).hubResume 1 0xC000000000000000 9 5 [⟨65535, 63, 31⟩] 0
theorem witness_SqpCutsResumptions_resume : (∀ m l, InTurn (resuming m l) (sqpWork 3) (hostQueue false 5 1)) ∧
    (∃ m, resumed (cells 0 256 snapHead) [] = (0, m) ∧ m.outbox = []) ∧ (∃ m, resumed [] [] = (BitVec.ofInt 64 (-1), m)) ∧
    ∃ m, resumed (cells 0 256 snapHead) [liveEntry 0 9] = (BitVec.ofInt 64 (-2), m) :=
  ⟨fun _ _ => work5 _ ⟨rfl, rfl⟩, ⟨_, Prod.ext (by decide +kernel) rfl, by decide +kernel⟩, ⟨_, Prod.ext (by decide +kernel) rfl⟩,
    ⟨_, Prod.ext (by decide +kernel) rfl⟩⟩

theorem witness_SqpQueues : (onHost id).toMach.queueOwner true 5 = some 1 ∧ (onHost id).toMach.queueOwner false 6 = some 1 ∧ 1 = (sqpMgmt 3).tenant ∧
    2 ^ 1064 - 1 < 2 ^ 1064 ∧ (onHost id).port.queueOf false 6 = none ∧ (onHost id).port.queueOf true 5 = some (hostQueue true 5 1) ∧
    (hostQueue true 5 1).isOpen = true ∧ (true, 5) ≠ ((sqpMgmt 3).mgmt, (sqpMgmt 3).queue) :=
  ⟨by decide +kernel, by decide +kernel, rfl, by decide +kernel, by decide +kernel, by decide +kernel, rfl, by decide⟩
theorem witness_SqpTeardowns : (onHost id).deps = [] ∧ (onHost id).toMach.queueOwner false 5 = some 1 ∧
    (onHost id).port.queueOf false 5 = some (hostQueue false 5 1) ∧ (hostQueue false 5 1).isOpen = true := by decide +kernel
theorem test_teardown : after (.teardownQueue (sqpWork 3)) (onHost fun s => { s with entries := [liveEntry 0 0] })
    (fun t => (t.nets.map (·.cancel), (t.port.queueOf false 5).map (·.tearing))) = some ([true], some true) := by decide +kernel
theorem test_open : after (.openQueue (sqpMgmt 3) false 6 0) (onHost id) (fun t => (t.port.queueOf false 6).map fun q => (q.isOpen, q.nextIn, q.tenant)) =
    some (some (true, 0, 1)) := by decide +kernel

/-- R244: an image of one process, whose entry stands behind the header; the process begins at 0x1000 at tenant level. -/
def imageBytes : Nat := 0x5452494553544E57 + 2 ^ 64 + 2 ^ 96 + 128 * 2 ^ 512 + (0x1000 + 2 ^ 32) * 2 ^ 1024
def memOf (m : Memory) : State := onHost fun s => { s with mem := m }
theorem inTurn_mem (m : Memory) : InTurn (memOf m) (sqpMgmt 3) (hostQueue true 4 1) ∧ (memOf m).reqs = [] := ⟨mgmt4 _ ⟨rfl, rfl⟩, rfl⟩
def imaged : State := memOf (cells 0 256 imageBytes)
theorem witness_SqpImages : InTurn imaged (sqpMgmt 3) (hostQueue true 4 1) ∧ imaged.reqs = [] ∧
    (∃ bs im, imaged.toMach.readAll 1 0xC000000000000000 256 = some bs ∧ loadImage 1 1 bs = .ok im) ∧
    (∃ bs, imaged.toMach.readAll 1 0xC000000000000000 127 = some bs ∧ loadImage 1 1 bs = .error 2) ∧ isGlobal 0x1000 = false := by
  refine ⟨(inTurn_mem _).1, (inTurn_mem _).2, ?_, ⟨bytesOfNat 127 imageBytes, by decide +kernel, if_pos (by decide +kernel)⟩, by decide⟩
  obtain ⟨im, e⟩ := answered (loadImage 1 1 (bytesOfNat 256 imageBytes)) (by decide +kernel)
  exact ⟨_, im, by decide +kernel, e⟩
def withImages (l : List Image) (t : Tenant → Tenant) : State := onHost fun s => { s with images := l, tenants := [t tenHost], procs := [], nets := [], cur := none }
theorem witness_SqpImages_place : (withImages [image1] id).toMach.tenantImage 1 0 = none ∧
    ((withImages [image2] id).toMach.tenantImage 1 2 = some image2 ∧ image2.ready = true) ∧
    ((withImages [image1] id).toMach.tenantImage 1 1 = some image1 ∧ image1.ready = false ∧ ((withImages [image1] id).toMach.planSlots image1).isSome = true) ∧
    (withImages [image1] fun t => { t with tiles := [] }).toMach.planSlots image1 = none := by decide +kernel
theorem test_register : after (.registerImage (sqpMgmt 3) 0xC000000000000000 256) imaged
    (fun t => (t.images.map fun i => (i.handle, i.procs.map (·.entry)), (t.port.queueOf true 4).map fun q => q.unacked.map (·.2.body))) =
    some ([(1, [0x1000])], some [.answer 3 0 1, .ack 3]) := by decide +kernel
theorem test_pre_place : after (.prePlaceImage (sqpMgmt 3) 1) (withImages [image1] id) (fun t => t.images.map fun i => (i.ready, i.slots.length)) =
    some [(true, 1)] := by decide +kernel

def jobOf (ten : Nat) (tiles : List Nat) : JobDecl :=
  { tenant := ten, tiles := tiles, stackNos := [23], queues := [7, 65551], arr := some 4, bank := [(23, 8)], rows := [], ranges := [] }
theorem witness_SqpJobs : InTurn (onHost id) (sqpOwner 3) (hostQueue true 0 0) ∧
    (jobFieldsOk (jobOf (2 ^ 32 - 1) [2047]) = true ∧ (onHost id).toMach.tenant (2 ^ 32 - 1) = none ∧ (onHost id).toMach.taken (jobOf (2 ^ 32 - 1) [2047]) = false) ∧
    (jobFieldsOk (jobOf 2 [0]) = true ∧ (onHost id).toMach.taken (jobOf 2 [0]) = true) ∧
    (jobFieldsOk (jobOf 1 []) = true ∧ (onHost id).toMach.tenant 1 = some tenHost ∧ tenHost.gone = false) :=
  ⟨owner0 _ ⟨rfl, rfl⟩, by decide +kernel, by decide +kernel, by decide +kernel⟩
theorem test_job : after (.jobStart (sqpOwner 3) (jobOf 2 [2047])) (onHost id) (fun t => ((t.toMach.tenant 2).map (·.tiles), t.toMach.isLive 2 3 0)) =
    some (some [2047], true) := by decide +kernel
theorem test_job_end : after (.jobEnd (sqpOwner 3) 1) (onHost id) (fun t => ((t.toMach.tenant 1).map (·.gone), (t.toMach.tile 0).zeroing)) =
    some (some true, true) := by decide +kernel

/-! The hub as sender, the bulk-data port, span links. -/

def outOn (b : OutBody) : OutMsg := { mgmt := true, queue := 4, body := b }
def unacked (l : List (Nat × OutMsg)) (out : List OutMsg) : State := onHost fun s => { s with
  outbox := out, port := { s.port with queues := [hostQueue true 0 0, { hostQueue true 4 1 with nextOut := 2, interval := 51200, unacked := l }] } }
theorem witness_SqpSending : (∀ l out, ∃ q, (unacked l out).port.queueOf true 4 = some q ∧ q.unacked = l ∧ q.isOpen = true) ∧
    (∀ l out, NoTeardown (unacked l out) ∧ (unacked l out).port.queues.Pairwise (fun a b => ¬(a.mgmt = b.mgmt ∧ a.queue = b.queue))) ∧
    (unacked [] []).outbox = [] ∧ (unacked [] [outOn (.event 1)]).outbox = [{ mgmt := true, queue := 4, body := .event 1 }] ∧
    ([(0, outOn (.event 1)), (1, outOn (.event 1))].filter fun z : Nat × OutMsg => 0 < z.1).length < 4096 := by
  refine ⟨fun _ _ => ⟨_, rfl, rfl, rfl⟩, fun l out => ⟨fun q h => ?_, ?_⟩, rfl, rfl, by decide⟩
  · have h : q = hostQueue true 0 0 ∨ q = { hostQueue true 4 1 with nextOut := 2, interval := 51200, unacked := l } := by simpa [unacked, onHost] using h
    rcases h with rfl | rfl <;> rfl
  · simp [unacked, onHost, hostQueue]
theorem test_acknowledgement : after (.sqpAcknowledgement true 4 0) (unacked [(0, outOn (.event 1)), (1, outOn (.event 2))] [])
    (fun t => (t.port.queueOf true 4).map fun q => (q.unacked.map (·.1), q.interval)) = some (some ([1], 100)) := by decide +kernel
theorem test_retransmit : after (.sqpRetransmit true 4) (unacked [(0, outOn (.event 1))] []) (fun t => (t.port.queueOf true 4).map (·.interval)) =
    some (some 100000) := by decide +kernel

/-- One region of 512 bytes at the start of tenant 1's global range, under key 1. -/
def region1 : Region := { rkey := 1, tenant := 1, base := 0xC000000000000000, len := 512, rd := true, w := true }
def regional : State := onHost fun s => { s with port := { s.port with regions := [region1] }, mem := cells 0x80 2 0x1122 }
theorem witness_BulkData : 4095 < 4096 ∧ regional.reqs = [] ∧ regional.bad = [] ∧ Memory.wf regional.mem = true ∧
    regional.port.regionFor 1 0xC000000000000000 256 true = some region1 ∧ 256 + (0xC000000000000000 : Word).toNat % 256 ≤ 256 ∧
    regional.port.regionFor 1 0xC0000000000000FF 1 false = some region1 ∧ 1 + (0xC0000000000000FF : Word).toNat % 256 ≤ 256 ∧
    (∃ x, regional.toMach.translate (some 1) 0xC000000000000000 256 false false = .ok x) ∧
    (∃ x, regional.toMach.translate (some 1) 0xC0000000000000FF 1 false false = .ok x) ∧
    ∀ r ∈ regional.port.regions, r.rkey = 1 → r.live = true → r.w = true →
      (0xC0000000000001FF : Word).toNat < r.base.toNat ∨ r.base.toNat + r.len < (0xC0000000000001FF : Word).toNat + [(0 : Byte), 0].length := by
  and_intros <;> first | decide +kernel | exact answered _ (by decide +kernel)
theorem test_rdma_write : after (.rdmaWrite 4095 1 0xC000000000000001 [5, 0]) regional (fun t => (t.port.rdma, Mem.bytes t.mem 0 3)) =
    some ([.ack 4095], [0, 5, 0]) := by decide +kernel
theorem test_rdma_read : after (.rdmaRead 1 1 0xC000000000000081 1) regional (fun t => t.port.rdma) = some [.data 1 [0x11]] := by decide +kernel
theorem test_rdma_outside : after (.rdmaWrite 1 1 0xC0000000000001FF [5, 6]) regional (fun t => (t.port.rdma, t.mem)) =
    some ([.nakAccess 1], regional.mem) := by decide +kernel
/-- An Ethernet frame of an IPv6 packet: its next header, its UDP destination port or its ICMPv6 type. -/
def frameHead (next : Byte) (port : Nat) (type : Byte) : List Byte :=
  List.replicate 12 0 ++ [0x86, 0xDD, 0x60, 0, 0, 0, 0, 0, next] ++ List.replicate 33 0 ++ [type, 0] ++ bytesMost 2 port ++ List.replicate 4 0
theorem drop_take_head (a b : List Byte) (o n : Nat) (h : o + n ≤ a.length) : ((a ++ b).drop o).take n = (a.drop o).take n := by
  rw [List.drop_append_of_le_length (by omega), List.take_append_of_le_length (by rw [List.length_drop]; omega)]
theorem field_head (a b : List Byte) (o n : Nat) (h : o + n ≤ a.length) : field (a ++ b) o n = field a o n ∧ fieldBig (a ++ b) o n = fieldBig a o n := by
  rw [field, field, fieldBig, fieldBig, drop_take_head a b o n h]; exact ⟨rfl, rfl⟩
theorem frame_sqp (b : List Byte) (h : b.length ≤ 9154) : frameKind 24712 (frameHead 17 24712 0 ++ b) = .sqp b := by
  have hl : (frameHead 17 24712 0).length = 62 := by decide
  have hd : (frameHead 17 24712 0 ++ b).drop 62 = b := List.drop_left' hl
  have f := fun o n k => field_head (frameHead 17 24712 0) b o n (hl.symm ▸ k)
  rw [frameKind, (f 12 4 (by decide)).2, if_neg (by rw [show fieldBig (frameHead 17 24712 0) 12 4 = 0x86DD6000 by decide]; simp), (f 12 2 (by decide)).2, (f 14 1 (by decide)).1, (f 20 1 (by decide)).1, (f 56 2 (by decide)).2, hd, List.length_append, hl,
    if_neg, if_pos (by decide +kernel), if_pos (by decide +kernel)]
  have h1 : ¬ frameBytes < 62 + b.length := by have : frameBytes = 9216 := rfl; omega
  have h2 : ¬ 62 + b.length < 54 := by omega
  rw [decide_eq_false h1, decide_eq_false h2]
  decide +kernel
theorem witness_Frames : 9216 < (List.replicate 9217 (0 : Byte)).length ∧ fieldBig (frameHead 6 0 0) 12 2 = 0x86DD ∧
    frameKind 24712 (frameHead 6 0 0) = .other ∧ frameKind 24712 (frameHead 17 4791 0) = .other ∧
    frameKind 24712 (frameHead 17 4791 0 ++ [0x0A] ++ List.replicate 15 0) = .bulk ∧ frameKind 24712 (frameHead 58 0 128) = .icmp true ∧
    frameKind 24712 (frameHead 58 0 135) = .icmp false ∧ frameKind 24712 (frameHead 58 0 1) = .other ∧
    frameKind 24712 (frameHead 17 24712 0) = .sqp [] ∧ sqpHeader [] = none := by decide +kernel
/-- A datagram on work queue 5, of a type and with a payload of eight bytes, with its tag, or with a tag of zeros. -/
def sealed (type : Nat) (text : List Byte) : List Byte :=
  let q := hostQueue false 5 1
  q.header type 3 8 ++ gcmSeal q.keyBytes (q.nonce false 3) (q.header type 3 8) text
/-- R328: a priority flow control frame, which pauses what its time fields say of the priorities that the port has it on. -/
def pauseFrames : List Byte := List.replicate 12 0 ++ [0x88, 0x08, 0x01, 0x01, 0, 0xFF] ++ List.replicate 16 1
theorem witness_Frames_pause : pauseFrames.length = 34 ∧ fieldBig pauseFrames 12 4 = 0x88080101 ∧
    ∃ on off, frameKind 24712 pauseFrames = .pause on off :=
  ⟨by decide, by decide +kernel, _, _, if_pos (by decide +kernel)⟩
/-- The host's acknowledgement in its turn, and one whose seq has gone by. -/
theorem witness_Frames_ack : (hostQueue false 5 1).nextIn = (sqpWork 3).seq ∧ (hostQueue false 5 1).held = [] ∧ (hostQueue false 5 1).skip = [] ∧
    (sqpWork 3).seq < (queueWith 0 4).nextIn := ⟨rfl, rfl, rfl, by decide⟩
theorem witness_Frames_sqp (type : Nat) (ht : type ∈ [0x03, 0x84, 0x50]) (text : List Byte) (h : text.length = 8) :
    sqpHeader (sealed type text) = some (sqpWork 3, type) ∧ (onHost id).port.queueOf false 5 = some (hostQueue false 5 1) ∧
    gcmOpen (hostQueue false 5 1).keyBytes ((hostQueue false 5 1).nonce false 3) ((sealed type text).take 32) ((sealed type text).drop 32) = some text ∧
    frameKind 24712 (frameHead 17 24712 0 ++ sealed type text) = .sqp (sealed type text) := by
  have hk : (hostQueue false 5 1).keyBytes.length = 32 := bytesOfNat_length 32 _
  have hh : ((hostQueue false 5 1).header type 3 8).length = 32 := by simp [SqpQueue.header]
  obtain ⟨g1, g2⟩ := gcm_open_seal (hostQueue false 5 1).keyBytes ((hostQueue false 5 1).nonce false 3) ((hostQueue false 5 1).header type 3 8) text hk
  have hl : (sealed type text).length = 56 := by rw [sealed, List.length_append, hh, g1, h]
  refine ⟨?_, by decide +kernel, ?_, frame_sqp _ (by omega)⟩
  · have f := fun o n k => (field_head ((hostQueue false 5 1).header type 3 8)
      (gcmSeal (hostQueue false 5 1).keyBytes ((hostQueue false 5 1).nonce false 3) ((hostQueue false 5 1).header type 3 8) text) o n (hh.symm ▸ k)).1
    rw [sqpHeader, hl]
    unfold sealed
    rw [f 0 2 (by decide), f 2 1 (by decide), f 6 1 (by decide), f 7 1 (by decide), f 16 4 (by decide), f 24 8 (by decide), f 4 2 (by decide),
      f 8 8 (by decide), f 20 4 (by decide), f 3 1 (by decide)]
    clear f g1 g2 hl hh
    revert type
    decide +kernel
  · rw [show (sealed type text).take 32 = (hostQueue false 5 1).header type 3 8 from List.take_left' hh,
      show (sealed type text).drop 32 = gcmSeal (hostQueue false 5 1).keyBytes ((hostQueue false 5 1).nonce false 3)
        ((hostQueue false 5 1).header type 3 8) text from List.drop_left' hh]
    exact g2
/-- The types of the witness: a phase message whose byte 0 is neither 0 nor 1, the host's acknowledgement, and no type at all. -/
theorem witness_Frames_types : messageOf 0x03 [2, 0, 0, 0, 0, 0, 0, 0] = some (.malformed 0) ∧ typeLevel 0x50 = none ∧
    InTurn (onHost id) (sqpWork 3) (hostQueue false 5 1) ∧ (onHost id).port.udpPort = 24712 :=
  ⟨by decide +kernel, by decide, work5 _ ⟨rfl, rfl⟩, rfl⟩
/-- FIPS 197: a byte of the substitution, and word 8 of the key schedule of its example for AES-256. -/
theorem test_aes : subByte 0x53 = 0xED ∧
    (keyWords 1 8 1 (pieces 8 4 (bytesMost 32 0x603DEB1015CA71BE2B73AEF0857D77811F352C073B6108D72D9810A30914DFF4)).reverse).headD [] =
      [0x9B, 0xA3, 0x54, 0x11] := by decide +kernel
theorem test_echo_limit : after (.icmpv6NeighbourDiscoveryAndEcho true (List.replicate 9217 0)) (onHost id) (fun t => (t.port.dropped, t.port.frames)) =
    some (1, []) := by decide +kernel

/-- Link 11 expects seq 65535 and keeps flits 7 and 8 to be replayed. -/
def flit0 (seq : Nat) : Flit := { seq := seq, type := 1, cls := 0, ack := 9, payload := [1, 2], crc := 0 }
def withCrc (y : Flit) (c : Word) : Flit := { y with crc := c }
theorem withCrc_fields (y : Flit) (c : Word) : (withCrc y c).type = y.type ∧ (withCrc y c).ack = y.ack ∧ (withCrc y c).seq = y.seq :=
  ⟨rfl, rfl, rfl⟩
theorem withCrc_good (y : Flit) (c : Word) (h : y.type ≤ 5) : flitGood (withCrc y c) = (c == crc64 (flitBytes y)) := by
  have k : flitBytes (withCrc y c) = flitBytes y := rfl
  rw [flitGood, k, (withCrc_fields y c).1, decide_eq_true h, Bool.and_true, withCrc]
def linked (f : Link → Link) : State := onHost fun s => linkTo s 11 (f { expect := 65535, replay := [flit0 7, flit0 8] })
theorem not_ne (w : Word) : ~~~w ≠ w := fun h => by
  have h := congrArg (fun y : Word => y.getLsbD 0) h
  simp at h
theorem witness_FlitsInOrder : ((linked id).link 11).up = true ∧ (linked id).outbox = [] ∧ NoTeardown (linked id) ∧ 11 < 12 ∧
    (linked id).link 11 = { expect := 65535, replay := [flit0 7, flit0 8] } ∧ (∀ y ∈ [flit0 7, flit0 8], y.seq ≠ 9) ∧
    (∀ n, (flit0 n).cls ≠ 2 ∧ (linked id).toMach.netOfTag (flit0 n).payload = none) ∧
    ([flit0 7, flit0 8] = [flit0 7] ++ flit0 8 :: [] ∧ ∀ y ∈ [flit0 7], y.seq ≠ (flit0 8).seq) ∧ [flit0 7, flit0 8] = [] ++ flit0 7 :: [flit0 8] :=
  ⟨rfl, rfl, by unfold NoTeardown; decide +kernel, by decide, rfl, by decide,
    fun n => ⟨(by decide : (0 : Nat) ≠ 2), (by decide +kernel : (linked id).toMach.netOfTag (flit0 0).payload = none)⟩, by decide, rfl⟩
theorem witness_FlitsInOrder_crc (n : Nat) : flitGood (withCrc (flit0 n) (crc64 (flitBytes (flit0 n)))) = true ∧
    flitGood (withCrc (flit0 n) (~~~crc64 (flitBytes (flit0 n)))) = false := by
  refine ⟨?_, ?_⟩ <;> rw [withCrc_good _ _ (show (1 : Nat) ≤ 5 by decide)] <;> generalize crc64 (flitBytes (flit0 n)) = c
  · exact beq_self_eq_true _
  · exact beq_eq_false_iff_ne.2 (not_ne _)
/-- R310: the check value of CRC-64/ECMA-182. -/
theorem test_crc : crc64 [0x31, 0x32, 0x33, 0x34, 0x35, 0x36, 0x37, 0x38, 0x39] = 0x6C40DF5F0B497347 := by decide +kernel
theorem test_span_nak : after (.spanNegativeAcknowledgement 11 7) (linked id) (fun t => ((t.link 11).resend, (t.link 11).replay.length)) =
    some ([7, 8], 2) := by decide +kernel

/-- Channel 0 of network 7 over link 11: its writer here and its reader on the other package, or the other way round. -/
def spanning (w r : Nat) (l : List Tok) : State := { linked (fun _ => {}) with
  turns := [.spanToken 0 0]
  procs := [proc0, { proc0 with index := 1, away := true }]
  nets := [{ net0 with procs := [0, 1], chans := [{ decl := scalarChan w r, slots := 4, free := 4, flight := l, span := some 11 }] }] }
theorem witness_SpanTraffic (w r : Nat) (l : List Tok) : ∃ x c, (spanning w r l).nets[0]? = some x ∧ x.live = true ∧ x.chans[0]? = some c ∧
    c.span = some 11 ∧ c.rebind = false ∧ (∀ (m : Nat) y, (spanning w r l).nets[m]? = some y → y.live = true → y.nid = x.nid → y.tenant = x.tenant → y.guest = x.guest →
      m = 0) ∧ x.nid < 2 ^ 32 ∧ x.tenant < 2 ^ 32 ∧ (spanning w r l).outbox = [] ∧ NoTeardown (spanning w r l) ∧ (spanning w r l).link 11 = {} ∧ c.flight = l ∧ c.sent = 0 ∧
    c.rExited = false ∧ 0 < c.free := by
  refine ⟨_, _, rfl, rfl, rfl, rfl, rfl, fun m y h _ _ _ _ => ?_, (by decide : 7 < 2 ^ 32), (by decide : 1 < 2 ^ 32), rfl, (by unfold NoTeardown; decide +kernel : NoTeardown (onHost id)), rfl, rfl, rfl, rfl,
    (by decide : 0 < 4)⟩
  rcases m with _ | m
  · rfl
  · cases h
theorem witness_SpanTraffic_ends : (∃ x, (spanning 0 1 [.scalar 5]).nets[0]? = some x ∧ (spanning 0 1 [.scalar 5]).toMach.isAway x 0 = false) ∧
    (∃ x, (spanning 1 0 []).nets[0]? = some x ∧ (spanning 1 0 []).toMach.isAway x 1 = true) ∧ ({} : Link).up = true ∧ ({} : Link).drain = false ∧
    ({} : Link).grant = none ∧ (({} : Link).replay ++ ({} : Link).held).countP (fun f => f.cls = 0) < Config.linkCredits 0 + 3 :=
  ⟨⟨_, rfl, rfl⟩, ⟨_, rfl, rfl⟩, rfl, rfl, rfl, Nat.lt_of_lt_of_le (by decide) (Nat.le_add_left 3 _)⟩
def tokenFlit (w : Word) : Flit := { seq := 0, type := 1, cls := 0, ack := 9, payload := ((Tok.scalar w).payloads { net0 with guest := true } 0).headD [], crc := 0 }
theorem witness_SpanTraffic_flit (w : Word) : let f := withCrc (tokenFlit w) (crc64 (flitBytes (tokenFlit w)))
    flitGood f = true ∧ f.type = 1 ∧ f.cls = 0 ∧ f.seq = ({} : Link).expect ∧ (∀ y ∈ ({} : Link).replay, y.seq ≠ f.ack) ∧
    f.payload = ((Tok.scalar w).payloads { net0 with guest := true } 0).headD [] :=
  ⟨by rw [withCrc_good _ _ (show (1 : Nat) ≤ 5 by decide)]; exact beq_self_eq_true _, rfl, rfl, rfl, fun _ h => absurd h List.not_mem_nil, rfl⟩
theorem witness_LaneRepair :
    (∀ f, (linked f).link 11 = f { expect := 65535, replay := [flit0 7, flit0 8] } ∧ (linked f).outbox = [] ∧ NoTeardown (linked f)) ∧
    (let l : Link := { expect := 65535, grant := some (8, 9), held := [flit0 9] }
     l.up = true ∧ l.drain = false ∧ l.grant = some (8, 9) ∧ l.replay = [] ∧ l.asked = none) ∧
    (let l : Link := { expect := 65535, asked := some (8, none) }; l.up = true ∧ l.asked = some (8, none) ∧ 65535 < 65536) ∧
    (let l : Link := { expect := 65535, asked := some (8, some 65535) }; l.drain = false ∧ l.grant = none ∧ l.asked = some (8, some l.expect)) ∧
    (let l : Link := { drain := true, tries := 2 }; l.up = true ∧ l.drain = true ∧ l.tries < 3) ∧
    (let l : Link := { drain := true, tries := 3 }; l.up = true ∧ l.tries = 3) ∧
    (let l : Link := {}; l.up = true ∧ l.grant = none ∧ l.spareIn = none ∧ l.asked = none) ∧
    let l : Link := { spareIn := some 4 }; l.up = true ∧ l.spareIn = some 4 ∧ (4 : Nat) ≠ 8 ∧ l.asked = none :=
  ⟨fun f => ⟨rfl, rfl, (by unfold NoTeardown; decide +kernel : NoTeardown (onHost id))⟩, by and_intros <;> first | rfl | decide⟩
theorem witness_LaneRepair_down : let s := onHost fun s => { linkTo s 11 { drain := true, tries := 3 } with
      nets := [{ net0 with chans := net0.chans.map fun (c : Chan) => { c with span := some 11 } }] }
    ∃ x, s.nets[0]? = some x ∧ x.live = true ∧ x.guest = false ∧ ∃ c ∈ x.chans, c.span = some 11 := ⟨_, rfl, rfl, rfl, _, .head _, rfl⟩
theorem test_repair_request : after (.repairRequest 11 8) (linked fun l => { l with nextOut := 9 }) (fun t => ((t.link 11).grant, (t.link 11).out)) =
    some (some (8, 9), [.grant 9]) := by decide +kernel
theorem test_link_down : after (.linkDown 11) (linked fun l => { l with drain := true, tries := 3 }) (fun t => ((t.link 11).up, t.port.log.map (·.spot))) =
    some (false, [11]) := by decide +kernel

/-! Starts, clocks, the change of owner. -/

def finds : StartFinds := { firmwareOk := true, selfTestOk := true, stacksOk := true, linksUp := List.range 12, hostLinkOk := true, clearOk := true
                            clocks := [2700, 2800, 3600, 3700, 3300, 3300, 3300, 3300] }
/-- A host cell stands in memory beside a cell of a tile. -/
def running : State := { base with mem := cells (Key.tile 0 0x40) 1 5 ++ cells (2 ^ 64 + 8) 1 6 }
theorem witness_Starts : Memory.wf running.mem = true ∧ running.port.firmware.flash = none ∧ running.port.start = .ready ∧ finds.firmwareOk = true ∧
    finds.selfTestOk = true ∧ finds.stacksOk = true ∧ (∀ k, k < 12 → k ∈ finds.linksUp) ∧ finds.hostLinkOk = true ∧ finds.clearOk = true ∧
    ((∃ c, finds.clocks[0]? = some c ∧ clockFor c = 2800) ∧ ∃ c, finds.clocks[7]? = some c ∧ clockFor c = 3300) ∧
    (let s := { running with port := { running.port with dies := Vector.replicate 8 { clock := 2800 } } }
      ∃ d, s.port.dies[0]? = some d ∧ d.clock ≤ clockFor 2700) ∧
    ({ finds with clearOk := false } : StartFinds).clearOk = false ∧ ({ finds with hostLinkOk := false } : StartFinds).hostLinkOk = false ∧
    ({ finds with selfTestOk := false } : StartFinds).selfTestOk = false ∧ ({ finds with stacksOk := false } : StartFinds).stacksOk = false ∧
    ({ finds with firmwareOk := false } : StartFinds).firmwareOk = false :=
  by and_intros <;> decide +kernel
/-- R336: every stored record is valid at 25 °C, at 15 and at 35, and none where the check value fails or at 36. -/
def warmed (c : Int) (bad : List Nat) : StartFinds := { finds with celsius := List.replicate 37 c, badRecords := bad }
theorem witness_Starts_valid : (∀ u, u < 37 → HasValid running (warmed 15 []) u ∧ HasValid running (warmed 35 []) u) ∧
    ¬ HasValid running (warmed 36 []) 36 ∧ ¬ HasValid running (warmed 25 [23]) 23 ∧ ∀ c g, running.port.start ≠ .holding c g := by
  refine ⟨?_, ?_, ?_, fun c g h => by cases h⟩ <;> unfold HasValid <;> decide +kernel
theorem test_warm_start : after (.warmStart { warmed 25 [23] with stacksOk := false }) running (fun t => t.port.start) = some (.failed 3) := by
  decide +kernel
theorem test_cold_start : after (.coldStart finds) running (fun t => (t.mem, t.procs.length, t.port.starts, t.port.dies.map (·.clock))) =
    some (cells (2 ^ 64 + 8) 1 6, 0, 2, #v[2800, 2800, 3600, 3600, 3300, 3300, 3300, 3300]) := by decide +kernel
theorem test_start_fails : after (.coldStart { finds with stacksOk := false }) running (fun t => t.port.start) = some (.failed 3) := by decide +kernel
theorem witness_HoldingStarts : ({ running with port := { running.port with start := .holding true finds } } : State).port.start = .holding true finds ∧
    finds.clearOk = true := ⟨rfl, rfl⟩

def powered (f : Port → Port) : State := onHost fun s => { s with port := f { s.port with sinceStep := 9, lowFor := 999, watts := List.replicate 9 3000 } }
theorem witness_ClocksAndPower : (powered id).outbox = [] ∧ NoTeardown (powered id) ∧ (∃ d, (powered id).port.dies[7]? = some d ∧ 2900 ≤ d.clock) ∧
    (∃ d, (powered fun p => { p with dies := Vector.replicate 8 { clock := 2900 } }).port.dies[0]? = some d ∧ 2900 ≤ d.clock) ∧
    (∃ d, (powered fun p => { p with dies := Vector.replicate 8 { clock := 2800 } }).port.dies[0]? = some d ∧ d.clock < 2900) ∧
    (powered id).port.watts.length = 9 ∧ (39000 < (powered id).port.watts.sum + 12001 ∧ 9 ≤ (powered id).port.sinceStep) ∧
    ((powered id).port.watts.sum + 12000 ≤ 39000 ∧ 37000 ≤ (powered id).port.watts.sum + 10000) ∧
    ((powered id).port.watts.sum + 9999 < 37000 ∧ (powered id).port.lowFor = 999) ∧ (powered fun p => { p with watts := List.replicate 8 0 }).port.watts.length < 9 :=
  by and_intros <;> first | exact ⟨_, rfl, by decide⟩ | (try unfold NoTeardown); decide +kernel
theorem test_power_up : after (.powerSample 9999) (powered fun p => { p with dies := Vector.replicate 8 { clock := 3500, capped := 1 } })
    (fun t => t.port.dies[0]?.map fun d => (d.clock, d.capped)) = some (some (3600, 0)) := by decide +kernel
theorem test_power_down : after (.powerSample 12001) (powered id) (fun t => (t.port.dies[0]?.map fun d => (d.clock, d.capped), t.port.sinceStep)) =
    some (some (3500, 1), 0) := by decide +kernel
theorem test_replan : after (.ageingReplan 0 false) (powered id) (fun t => t.port.dies[0]?.map (·.clock)) = some (some 3500) := by decide +kernel

def jobEnded (f : Mach → Mach) : State := { toMach := f { tenants := [{ ten1 with gone := true }], tiles := [{ id := 0, zeroing := true }], mem := cells (Key.tile 0 0x40) 1 5 ++ cells (Key.save 3 0) 1 6 } }
theorem witness_OwnerChange : ((jobEnded id).toMach.tile 0).zeroing = true ∧ (jobEnded id).toMach.onTile 0 = [] ∧
    (∀ r ∈ (jobEnded id).resids, r.bank = false → r.spot = 0 → r.state ≠ .loading) ∧ Memory.wf (jobEnded id).mem = true ∧
    (∀ p ∈ (jobEnded id).procs, ∀ y, p.saved = some y → y.1 ≠ 3) ∧
    (∃ x, (jobEnded fun m => { m with nets := [{ net0 with live := false }] }).nets[0]? = some x ∧ x.live = false ∧ x.nid = 7) ∧
    (∃ x, (jobEnded fun m => { m with nets := [net0] }).nets[0]? = some x ∧ x.live = true) ∧
    (let s := jobEnded fun m => { m with tenants := [{ ten1 with gone := true, tiles := [] }] }
      ∃ y, s.toMach.tenant 1 = some y ∧ y.gone = true ∧ y.tiles = [] ∧ (∀ x ∈ s.nets, x.tenant = 1 → x.live = false) ∧
        ∀ q ∈ s.port.queues, q.tenant = 1 → q.tearing = false) :=
  ⟨by decide +kernel, by decide +kernel, fun _ h => (List.not_mem_nil h).elim, by decide +kernel, fun _ h => (List.not_mem_nil h).elim, ⟨_, rfl, rfl, rfl⟩, ⟨_, rfl, rfl⟩,
    ⟨_, rfl, rfl, rfl, fun _ h => (List.not_mem_nil h).elim, by decide +kernel⟩⟩
/-- Rows 2 and 3 of stack 0 are the spill region of the final network. -/
def spilledNet : Mach → Mach := fun m => { m with
  nets := [{ net0 with live := false, spill := [(0, 2, 4)] }], mem := [(3, 7), (2 * 8192 + 5, 9), (4 * 8192, 8)] }
theorem witness_OwnerChange_spill : Memory.wf (jobEnded spilledNet).mem = true ∧ Spilled (jobEnded spilledNet) 7 (2 * 8192) ∧
    ¬ Spilled (jobEnded spilledNet) 7 (4 * 8192) ∧ ¬ Spilled (jobEnded spilledNet) 8 (2 * 8192) := by
  unfold Spilled; decide +kernel
theorem test_spill_rows : after (.rowClearComplete (.spill 7)) (jobEnded spilledNet) (fun t => (t.mem, t.nets.map (·.spill))) =
    some ([(3, 7), (4 * 8192, 8)], [[]]) := by decide +kernel
theorem test_zeroed : after (.tileZeroingComplete 0) (jobEnded id) (fun t => (t.mem, t.tenants.map (·.tiles), (t.toMach.tile 0).zeroing)) =
    some (cells (Key.save 3 0) 1 6, [[]], false) := by decide +kernel

/-! The step: instructions of the tables run as the first of all after reset; every bound of the port holds there. -/

theorem allAlike {α : Type} {n k : Nat} {a b : α} (h : (Vector.replicate n a)[k]? = some b) : a = b := by
  simp only [Vector.getElem?_replicate, Option.ite_none_right_eq_some, Option.some.injEq] at h
  exact h.2
theorem witness_PortBoundsKept : PortBounds State.reset.port := by
  constructor <;> first | decide | exact fun _ _ h => allAlike (n := 8) h ▸ by decide | exact fun _ _ h => allAlike (n := 12) h ▸ by decide
/-- R88: `nop`, placed at the pc after reset, runs. -/
theorem test_first_step : (match step (State.reset.withFetchWord 16 0) with
    | .next t => t.ctx.pc == 2
    | _ => false) = true := by decide +kernel

end Sys2Proof.Tests
end

section
/-! Division (R94): what the divider's quotients and remainders are, and the statement about its four instructions. -/

namespace Sys2Proof.Machine

open Sys2Proof.Claim

/-! The 2/3 instructions (R93): an instruction that is `alu` of a function retires with that function of its sources. -/

theorem retires_of_alu {i : Instr} {x : F2} {s : State} {f : Word → Word → Word} (he : exec i s = alu x s f) :
    Retires i x.len s (s.toMach.setG x.dN (f (srcX s x) (srcY s x))) := by
  have hx : srcX s x = s.toMach.xOf x := apply_ite s.toMach.g _ _ _
  have hy : srcY s x = s.toMach.yOf x := apply_ite s.toMach.g _ _ _
  rw [hx, hy]
  exact retires_of_plain he (Ctx.setG_pc _ _ _) (Ctx.setG_far _ _ _)

theorem div_retires (x : F2) (s : State) :
    Retires (.div x) x.len s (s.toMach.setG x.dN (quotS (srcX s x) (srcY s x))) := retires_of_alu rfl
theorem divu_retires (x : F2) (s : State) :
    Retires (.divu x) x.len s (s.toMach.setG x.dN (quotU (srcX s x) (srcY s x))) := retires_of_alu rfl
theorem rem_retires (x : F2) (s : State) :
    Retires (.rem x) x.len s (s.toMach.setG x.dN (remS (srcX s x) (srcY s x))) := retires_of_alu rfl
theorem remu_retires (x : F2) (s : State) :
    Retires (.remu x) x.len s (s.toMach.setG x.dN (remU (srcX s x) (srcY s x))) := retires_of_alu rfl

/-! The divisor 0. -/

@[simp] theorem quotS_zero (x : Word) : quotS x 0 = BitVec.allOnes 64 := rfl
@[simp] theorem quotU_zero (x : Word) : quotU x 0 = BitVec.allOnes 64 := rfl
@[simp] theorem remS_zero (x : Word) : remS x 0 = x := by simp only [remS, BitVec.ofNat_eq_ofNat, BitVec.mul_zero, BitVec.sub_zero]
@[simp] theorem remU_zero (x : Word) : remU x 0 = x := by simp only [remU, BitVec.ofNat_eq_ofNat, BitVec.mul_zero, BitVec.sub_zero]

/-! Any other divisor: the divider computes the library's quotients and remainders of words. -/

theorem quotU_eq_udiv {x y : Word} (h : y ≠ 0) : quotU x y = x / y := by rw [quotU, if_neg h, BitVec.udiv_def]

theorem remU_eq_umod {x y : Word} (h : y ≠ 0) : remU x y = x % y := by
  have hsum : x % y + x / y * y = x := by
    apply BitVec.eq_of_toNat_eq
    rw [BitVec.toNat_add, BitVec.toNat_mul, BitVec.toNat_umod, BitVec.toNat_udiv, Nat.add_mod_mod, Nat.mod_add_div',
      Nat.mod_eq_of_lt x.isLt]
  rw [remU, quotU_eq_udiv h, BitVec.sub_eq_iff_eq_add, hsum]

theorem quotS_eq_sdiv {x y : Word} (h : y ≠ 0) : quotS x y = x.sdiv y := by
  rw [quotS, if_neg h]
  apply BitVec.eq_of_toInt_eq
  rw [BitVec.toInt_ofInt, BitVec.toInt_sdiv]

theorem remS_eq_srem {x y : Word} (h : y ≠ 0) : remS x y = x.srem y := by
  have hq : quotS x y = BitVec.ofInt 64 (x.toInt.tdiv y.toInt) := if_neg h
  have hsum : BitVec.ofInt 64 (x.toInt.tmod y.toInt) + quotS x y * y = x := by
    calc BitVec.ofInt 64 (x.toInt.tmod y.toInt) + quotS x y * y
        = BitVec.ofInt 64 (x.toInt.tmod y.toInt + x.toInt.tdiv y.toInt * y.toInt) := by
          rw [BitVec.ofInt_add, BitVec.ofInt_mul, BitVec.ofInt_toInt, hq]
      _ = x := by rw [Int.tmod_add_tdiv_mul, BitVec.ofInt_toInt]
  rw [remS, BitVec.sub_eq_iff_eq_add, ← BitVec.ofInt_toInt (x := x.srem y), BitVec.toInt_srem, hsum]

/-! The values that the rule gives, as numbers. -/

theorem quotS_toInt {x y : Word} (h : y ≠ 0) (hc : ¬ (y.toInt = -1 ∧ x.toInt = -2 ^ 63)) :
    (quotS x y).toInt = x.toInt.tdiv y.toInt := by
  have fits : x ≠ BitVec.intMin 64 ∨ y ≠ -1#64 := by
    by_cases hx : x = BitVec.intMin 64
    · right
      rintro rfl
      exact hc ⟨by decide, by rw [hx]; decide⟩
    · exact .inl hx
  rw [quotS_eq_sdiv h, BitVec.toInt_sdiv_of_ne_or_ne x y fits]

/-- The quotient 2^63 does not fit: it wraps to -2^63. -/
theorem quotS_toInt_overflow {x y : Word} (h : y ≠ 0) (hy : y.toInt = -1) (hx : x.toInt = -2 ^ 63) :
    (quotS x y).toInt = -2 ^ 63 := by
  rw [quotS_eq_sdiv h, BitVec.toInt_sdiv, hx, hy]
  decide

theorem remS_toInt {x y : Word} (h : y ≠ 0) : (remS x y).toInt = x.toInt.tmod y.toInt := by
  rw [remS_eq_srem h, BitVec.toInt_srem]

/-- Every number is a multiple of -1, the one whose quotient does not fit too. -/
theorem remS_neg_one {x y : Word} (h : y ≠ 0) (hy : y.toInt = -1) : remS x y = 0 := by
  apply BitVec.eq_of_toInt_eq
  rw [remS_toInt h, hy, Int.tmod_neg, Int.tmod_one]
  rfl

theorem quotU_toNat {x y : Word} (h : y ≠ 0) : (quotU x y).toNat = x.toNat / y.toNat := by
  rw [quotU_eq_udiv h, BitVec.toNat_udiv]

theorem remU_toNat {x y : Word} (h : y ≠ 0) : (remU x y).toNat = x.toNat % y.toNat := by
  rw [remU_eq_umod h, BitVec.toNat_umod]

/-! The identity of R94, modulo 2^64. -/

theorem quotS_mul_add_remS (x y : Word) : quotS x y * y + remS x y = x := by
  rw [remS, BitVec.add_comm, BitVec.sub_add_cancel]

theorem quotU_mul_add_remU (x y : Word) : quotU x y * y + remU x y = x := by
  rw [remU, BitVec.add_comm, BitVec.sub_add_cancel]

/-! The table of R94, instruction by instruction. -/

theorem divRule_div (i : F2) (x y : Word) : DivRule (.div i) x y (quotS x y) := by
  unfold DivRule
  dsimp only
  split
  next h => rw [h, quotS_zero]
  next h =>
    split
    next hc => exact quotS_toInt_overflow h hc.1 hc.2
    next hc => exact quotS_toInt h hc

theorem divRule_divu (i : F2) (x y : Word) : DivRule (.divu i) x y (quotU x y) := by
  unfold DivRule
  dsimp only
  split
  next h => rw [h, quotU_zero]
  next h => exact quotU_toNat h

theorem divRule_rem (i : F2) (x y : Word) : DivRule (.rem i) x y (remS x y) := by
  unfold DivRule
  dsimp only
  split
  next h => rw [h, remS_zero]
  next h =>
    split
    next hc => exact remS_neg_one h hc.1
    next => exact remS_toInt h

theorem divRule_remu (i : F2) (x y : Word) : DivRule (.remu i) x y (remU x y) := by
  unfold DivRule
  dsimp only
  split
  next h => rw [h, remU_zero]
  next h => exact remU_toNat h

/-- Settles O7: each of the four instructions retires with the divider's result, which meets the table of R94; the remainder
is defined as what the quotient leaves of x, so that the identity holds in the two corners too. -/
theorem division : Obligations.Division := by
  unfold Obligations.Division
  simp only [List.forall_mem_cons, List.not_mem_nil, false_imp_iff, implies_true, and_true]
  refine ⟨⟨?div, ?divu, ?rem, ?remu⟩, ?signed, ?unsigned⟩ <;> intro x s
  case div => exact ⟨_, divRule_div x _ _, div_retires x s⟩
  case divu => exact ⟨_, divRule_divu x _ _, divu_retires x s⟩
  case rem => exact ⟨_, divRule_rem x _ _, rem_retires x s⟩
  case remu => exact ⟨_, divRule_remu x _ _, remu_retires x s⟩
  case signed => exact ⟨_, _, div_retires x s, rem_retires x s, quotS_mul_add_remS _ _⟩
  case unsigned => exact ⟨_, _, divu_retires x s, remu_retires x s, quotU_mul_add_remU _ _⟩

end Sys2Proof.Machine
end

section
/-! The stream number (R225): `rstream` in its two cases, and the statement about it. -/

namespace Sys2Proof.Machine

open Sys2Proof.Claim

/-- The bits of g(a) above the low halfword are zero: the low halfword, which R225 takes, is g(a) itself. -/
theorem rstream_of_fits {x : F2} {s : Mach} (h : (s.g x.aN).toNat / 2 ^ 16 = 0) :
    rstream x s = .ok { m := { s with ctx := { s.ctx with
      rngId := BitVec.ofNat 32 ((s.g x.aN).toNat % 2 ^ 16 * 2 ^ 16 + s.ctx.rngId.toNat % 2 ^ 16)
      rngctl := if x.w then s.g x.eN else 0 } } } := by
  have hlow : (s.g x.aN).toNat % 2 ^ 16 = (s.g x.aN).toNat := Nat.mod_eq_of_lt (Nat.lt_of_div_eq_zero (by decide) h)
  rw [hlow]
  exact if_neg (not_not_intro h)

theorem rstream_of_wide {x : F2} {s : Mach} (h : (s.g x.aN).toNat / 2 ^ 16 ≠ 0) :
    rstream x s = illegal 0x0C (s.g x.aN) := if_pos h

/-- Settles O15: with the high bits of g(a) zero the chain retires with the stream number and the counter alone replaced, and
otherwise it traps with g(a) as the trap's value. -/
theorem streamNumber : Obligations.StreamNumber := by
  unfold Obligations.StreamNumber
  intro x s
  constructor
  · intro hfits
    exact retires_of_ok rfl (rstream_of_fits hfits) rfl rfl
  · intro hwide
    exact ⟨s.toMach.g x.aN, traps_of_error rfl (rstream_of_wide hwide)⟩

end Sys2Proof.Machine
end
